-- ==== Sys2Proof/Word.lean ====
section
/-! DEFINITION. The word types of the Barlin D4 model (R3, R4): bytes, 32-bit vector words, 64-bit
scalar words, and the sparse tables that hold every indexed piece of state as plain data. -/

namespace Sys2Proof

/-- One byte of memory. -/
abbrev Byte := BitVec 8
/-- One 32-bit vector register lane (R284). -/
abbrev W32 := BitVec 32
/-- One 64-bit scalar, caller or system register, and one instruction word (R276, R284). -/
abbrev W64 := BitVec 64
/-- A run of bytes, lowest address first (R4). -/
abbrev Bytes := List Byte

/-- A sparse table: strictly rising keys, and no entry equal to what an unlisted key reads as. -/
abbrev Table (α : Type) := List (Nat × α)

end Sys2Proof
end

