-- ==== Sys2Proof/Syntax.lean ====
section
/-! DEFINITION. Syntax: one constructor of `Instr` for each row of the opcode table. An ISA row carries the
fields of its instruction word (R276, R277) and its literal (R281); a device event carries what the
environment decides (which port, which unit, which measured value, which bytes). -/

namespace Sys2Proof

/-- Fields of the R and E forms (R276, R277), with the literal that R281 lets stand for B. -/
structure RForm where
  d : BitVec 9
  a : BitVec 9
  b : BitVec 9
  c : BitVec 9
  fea : Bool
  feb : Bool
  fec : Bool
  mask : BitVec 7
  mod : BitVec 8
  lit : Option W64
  deriving DecidableEq, Repr, Inhabited

/-- Fields of the I and B forms (R277): IMM18 in bits 45:28, with the literal that may stand for it. -/
structure IForm where
  d : BitVec 9
  a : BitVec 9
  imm : BitVec 18
  fea : Bool
  feb : Bool
  fec : Bool
  mask : BitVec 7
  mod : BitVec 8
  lit : Option W64
  deriving DecidableEq, Repr, Inhabited

/-- Fields of the M form (R278): bits 45:28 hold OFF18, or OFF13 and SCOPE when ORDER is not 0. -/
structure MForm where
  d : BitVec 9
  a : BitVec 9
  off : BitVec 18
  fea : Bool
  feb : Bool
  fec : Bool
  mask : BitVec 7
  mod : BitVec 8
  deriving DecidableEq, Repr, Inhabited

/-- Fields of the A form (R279): B, SCOPE in 41:37 and AOP in 45:42. -/
structure AForm where
  d : BitVec 9
  a : BitVec 9
  b : BitVec 9
  scope : BitVec 5
  aop : BitVec 4
  fea : Bool
  feb : Bool
  fec : Bool
  mask : BitVec 7
  mod : BitVec 8
  lit : Option W64
  deriving DecidableEq, Repr, Inhabited

/-- A unit of a team: a group by its number, or the caller (R108). -/
structure UnitRef where
  team : Nat
  grp : Option Nat
  deriving DecidableEq, Repr, Inhabited

/-- The boot configuration that the accepted flash image sets (R41, R42, R54, R56, R483), with the world
assignment that the management processor makes at boot (R21 step 5, R24). -/
structure BootCfg where
  mgmtKey : W32
  nbase : Nat
  qtab : Nat
  l2Reserve : Nat
  conn0 : BitVec 512          -- the entry of connection 0 of every port (R41, R43)
  worldSets : BitVec 16
  worldCopy : BitVec 128
  worldColl : BitVec 4
  worldPorts : BitVec 8
  worldTu : BitVec 64
  regionDesc : List W64
  secureCtx : List Nat
  frames : List Nat           -- frames held for retirement (R29)
  deriving DecidableEq, Repr, Inhabited

/-- A firmware image with its header (R21, R22). -/
structure Image where
  keyRsa : BitVec 384         -- digest of the RSA-3072 public key in the header
  keySlh : BitVec 384         -- digest of the SLH-DSA public key in the header
  svn : W32
  cfg : BootCfg
  bytes : Bytes
  sigRsa : Bytes
  sigSlh : Bytes
  deriving DecidableEq, Repr, Inhabited

/-- What a port hands on of one inbound request: the connection it names, its PSN, the key and remote
virtual address, its payload and its immediate data, and whether it was marked (R35, R37, R40). -/
structure InPacket where
  port : Nat
  conn : Nat
  psn : BitVec 24
  rkey : W32
  va : Nat
  data : Bytes
  imm : Option W32
  marked : Bool
  deriving DecidableEq, Repr, Inhabited

/-- The negative acknowledgements of R35, R38, R40 and R47. -/
inductive NakKind where
  | sequence
  | remoteAccess
  | remoteOperational
  | invalidRequest
  deriving DecidableEq, Repr, Inhabited

/-- A counter that partitions share (R103): of a memory-side slice, of a die-to-die link, of an Ethernet port, or of a quadrille. -/
inductive SharedCounter where
  | slice (slice n : Nat)
  | link (n : Nat)
  | port (n : Nat)
  | quadrille (n : Nat)
  deriving DecidableEq, Repr, Inhabited

/-- A register written field by field by its access codes (R5): a port's registers (R34, R45), a device or
context register (R42), a world register (R24), a counter control (R101, R151), or a shared counter (R103). -/
inductive RegId where
  | portStatus (port : Nat)
  | portCong (port : Nat)
  | device (n : Nat)
  | context (ctx n : Nat)
  | worldLock
  | worldVector (n : Nat)
  | region (n : Nat)
  | sliceControl (slice n : Nat)
  | coreControl (core n : Nat)
  | shared (counter : SharedCounter) (part : Option Nat)   -- written by a partition, or over a management connection
  deriving DecidableEq, Repr, Inhabited

/-- The instructions and events of the opcode table, in the order of its rows; the events without
parameters stand last. -/
inductive Instr where
  /-- POWER_CAP_CHECK (R16): Every 100 µs the management processor compares measured input power with the cap and lowers clock steps to stay within it. -/
  | powerCapCheck (watts : Nat) (die : Nat)
  /-- THERMAL_THRESHOLD_CROSSED (R20): A die whose hottest sensor reaches 95 °C drops one ACLK step. -/
  | thermalThresholdCrossed (sensor : Nat) (celsius : Nat)
  /-- THERMAL_DROP_TIMER (R20): After each 1 ms at or above 95 °C the die drops one further step, down to 400 MHz. -/
  | thermalDropTimer (die : Nat)
  /-- ACLK_CLIMB_TIMER (R20): After each 10 ms below 90 °C, or after the input recovers, the die climbs one step within the allowed limit. -/
  | aclkClimbTimer (die : Nat)
  /-- THERMAL_HALT (R20): At 110 °C on any sensor every core halts, error completions are written for running contexts and the module turns off. -/
  | thermalHalt (sensor : Nat) (celsius : Nat)
  /-- DYNAMIC_ADDRESS_ASSIGNMENT (R32): The board controller assigns the module's I3C dynamic address at bus initialisation. -/
  | dynamicAddressAssignment (addr : BitVec 7)
  /-- SET_POWER_CAP (R16): A sideband request stores a power cap clamped to 1,500 to 3,000 W, which the management processor then enforces. -/
  | setPowerCap (watts : Nat)
  /-- CLEAR_ALERT_CAUSES (R32): A sideband request clears alert causes, and the alert pin deasserts once every cause is cleared. -/
  | clearAlertCauses (mask : BitVec 4)
  /-- DELIVER_IMAGE (R21): In the recovery state an image delivered over I3C is checked by R22 and started if it is accepted. -/
  | deliverImage (img : Image)
  /-- CORRECTABLE_ERROR (R27): A correction opens or increments a tracking entry of its unit, and retirement is triggered if the count reaches T within W. -/
  | correctableError (ceu : Nat) (addr : Nat) (now : Nat)
  /-- TRACKING_WINDOW_EXPIRY (R27): At t0 + W a tracking entry closes and its count is discarded. -/
  | trackingWindowExpiry (ceu : Nat) (addr : Nat)
  /-- BANK_RETIREMENT (R29): A retired bank is copied to a spare between two clauses of the owning core, stalling a running team for at most 4,096 cycles. -/
  | bankRetirement (ceu : Nat) (addr : Nat)
  /-- MSC_WAY_RETIREMENT (R29): A retired MSC way has its dirty lines written back and waits for pinned or landing lines before it is disabled. -/
  | mscWayRetirement (slice : Nat) (way : Nat)
  /-- HBM_PAGE_RETIREMENT (R29): Each 64 KiB page of a retired HBM row is migrated to a reserve frame, or a lasting-fault event is raised if the reserve is empty. -/
  | hbmPageRetirement (ceu : Nat) (page : Nat)
  /-- LINK_UP (R39): A port gains LINK, and a link that returns within the hold time is recovered by retransmission. -/
  | linkUp (port : Nat)
  /-- LINK_LOSS (R39): A port losing LINK starts holding its connections for 2 ms. -/
  | linkLoss (port : Nat)
  /-- LINK_HOLD_EXPIRY (R39): After 2 ms without LINK every connection of the port enters the error state and DOWNS increments. -/
  | linkHoldExpiry (port : Nat)
  /-- MEDIA_CHANGE (R34): Insertion or removal of a module in a port's cage updates MEDIA within 10 ms. -/
  | mediaChange (port : Nat) (media : BitVec 2)
  /-- INBOUND_RDMA_WRITE (R48): An inbound RDMA WRITE is checked against the region table and written, visible at device scope before later requests on the connection. -/
  | inboundRdmaWrite (p : InPacket)
  /-- INBOUND_RDMA_READ (R40): An inbound RDMA READ is checked against the region table and answered, with duplicates served from the response cache. -/
  | inboundRdmaRead (p : InPacket) (len : Nat)
  /-- INBOUND_SEND (R40): An inbound SEND goes to the management processor on a management connection, or to the collective engine; otherwise it gets an invalid request NAK. -/
  | inboundSend (p : InPacket)
  /-- INBOUND_ATOMIC (R48): An inbound 64-bit FETCH_ADD or CMP_SWAP executes at the MSC slice ALU after ownership recall. -/
  | inboundAtomic (p : InPacket) (cas : Bool) (operand : BitVec 64) (compare : BitVec 64)
  /-- INBOUND_INVALID_REQUEST (R35): An inbound packet with an unsupported opcode, transport or alignment, or beyond 16 outstanding requests, gets an invalid request NAK and ends the connection. -/
  | inboundInvalidRequest (port : Nat) (conn : Nat) (psn : BitVec 24)
  /-- OUT_OF_SEQUENCE_PACKET (R38): The responder discards an out-of-sequence packet and answers the first with a sequence-error NAK. -/
  | outOfSequencePacket (port : Nat) (conn : Nat) (psn : BitVec 24)
  /-- NETWORK_ACK_RECEIVED (R52): An acknowledgement or response completes an outstanding outbound operation and delivers any fetched data. -/
  | networkAckReceived (port : Nat) (conn : Nat) (psn : BitVec 24) (data : Bytes)
  /-- NAK_RECEIVED (R38): A sequence-error NAK causes go-back-N resend, and any other NAK puts the connection in the error state. -/
  | nakReceived (port : Nat) (conn : Nat) (psn : BitVec 24) (kind : NakKind)
  /-- ACK_TIMEOUT (R38): On an ACK timeout the requester resends from the first unacknowledged PSN, or enters the error state when retries are exhausted. -/
  | ackTimeout (port : Nat) (conn : Nat)
  /-- PENDING_REQUEST_SEND (R36): A READ or atomic request waiting for the 16-request limit is sent once an outstanding request completes. -/
  | pendingRequestSend (port : Nat) (conn : Nat)
  /-- CONGESTION_NOTIFICATION_RECEIVED (R37): A congestion notification cuts the sending connection's rate by 2^-CUTSH, to at least 1 Gb/s. -/
  | congestionNotificationReceived (port : Nat) (conn : Nat)
  /-- RATE_RECOVERY_TIMER (R37): After each RECOVP without a notification the rate rises by RSTEP, up to line rate. -/
  | rateRecoveryTimer (port : Nat) (conn : Nat)
  /-- PAUSE_FRAME_RECEIVED (R37): With PFCEN set, a pause frame for priority RPRI pauses RoCEv2 traffic of the port. -/
  | pauseFrameReceived (port : Nat) (prio : BitVec 3) (quanta : BitVec 16)
  /-- REGISTER_WRITE (R5): A write to a register with no behaviour of its own acts by the access code of each field. -/
  | registerWrite (reg : RegId) (value : BitVec 64)
  /-- ENTRY_DECODE (R61): An active slot reads and decodes its queue's next valid entry into a decode window of at most 8 entries. -/
  | entryDecode (q : Nat)
  /-- LAUNCH_START (R62): A launch reads its kernel record and copies its argument block before its first team is placed, or completes with FORMAT, KERNEL or BUDGET. -/
  | launchStart (q : Nat) (idx : Nat)
  /-- BUDGET_COUNTER_EXPIRY (R81): The team budget counter reaches 0, so cause 0x0D is raised for the team and its set and the grace counter starts. -/
  | budgetCounterExpiry (team : Nat)
  /-- GRACE_EXPIRY (R81): If the team is not at its SLICE after 4,096 cycles, the hardware pre-empts it and its set mid-clause. -/
  | graceExpiry (team : Nat)
  /-- ALLOWANCE_CHARGE (R82): A batch of 1,024 cycles is charged to the queue allowance; at 0 the launches stop being ready and teams take cause 0x0D. -/
  | allowanceCharge (team : Nat)
  /-- TEAM_AT_SLICE (R80): When every unit has executed SLICE or exited, the team retires for the governor, saves for cause 0x0D, or continues. -/
  | teamAtSlice (team : Nat)
  /-- SAVE_COMPLETE (R93): The team frees its resources and is re-queued under R74 once its save is written. -/
  | saveComplete (team : Nat)
  /-- GOVERNOR_PERIOD (R84): At each period the stage governor reads occupancies and completes, withdraws or starts one stage swap. -/
  | governorPeriod (ctx : Nat)
  /-- CLAUSE_SELECT (R85): An idle partition selects a ready group's clause (and its 16-lane slot partner) to issue. -/
  | clauseSelect (core : Nat) (part : Nat)
  /-- CALLER_CLAUSE_SELECT (R87): An idle caller port selects the ready caller with the smallest LastIssue. -/
  | callerClauseSelect (core : Nat)
  /-- CLAUSE_FETCH_COMPLETE (R272): A clause's words arrive and its header is checked under R274, or the fetch faults. -/
  | clauseFetchComplete (u : UnitRef) (slot : Nat)
  /-- LONG_LATENCY_WRITEBACK (R117): The last lane of a long-latency producer returns, so its destinations are written and marked full and parked units resume. -/
  | longLatencyWriteback (id : Nat)
  /-- TRAP_DELIVERY (R120): A pending cause is delivered at a clause boundary by reading its HTAB entry and entering handler mode with the handler mask. -/
  | trapDelivery (u : UnitRef)
  /-- TEAM_END (R124): Once every unit has exited and its matrix operations have ended, the team frees its places, registers, slots and objects. -/
  | teamEnd (team : Nat)
  /-- PMC_OVERFLOW (R101): A performance counter wraps, sets OVF, and with INTEN writes an event word to the partition's event address. -/
  | pmcOverflow (core : Nat) (n : Nat)
  /-- TRANSLATION_ACCESS (R134): An access reaches its home translation unit and is performed, faulted with assignment, parked, or refused by page state. -/
  | translationAccess (id : Nat) (lane : Nat)
  /-- L1_WRITEBACK (R480): An L1 write-back reaches its home slice and is merged, accepted during a move, or dropped with a containment event. -/
  | l1Writeback (core : Nat) (line : Nat)
  /-- TRANSLATION_CHANGE_COMPLETE (R133): A page entry change becomes complete when every caching unit has acknowledged it. -/
  | translationChangeComplete (page : Nat)
  /-- MIGRATION_END (R139): A migration copy ends: on success FRAME and STATE are updated and parked accesses replay, otherwise the page returns to peer or is retired. -/
  | migrationEnd (page : Nat) (bad : Bool)
  /-- PIN_LANDING_ADMIT (R145): A pin or landing request waiting at the set limit is admitted when another pin or landing in the set ends. -/
  | pinLandingAdmit (slice : Nat) (set : Nat)
  /-- COPY_RECORD_START (R193): A channel reads and checks a transfer record, reserving its ring slot or waiting for ring room. -/
  | copyRecordStart (ch : Nat)
  /-- COPY_RECORD_END (R199): A record's writes are performed, then OWN is cleared, the sequence word written and the ring slot filled, and the chain continues or ends. -/
  | copyRecordEnd (ch : Nat)
  /-- MATRIX_OP_ACCEPT (R205): A parked caller's matrix operation is accepted into the queue once there is room, taking its slot. -/
  | matrixOpAccept (u : UnitRef)
  /-- SEQUENCER_STEP (R206): The sequencer performs one k-slab step into the head slot when the operands are available. -/
  | sequencerStep (core : Nat)
  /-- TILE_FETCH_RETURN (R209): The tile fetch unit receives and pins an MSC line of a direct-mode image. -/
  | tileFetchReturn (core : Nat)
  /-- EPILOGUE_ROW (R214): The epilogue engine transforms one row of the tail slot and writes it to the activation store or memory. -/
  | epilogueRow (core : Nat)
  /-- MATRIX_WATCHDOG_EXPIRY (R217): At 2^24 cycles without progress the matrix unit resets, discarding queued operations, zeroing held slots and raising cause 0x0E. -/
  | matrixWatchdogExpiry (core : Nat)
  /-- PRIMITIVE_FORWARD (R236): A source transforms, clips, culls and bins a PEMIT from the oldest live team or from the spill ring, and sends it to the owners. -/
  | primitiveForward (stream : Nat) (die : Nat)
  /-- RASTER_MERGE (R237): An owner's rasteriser takes the lowest (sequence, view) head once the watermarks allow it, and rasterises it. -/
  | rasterMerge (stream : Nat) (die : Nat)
  /-- FRAGMENT_TEAM_FORMATION (R241): The rasteriser writes primitive records and forms fragment teams, waiting while its ring is full. -/
  | fragmentTeamFormation (stream : Nat) (die : Nat)
  /-- RENDER_OUTPUT_PERFORM (R242): After a fragment team ends, the render output unit depth-tests, blends and stores its fragments in sequence order per pixel. -/
  | renderOutputPerform (stream : Nat) (die : Nat)
  /-- COLL_JOIN_WORD_ARRIVAL (R259): A join word from another party arrives, enabling sends to it, or ends the operation with MISMATCH. -/
  | collJoinWordArrival (n : Nat)
  /-- COLL_DATA_SEND (R261): A party sends exponents and then plane batches or standard transfers, in plane-major order, to each joined receiver. -/
  | collDataSend (die : Nat) (op : Nat)
  /-- COLL_EXPONENT_ARRIVAL (R263): A tile exponent arrives, and with all P exponents E is agreed or the tile is set to NaN. -/
  | collExponentArrival (n : Nat)
  /-- COLL_PLANE_BATCH_ARRIVAL (R261): A plane batch performed in staging is handed to the engine and recorded, and planes complete for every contributor are applied. -/
  | collPlaneBatchArrival (n : Nat)
  /-- COLL_STANDARD_TRANSFER_ARRIVAL (R260): A standard-mode contribution or partial result arrives in staging and is combined by the engine. -/
  | collStandardTransferArrival (n : Nat)
  /-- CUT_REQUEST_ARRIVAL (R267): The coordinator accepts the first collective-wide cut request and sends a freeze to every contributor. -/
  | cutRequestArrival (n : Nat)
  /-- FREEZE_ARRIVAL (R267): A contributor replies with s, the highest plane it has begun, and stops beyond max(k, s). -/
  | freezeArrival (n : Nat)
  /-- FREEZE_REPLIES_COLLECTED (R267): The coordinator sends K = max(k, every s) to every party. -/
  | freezeRepliesCollected (die : Nat) (op : Nat)
  /-- CUT_K_ARRIVAL (R267): A party completes planes 1 to K, applies exactly K planes, sets CUT and ends with status CUT. -/
  | cutKArrival (n : Nat)
  /-- STREAM_STOP_ARRIVAL (R266): A contributor told to stop sending to a party stops, and that party finishes each tile at the planes received, with SCUT. -/
  | streamStopArrival (n : Nat)
  /-- COLL_OPERATION_END (R269): An operation ends at a party: it writes the status area and then reserves and fills a ring slot. -/
  | collOperationEnd (die : Nat) (op : Nat)
  /-- IADD (R346): Integer add, wrapping or saturating. -/
  | iadd (f : RForm)
  /-- ISUB (R346): Integer subtract. -/
  | isub (f : RForm)
  /-- IMUL (R346): Integer multiply, low part. -/
  | imul (f : RForm)
  /-- IMULHI (R346): Integer multiply, high part. -/
  | imulhi (f : RForm)
  /-- IMAD (R346): Integer multiply-add. -/
  | imad (f : RForm)
  /-- IMIN (R346): Integer minimum. -/
  | imin (f : RForm)
  /-- IMAX (R346): Integer maximum. -/
  | imax (f : RForm)
  /-- IABS (R346): Integer absolute value. -/
  | iabs (f : RForm)
  /-- AND (R347): Bitwise AND. -/
  | andV (f : RForm)
  /-- OR (R347): Bitwise OR. -/
  | orV (f : RForm)
  /-- XOR (R347): Bitwise XOR. -/
  | xorV (f : RForm)
  /-- NOT (R347): Bitwise NOT. -/
  | notV (f : RForm)
  /-- SHL (R347): Shift left. -/
  | shl (f : RForm)
  /-- SHR (R347): Logical shift right. -/
  | shr (f : RForm)
  /-- SAR (R347): Arithmetic shift right. -/
  | sar (f : RForm)
  /-- BFE (R348): Bit-field extract. -/
  | bfe (f : RForm)
  /-- BFI (R348): Bit-field insert. -/
  | bfi (f : RForm)
  /-- POPC (R347): Population count. -/
  | popc (f : RForm)
  /-- CLZ (R347): Count leading zeros. -/
  | clz (f : RForm)
  /-- BREV (R347): Bit reverse. -/
  | brev (f : RForm)
  /-- ICMP (R349): Integer compare into a mask or per-lane value. -/
  | icmp (f : RForm)
  /-- SEL (R350): Per-lane select. -/
  | sel (f : RForm)
  /-- LEA (R351): Form a 64-bit address from a base plus a scaled index. -/
  | lea (f : RForm)
  /-- FADD (R352): Floating-point add. -/
  | fadd (f : RForm)
  /-- FSUB (R352): Floating-point subtract. -/
  | fsub (f : RForm)
  /-- FMUL (R352): Floating-point multiply. -/
  | fmul (f : RForm)
  /-- FFMA (R352): Fused multiply-add with one rounding. -/
  | ffma (f : RForm)
  /-- FMIN (R354): Floating-point minimum, copying bits. -/
  | fmin (f : RForm)
  /-- FMAX (R354): Floating-point maximum, copying bits. -/
  | fmax (f : RForm)
  /-- FCMP (R349): Floating-point compare. -/
  | fcmp (f : RForm)
  /-- FCLASS (R350): Classify a floating-point value into a one-hot class bit. -/
  | fclass (f : RForm)
  /-- FRND (R353): Round to an integral value. -/
  | frnd (f : RForm)
  /-- CVT (R355): Convert between formats. -/
  | cvt (f : RForm)
  /-- QBLK (R358): Quantise blocks of 32 lanes to MXF4 or MXI8. -/
  | qblk (f : RForm)
  /-- DQBLK (R358): Dequantise one block-scaled element per lane. -/
  | dqblk (f : RForm)
  /-- PACK (R357): Pack values into a packed format. -/
  | pack (f : RForm)
  /-- UNPACK (R357): Unpack a packed format into registers. -/
  | unpack (f : RForm)
  /-- DOT4 (R359): Short dot product with an accumulator. -/
  | dot4 (f : RForm)
  /-- SHFL (R361): Move values between lanes within segments. -/
  | shfl (f : RForm)
  /-- VOTE (R362): Vote across lanes into a scalar. -/
  | vote (f : RForm)
  /-- RDX (R363): Reduction across lanes in a fixed pairwise tree. -/
  | rdx (f : RForm)
  /-- SCAN (R363): Inclusive or exclusive prefix scan across lanes. -/
  | scan (f : RForm)
  /-- BCAST (R364): Broadcast one lane's value to the active lanes. -/
  | bcast (f : RForm)
  /-- MOV (R365): Bit-exact vector move. -/
  | mov (f : RForm)
  /-- MOVI (R365): Move an immediate or a literal. -/
  | movi (f : IForm)
  /-- MOVS (R365): Move between scalar and vector registers. -/
  | movs (f : RForm)
  /-- SRND (R356): Stochastic rounding from F32. -/
  | srnd (f : RForm)
  /-- FSEL (R350): Select by floating-point class. -/
  | fsel (f : RForm)
  /-- LD (R373): Load from global virtual memory. -/
  | ld (f : MForm)
  /-- ST (R373): Store to global virtual memory. -/
  | st (f : MForm)
  /-- LDS (R373): Load from the scratchpad. -/
  | lds (f : MForm)
  /-- STS (R373): Store to the scratchpad. -/
  | sts (f : MForm)
  /-- LDC (R373): Load from set scratch. -/
  | ldc (f : MForm)
  /-- STC (R373): Store to set scratch. -/
  | stc (f : MForm)
  /-- LDA (R373): Load from the activation store. -/
  | lda (f : MForm)
  /-- STA (R373): Store to the activation store. -/
  | sta (f : MForm)
  /-- LDK (R373): Load from the kernel constants. -/
  | ldk (f : MForm)
  /-- ATOM (R377): Returning atomic, per lane in ascending lane order. -/
  | atom (f : AForm)
  /-- RED (R379): Combined reduction sent to the slice or scratchpad ALU. -/
  | red (f : AForm)
  /-- FENCE (R381): Memory fence at a scope. -/
  | fence (f : MForm)
  /-- PREF (R382): Prefetch a line into L1 and the MSC, or the MSC only. -/
  | pref (f : MForm)
  /-- CCTL_WB (R383): Write back a line's dirty L1 bytes. -/
  | cctlWb (f : MForm)
  /-- CCTL_INV (R383): Write back and invalidate a line in L1. -/
  | cctlInv (f : MForm)
  /-- CCTL_CLRP (R383): Reset a line's priority to normal. -/
  | cctlClrp (f : MForm)
  /-- TEX (R387): Filtered texture sample. -/
  | tex (f : RForm)
  /-- TFETCH (R388): Fetch one texel. -/
  | tfetch (f : RForm)
  /-- IMST (R388): Store one texel. -/
  | imst (f : RForm)
  /-- RCP (R366): Correctly rounded reciprocal. -/
  | rcp (f : RForm)
  /-- RSQ (R366): Reciprocal square root. -/
  | rsq (f : RForm)
  /-- SQRT (R366): Square root. -/
  | sqrt (f : RForm)
  /-- EXP2 (R366): Base-2 exponential. -/
  | exp2 (f : RForm)
  /-- LOG2 (R366): Base-2 logarithm. -/
  | log2 (f : RForm)
  /-- SIN (R366): Sine. -/
  | sin (f : RForm)
  /-- COS (R366): Cosine. -/
  | cos (f : RForm)
  /-- TANH (R366): Hyperbolic tangent. -/
  | tanh (f : RForm)
  /-- SIGM (R366): Logistic sigmoid. -/
  | sigm (f : RForm)
  /-- BRA (R319): Unconditional branch. -/
  | bra (f : IForm)
  /-- BRZ (R319): Branch if the condition is zero. -/
  | brz (f : IForm)
  /-- BRNZ (R319): Branch if the condition is not zero. -/
  | brnz (f : IForm)
  /-- CALL (R320): Call, writing a link register. -/
  | call (f : IForm)
  /-- CALLI (R321): Indirect per-lane call opening a KIND 1 region after budget checks. -/
  | calli (f : RForm)
  /-- RET (R320): Return, or arrival at a CALLI rejoin. -/
  | ret (f : RForm)
  /-- EXIT (R323): Lanes, group or caller exit. -/
  | exit (f : RForm)
  /-- SPLIT (R322): Form up to four sub-groups by per-lane target. -/
  | split (f : IForm)
  /-- JOIN (R322): Sub-group arrival at the join; the final arrival rejoins or reruns the residue. -/
  | join (f : RForm)
  /-- YIELD (R324): End the clause, allowing a switch. -/
  | yield (f : RForm)
  /-- BARRIVE (R326): Arrive at a named barrier, optionally initialising it. -/
  | barrive (f : IForm)
  /-- BWAIT (R326): Wait for a named barrier's phase to change. -/
  | bwait (f : IForm)
  /-- BSYNC (R326): Arrive at a named barrier and wait. -/
  | bsync (f : IForm)
  /-- TKGET (R328): Take the next ticket from a dispenser. -/
  | tkget (f : RForm)
  /-- TKWAIT (R328): Wait until a ticket is served. -/
  | tkwait (f : RForm)
  /-- TKADV (R328): Release, then advance SERVING. -/
  | tkadv (f : RForm)
  /-- QPUSH (R329): Push to a team queue, parking while it is full. -/
  | qpush (f : RForm)
  /-- QPOP (R329): Pop from a team queue into an empty destination. -/
  | qpop (f : RForm)
  /-- SLICE (R330): Park until the team is at its SLICE. -/
  | slice (f : RForm)
  /-- GROW (R331): Request k more teams for the grid. -/
  | grow (f : IForm)
  /-- TRAP (R332): Raise software cause 0x14. -/
  | trap (f : IForm)
  /-- TRET (R332): End handler mode and resume or replay. -/
  | tret (f : RForm)
  /-- NOP (R324): No operation. -/
  | nop (f : RForm)
  /-- SREAD (R334): Read a system register. -/
  | sread (f : IForm)
  /-- SWRITE (R334): Write a system register. -/
  | swrite (f : IForm)
  /-- PMAP (R339): Map a frame to a page from handler mode. -/
  | pmap (f : RForm)
  /-- MIGR (R340): Migrate a page to a frame from handler mode. -/
  | migr (f : RForm)
  /-- WAITFE (R324): Park until named registers are full. -/
  | waitfe (f : RForm)
  /-- SADD (R314): Scalar add. -/
  | sadd (f : RForm)
  /-- SSUB (R314): Scalar subtract. -/
  | ssub (f : RForm)
  /-- SMUL (R314): Scalar multiply. -/
  | smul (f : RForm)
  /-- SAND (R314): Scalar AND. -/
  | sand (f : RForm)
  /-- SOR (R314): Scalar OR. -/
  | sor (f : RForm)
  /-- SXOR (R314): Scalar XOR. -/
  | sxor (f : RForm)
  /-- SNOT (R314): Scalar NOT. -/
  | snot (f : RForm)
  /-- SANDN (R314): Scalar AND NOT. -/
  | sandn (f : RForm)
  /-- SSHL (R314): Scalar shift left. -/
  | sshl (f : RForm)
  /-- SSHR (R314): Scalar shift right. -/
  | sshr (f : RForm)
  /-- SCMP (R314): Scalar compare. -/
  | scmp (f : RForm)
  /-- SSEL (R314): Scalar select. -/
  | ssel (f : RForm)
  /-- SPOPC (R314): Scalar population count. -/
  | spopc (f : RForm)
  /-- SFFS (R314): Find the lowest set bit. -/
  | sffs (f : RForm)
  /-- SMOV (R314): Scalar move. -/
  | smov (f : RForm)
  /-- SMOVI (R314): Scalar move of an immediate. -/
  | smovi (f : IForm)
  /-- SLDK (R316): Scalar load from the kernel constants. -/
  | sldk (f : MForm)
  /-- SLD (R316): Scalar load from global memory. -/
  | sld (f : MForm)
  /-- SST (R316): Scalar store to global memory. -/
  | sst (f : MForm)
  /-- SATOM (R318): Scalar returning atomic. -/
  | satom (f : AForm)
  /-- TDESC (R396): Build an operand word. -/
  | tdesc (f : IForm)
  /-- MOPF (R399): Write back L1 and order store writes before later MMAs. -/
  | mopf (f : RForm)
  /-- MMA (R398): Dense matrix multiply-accumulate into a reel slot. -/
  | mma (f : RForm)
  /-- MMASP (R398): Sparse-step matrix multiply-accumulate. -/
  | mmasp (f : RForm)
  /-- MWAIT (R400): Wait for covered matrix operations to end, raising stopped causes. -/
  | mwait (f : RForm)
  /-- MZERO (R401): Zero a reel slot. -/
  | mzero (f : RForm)
  /-- EPI (R403): Epilogue transform of a slot to the activation store or memory. -/
  | epi (f : RForm)
  /-- MSAVE (R404): Save a reel slot image to memory. -/
  | msave (f : RForm)
  /-- MREST (R404): Restore a reel slot image from memory. -/
  | mrest (f : RForm)
  /-- MSTAT (R404): Read a slot's status word. -/
  | mstat (f : RForm)
  /-- XCOPY (R406): Start a copy chain on a channel. -/
  | xcopy (f : RForm)
  /-- XCOPYY (R407): Start a copy chain and park until the ring fills. -/
  | xcopyy (f : IForm)
  /-- RINIT (R408): Initialise and claim a completion ring. -/
  | rinit (f : RForm)
  /-- RAWAIT (R409): Wait for a filled ring slot. -/
  | rawait (f : RForm)
  /-- RREL (R410): Release a ring slot. -/
  | rrel (f : RForm)
  /-- COPEN (R219): Open a coordinate binding. -/
  | copen (f : RForm)
  /-- CFORM (R223): Drain coordinate elements into a group's registers. -/
  | cform (f : RForm)
  /-- CSAVE (R228): Store the binding cursor. -/
  | csave (f : RForm)
  /-- CREST (R228): Restore or close the binding from a cursor. -/
  | crest (f : RForm)
  /-- HGATH (R250): Gather interpolated hash-grid features into the activation store. -/
  | hgath (f : RForm)
  /-- HSCAT (R252): Scatter weighted gradients into a grid level by RED. -/
  | hscat (f : RForm)
  /-- TRACE (R416): Traverse a BVH for the closest hit per lane. -/
  | trace (f : RForm)
  /-- COLL (R418): Start a collective operation. -/
  | coll (f : RForm)
  /-- PCNT (R419): Read a tile's status word as an acquire. -/
  | pcnt (f : RForm)
  /-- CCANCEL (R420): Single-stream cancel of one contributor. -/
  | ccancel (f : RForm)
  /-- CCANCEL_CUT (R420): Collective-wide cut request. -/
  | ccancelCut (f : RForm)
  /-- NSTORE (R423): Store to peer memory by RDMA WRITE runs. -/
  | nstore (f : RForm)
  /-- NFETCH_RD (R424): Fetch peer memory by RDMA READ. -/
  | nfetchRd (f : RForm)
  /-- NFETCH_ADD (R424): Remote 64-bit fetch-and-add per lane. -/
  | nfetchAdd (f : RForm)
  /-- NFETCH_CAS (R424): Remote 64-bit compare-and-swap per lane. -/
  | nfetchCas (f : RForm)
  /-- NSIG (R425): Signal a peer after earlier network operations. -/
  | nsig (f : RForm)
  /-- VPUB_OPEN (R255): Open the inactive buffer for writing. -/
  | vpubOpen (f : RForm)
  /-- VPUB_PUB (R255): Publish the open buffer as active. -/
  | vpubPub (f : RForm)
  /-- VPIN (R255): Pin the active version. -/
  | vpin (f : RForm)
  /-- VUNPIN (R255): Unpin a version. -/
  | vunpin (f : RForm)
  /-- VEMIT (R428): Write a vertex slot. -/
  | vemit (f : RForm)
  /-- PEMIT (R429): Emit triangles with a view mask. -/
  | pemit (f : RForm)
  /-- FOUT (R430): Send a fragment colour to the render output unit. -/
  | fout (f : RForm)
  /-- RFENCE (R431): Wait for render target writes up to a sequence. -/
  | rfence (f : RForm)
  /-- DIE_LINK_FAILURE (R268): A UCIe die-to-die link that an operation needs fails and cannot be recovered, so dependent collective parties end with LINK_DOWN. -/
  | dieLinkFailure (link : Nat)
  /-- MSAVE_MREST_TRANSFER (R217): A 512-byte transfer of a running MSAVE or MREST completes, advancing the operation and restarting the matrix watchdog count. -/
  | msaveMrestTransfer (core : Nat)
  /-- UNASSIGNED_OPCODE (R297): A unit issues an instruction word whose opcode is 0x000 or unassigned in its class, which raises cause 0x01 at issue. -/
  | unassignedOpcode (cls : BitVec 3) (word : BitVec 64)
  /-- INPUT_OVERVOLTAGE_DISCONNECT (R14): An input above 64 V makes the input protection disconnect the module, which enters the off state. -/
  | inputOvervoltageDisconnect
  /-- INPUT_VOLTAGE_HIGH_BAND (R14): An input above 60 V and up to 64 V sets the input-voltage alert while the module keeps running normally. -/
  | inputVoltageHighBand
  /-- INPUT_VOLTAGE_LOW_BAND (R14): An input from 38 V up to 40 V holds every compute die at the 400 MHz step and sets the input-voltage alert. -/
  | inputVoltageLowBand
  /-- INPUT_VOLTAGE_RESTORED (R14): An input back at 40 V or more lets the dies start climbing one step per 10 ms. -/
  | inputVoltageRestored
  /-- INPUT_DROPOUT (R14): An input below 38 V starts a ride-through on the hold-up storage, with every die at 400 MHz and the alert set. -/
  | inputDropout
  /-- INPUT_DROPOUT_EXPIRY (R14): An input below 38 V for more than 1 ms sends the module to the off state, and no context is saved. -/
  | inputDropoutExpiry
  /-- MODULE_RESET (R21): Module reset starts the root of trust, which verifies and measures a flash image slot and starts the management processor, or enters recovery. -/
  | moduleReset
  /-- READ_BOOT_STATE (R32): A sideband request returns whether the module is running, in recovery, or halted by R20. -/
  | readBootState
  /-- READ_JUNCTION_SENSORS (R32): A sideband request returns every junction sensor and the current ACLK step of each die. -/
  | readJunctionSensors
  /-- READ_ALERT_CAUSES (R32): A sideband request returns the pending alert causes. -/
  | readAlertCauses
  /-- CONN_WRITE (R43): The management processor stores a 64-byte connection entry, with BUSY or error-state handling by R42. -/
  | connWrite
  /-- CONN_READ (R42): It returns a connection entry with ERR as it stands. -/
  | connRead
  /-- CONN_RESET (R42): Every operation on the connection fails with kind 7, and the connection leaves the error state and restarts at line rate. -/
  | connReset
  /-- REGION_WRITE (R44): It stores a region table entry, subject to the world, kind and notify-page checks. -/
  | regionWrite
  /-- REGION_READ (R42): It returns a region table entry. -/
  | regionRead
  /-- PORT_WRITE (R34): It writes a port's status and control register. -/
  | portWrite
  /-- PORT_READ (R34): It returns a port's status and control register and clears DOWNS. -/
  | portRead
  /-- PADDR_WRITE (R42): It sets a port's IPv6 and IPv4 addresses. -/
  | paddrWrite
  /-- PADDR_READ (R42): It returns a port's addresses with its fused MAC address. -/
  | paddrRead
  /-- CONG_WRITE (R45): It writes a port's congestion parameters, or gives BADARG if a value is out of range. -/
  | congWrite
  /-- CONG_READ (R45): It returns a port's congestion register. -/
  | congRead
  /-- QDESC_WRITE (R54): It writes a queue descriptor, acting on its W1C bits and giving BUSY for changes while the queue is mapped or enabled. -/
  | qdescWrite
  /-- QUEUE_HALT_CLEAR (R69): Writing 1 to HALT writes SEQ with status OK at once and resumes the queue. -/
  | queueHaltClear
  /-- QDESC_READ (R42): It returns a queue descriptor. -/
  | qdescRead
  /-- CTXREG_WRITE (R42): It writes a context register, with BUSY where R99 refuses the write. -/
  | ctxregWrite
  /-- CONTEXT_PREEMPT (R99): Writing PRE = 1 hardware pre-empts every resident team of the context, set members together. -/
  | contextPreempt
  /-- CTXREG_READ (R42): It returns a context register. -/
  | ctxregRead
  /-- DEVREG_WRITE (R42): It writes a device register: partition configuration, event routing, link or port weights, or error-unit configuration. -/
  | devregWrite
  /-- DEVREG_READ (R42): It returns a device register; reading an error-unit configuration clears COUNT. -/
  | devregRead
  /-- PTE_WRITE (R42): It performs up to 251 level-2 entry writes in order at each page's coordinator, taking level-2 tables from the reserve. -/
  | pteWrite
  /-- PTE_READ (R42): It returns a page's level-2 entry. -/
  | pteRead
  /-- ATTEST (R26): It returns a 256-byte report body with the host's nonce, signed with RSA-PSS and SLH-DSA. -/
  | attest
  /-- FAULT_READ (R46): It returns a context's 64-byte fault record and clears it. -/
  | faultRead
  /-- PMC_READ (R101): It returns a core's performance counter and its control. -/
  | pmcRead
  /-- PMC_WRITE (R101): It writes a performance counter's control register. -/
  | pmcWrite
  /-- CTX_HALT (R42): Every team of the context ends without a save, its chains and collectives are cancelled, its objects are freed and its queues halt. -/
  | ctxHalt
  /-- POWER_ACTIVE (R15): A POWER request for Active returns the module from Retention with empty memory-side caches. -/
  | powerActive
  /-- POWER_RETENTION (R15): A POWER request for Retention stops the clocks and puts HBM in self-refresh after MSC write-back, or is BUSY while a team is resident. -/
  | powerRetention
  /-- POWER_OFF (R15): A POWER request for Off unpowers the module and loses every context. -/
  | powerOff
  /-- CEU_INFO (R42): It returns the structure, the unit number and the die of a correctable-error unit. -/
  | ceuInfo
  /-- NOTIFY_WRITE (R56): A notify word write makes ring entries valid up to WIDX and applies REFILL, or is rejected with OVERFLOW and HALT. -/
  | notifyWrite
  /-- MAPPER_PASS (R59): Every 4,096 FCLK the mapper unmaps idle or evictable queues and maps waiting queues into free slots. -/
  | mapperPass
  /-- DISTRIBUTOR_DECISION (R72): Every 2 FCLK the distributor places at most one unit of the first ready launch that fits, counting skips. -/
  | distributorDecision
  /-- INPUT_POWER_RETURN (R15): Input power comes back at the power connector while the module is in the off state. -/
  | inputPowerReturn
  /-- BADOP_REQUEST (R42): The management processor takes a request whose OPC is unassigned and answers it with status BADOP, changing nothing. -/
  | badopRequest
  deriving DecidableEq, Repr, Inhabited

end Sys2Proof
end

