-- ==== Sys2Proof/WellFormed.lean ====
section
/-! DEFINITION. WellFormed: what a term of `Instr` must satisfy to stand for words of the part or for an event of it.
An ISA term carries a literal exactly when its entry allows one and MOD bit 7 is set (R281, R297), and a term of a row
that shares its opcode with other rows holds the selector of its own row (R383, R417, R421, R426). An event names a
port, connection, core, slice, die or queue that exists (R11, R36, R54). -/

namespace Sys2Proof

/-- The assigned opcodes of each class (R297, R299 to R305). -/
def assignedOp (cls op : Nat) : Bool :=
  decide (1 ≤ op) && decide (op ≤ (match cls with | 0 => 48 | 1 => 17 | 2 => 9 | 3 => 28 | 4 => 20 | 5 => 10 | 6 => 25 | _ => 0))

/-- Opcodes that allow a literal (the Literal columns of R299 to R305). -/
def literalAllowed (cls op : Nat) : Bool :=
  match cls with
  | 0 => op ∈ [0x001, 0x002, 0x003, 0x004, 0x005, 0x006, 0x007, 0x009, 0x00A, 0x00B, 0x00D, 0x00E, 0x00F, 0x010, 0x011, 0x015, 0x016, 0x017, 0x018, 0x019, 0x01A, 0x01B, 0x01C, 0x01D, 0x01E, 0x026, 0x027, 0x02D, 0x02F]
  | 1 => op ∈ [0x00A, 0x00B]
  | 3 => op ∈ [0x014]
  | 4 => op ∈ [0x001, 0x002, 0x003, 0x004, 0x005, 0x006, 0x008, 0x009, 0x00A, 0x00B, 0x00C, 0x010, 0x014]
  | 5 => op ∈ [0x001]
  | _ => false

/-- The OP field of NFETCH's MOD (R421). -/
def nfetchOp (mod : BitVec 8) : BitVec 2 := mod.extractLsb' 3 2

/-- A literal stands in the term exactly when MOD bit 7 asks for one (R281). -/
def litWhen (mod : BitVec 8) (lit : Option W64) : Bool := lit.isSome == mod.getLsbD 7

/-- An entry that allows no literal carries none (R297). -/
def noLit (lit : Option W64) : Bool := lit.isNone

/-- See the head of the file. -/
def Instr.wellFormed : Instr → Bool
  | .inputOvervoltageDisconnect => true
  | .inputVoltageHighBand => true
  | .inputVoltageLowBand => true
  | .inputVoltageRestored => true
  | .inputDropout => true
  | .inputDropoutExpiry => true
  | .powerCapCheck _ dieN => decide (dieN < 4)
  | .thermalThresholdCrossed sensorN _ => decide (sensorN < 32)
  | .thermalDropTimer dieN => decide (dieN < 4)
  | .aclkClimbTimer dieN => decide (dieN < 4)
  | .thermalHalt sensorN _ => decide (sensorN < 32)
  | .moduleReset => true
  | .dynamicAddressAssignment _ => true
  | .readBootState => true
  | .setPowerCap _ => true
  | .readJunctionSensors => true
  | .readAlertCauses => true
  | .clearAlertCauses _ => true
  | .deliverImage _ => true
  | .correctableError _ _ _ => true
  | .trackingWindowExpiry _ _ => true
  | .bankRetirement _ _ => true
  | .mscWayRetirement sliceN wayN => decide (sliceN < 64) && decide (wayN < 16)
  | .hbmPageRetirement _ _ => true
  | .linkUp portN => decide (portN < 8)
  | .linkLoss portN => decide (portN < 8)
  | .linkHoldExpiry portN => decide (portN < 8)
  | .mediaChange portN _ => decide (portN < 8)
  | .inboundRdmaWrite p => decide (p.port < 8) && decide (p.conn < 4096)
  | .inboundRdmaRead p _ => decide (p.port < 8) && decide (p.conn < 4096)
  | .inboundSend p => decide (p.port < 8) && decide (p.conn < 4096)
  | .inboundAtomic p _ _ _ => decide (p.port < 8) && decide (p.conn < 4096)
  | .inboundInvalidRequest portN connN _ => decide (portN < 8) && decide (connN < 4096)
  | .outOfSequencePacket portN connN _ => decide (portN < 8) && decide (connN < 4096)
  | .networkAckReceived portN connN _ _ => decide (portN < 8) && decide (connN < 4096)
  | .nakReceived portN connN _ _ => decide (portN < 8) && decide (connN < 4096)
  | .ackTimeout portN connN => decide (portN < 8) && decide (connN < 4096)
  | .pendingRequestSend portN connN => decide (portN < 8) && decide (connN < 4096)
  | .congestionNotificationReceived portN connN => decide (portN < 8) && decide (connN < 4096)
  | .rateRecoveryTimer portN connN => decide (portN < 8) && decide (connN < 4096)
  | .pauseFrameReceived portN _ _ => decide (portN < 8)
  | .connWrite => true
  | .connRead => true
  | .connReset => true
  | .regionWrite => true
  | .regionRead => true
  | .portWrite => true
  | .portRead => true
  | .paddrWrite => true
  | .paddrRead => true
  | .congWrite => true
  | .congRead => true
  | .qdescWrite => true
  | .queueHaltClear => true
  | .qdescRead => true
  | .ctxregWrite => true
  | .contextPreempt => true
  | .ctxregRead => true
  | .devregWrite => true
  | .devregRead => true
  | .pteWrite => true
  | .pteRead => true
  | .attest => true
  | .faultRead => true
  | .pmcRead => true
  | .pmcWrite => true
  | .ctxHalt => true
  | .powerActive => true
  | .powerRetention => true
  | .powerOff => true
  | .ceuInfo => true
  | .registerWrite _ _ => true
  | .notifyWrite => true
  | .mapperPass => true
  | .entryDecode qN => decide (qN < 4096)
  | .launchStart qN _ => decide (qN < 4096)
  | .distributorDecision => true
  | .budgetCounterExpiry _ => true
  | .graceExpiry _ => true
  | .allowanceCharge _ => true
  | .teamAtSlice _ => true
  | .saveComplete _ => true
  | .governorPeriod ctxN => decide (ctxN < 4096)
  | .clauseSelect coreN partN => decide (coreN < 128) && decide (partN < 16)
  | .callerClauseSelect coreN => decide (coreN < 128)
  | .clauseFetchComplete _ _ => true
  | .longLatencyWriteback _ => true
  | .trapDelivery _ => true
  | .teamEnd _ => true
  | .pmcOverflow coreN _ => decide (coreN < 128)
  | .translationAccess _ _ => true
  | .l1Writeback coreN _ => decide (coreN < 128)
  | .translationChangeComplete _ => true
  | .migrationEnd _ _ => true
  | .pinLandingAdmit sliceN _ => decide (sliceN < 64)
  | .copyRecordStart chN => decide (chN < 512)
  | .copyRecordEnd chN => decide (chN < 512)
  | .matrixOpAccept _ => true
  | .sequencerStep coreN => decide (coreN < 128)
  | .tileFetchReturn coreN => decide (coreN < 128)
  | .epilogueRow coreN => decide (coreN < 128)
  | .matrixWatchdogExpiry coreN => decide (coreN < 128)
  | .primitiveForward _ dieN => decide (dieN < 4)
  | .rasterMerge _ dieN => decide (dieN < 4)
  | .fragmentTeamFormation _ dieN => decide (dieN < 4)
  | .renderOutputPerform _ dieN => decide (dieN < 4)
  | .collJoinWordArrival _ => true
  | .collDataSend dieN _ => decide (dieN < 4)
  | .collExponentArrival _ => true
  | .collPlaneBatchArrival _ => true
  | .collStandardTransferArrival _ => true
  | .cutRequestArrival _ => true
  | .freezeArrival _ => true
  | .freezeRepliesCollected dieN _ => decide (dieN < 4)
  | .cutKArrival _ => true
  | .streamStopArrival _ => true
  | .collOperationEnd dieN _ => decide (dieN < 4)
  | .iadd f => litWhen f.mod f.lit
  | .isub f => litWhen f.mod f.lit
  | .imul f => litWhen f.mod f.lit
  | .imulhi f => litWhen f.mod f.lit
  | .imad f => litWhen f.mod f.lit
  | .imin f => litWhen f.mod f.lit
  | .imax f => litWhen f.mod f.lit
  | .iabs f => noLit f.lit
  | .andV f => litWhen f.mod f.lit
  | .orV f => litWhen f.mod f.lit
  | .xorV f => litWhen f.mod f.lit
  | .notV f => noLit f.lit
  | .shl f => litWhen f.mod f.lit
  | .shr f => litWhen f.mod f.lit
  | .sar f => litWhen f.mod f.lit
  | .bfe f => litWhen f.mod f.lit
  | .bfi f => litWhen f.mod f.lit
  | .popc f => noLit f.lit
  | .clz f => noLit f.lit
  | .brev f => noLit f.lit
  | .icmp f => litWhen f.mod f.lit
  | .sel f => litWhen f.mod f.lit
  | .lea f => litWhen f.mod f.lit
  | .fadd f => litWhen f.mod f.lit
  | .fsub f => litWhen f.mod f.lit
  | .fmul f => litWhen f.mod f.lit
  | .ffma f => litWhen f.mod f.lit
  | .fmin f => litWhen f.mod f.lit
  | .fmax f => litWhen f.mod f.lit
  | .fcmp f => litWhen f.mod f.lit
  | .fclass f => noLit f.lit
  | .frnd f => noLit f.lit
  | .cvt f => noLit f.lit
  | .qblk f => noLit f.lit
  | .dqblk f => noLit f.lit
  | .pack f => noLit f.lit
  | .unpack f => noLit f.lit
  | .dot4 f => litWhen f.mod f.lit
  | .shfl f => litWhen f.mod f.lit
  | .vote f => noLit f.lit
  | .rdx f => noLit f.lit
  | .scan f => noLit f.lit
  | .bcast f => noLit f.lit
  | .mov f => noLit f.lit
  | .movi f => litWhen f.mod f.lit
  | .movs f => noLit f.lit
  | .srnd f => litWhen f.mod f.lit
  | .fsel f => noLit f.lit
  | .ld _ => true
  | .st _ => true
  | .lds _ => true
  | .sts _ => true
  | .ldc _ => true
  | .stc _ => true
  | .lda _ => true
  | .sta _ => true
  | .ldk _ => true
  | .atom f => litWhen f.mod f.lit
  | .red f => litWhen f.mod f.lit
  | .fence _ => true
  | .pref _ => true
  | .cctlWb f => decide (f.d ≠ 0x1C1) && decide (f.d ≠ 0x1C2)
  | .cctlInv f => decide (f.d = 0x1C1)
  | .cctlClrp f => decide (f.d = 0x1C2)
  | .tex f => noLit f.lit
  | .tfetch f => noLit f.lit
  | .imst f => noLit f.lit
  | .rcp f => noLit f.lit
  | .rsq f => noLit f.lit
  | .sqrt f => noLit f.lit
  | .exp2 f => noLit f.lit
  | .log2 f => noLit f.lit
  | .sin f => noLit f.lit
  | .cos f => noLit f.lit
  | .tanh f => noLit f.lit
  | .sigm f => noLit f.lit
  | .bra f => noLit f.lit
  | .brz f => noLit f.lit
  | .brnz f => noLit f.lit
  | .call f => noLit f.lit
  | .calli f => noLit f.lit
  | .ret f => noLit f.lit
  | .exit f => noLit f.lit
  | .split f => noLit f.lit
  | .join f => noLit f.lit
  | .yield f => noLit f.lit
  | .barrive f => noLit f.lit
  | .bwait f => noLit f.lit
  | .bsync f => noLit f.lit
  | .tkget f => noLit f.lit
  | .tkwait f => noLit f.lit
  | .tkadv f => noLit f.lit
  | .qpush f => noLit f.lit
  | .qpop f => noLit f.lit
  | .slice f => noLit f.lit
  | .grow f => litWhen f.mod f.lit
  | .trap f => noLit f.lit
  | .tret f => noLit f.lit
  | .nop f => noLit f.lit
  | .sread f => noLit f.lit
  | .swrite f => noLit f.lit
  | .pmap f => noLit f.lit
  | .migr f => noLit f.lit
  | .waitfe f => noLit f.lit
  | .sadd f => litWhen f.mod f.lit
  | .ssub f => litWhen f.mod f.lit
  | .smul f => litWhen f.mod f.lit
  | .sand f => litWhen f.mod f.lit
  | .sor f => litWhen f.mod f.lit
  | .sxor f => litWhen f.mod f.lit
  | .snot f => noLit f.lit
  | .sandn f => litWhen f.mod f.lit
  | .sshl f => litWhen f.mod f.lit
  | .sshr f => litWhen f.mod f.lit
  | .scmp f => litWhen f.mod f.lit
  | .ssel f => litWhen f.mod f.lit
  | .spopc f => noLit f.lit
  | .sffs f => noLit f.lit
  | .smov f => noLit f.lit
  | .smovi f => litWhen f.mod f.lit
  | .sldk _ => true
  | .sld _ => true
  | .sst _ => true
  | .satom f => litWhen f.mod f.lit
  | .tdesc f => litWhen f.mod f.lit
  | .mopf f => noLit f.lit
  | .mma f => noLit f.lit
  | .mmasp f => noLit f.lit
  | .mwait f => noLit f.lit
  | .mzero f => noLit f.lit
  | .epi f => noLit f.lit
  | .msave f => noLit f.lit
  | .mrest f => noLit f.lit
  | .mstat f => noLit f.lit
  | .xcopy f => noLit f.lit
  | .xcopyy f => noLit f.lit
  | .rinit f => noLit f.lit
  | .rawait f => noLit f.lit
  | .rrel f => noLit f.lit
  | .copen f => noLit f.lit
  | .cform f => noLit f.lit
  | .csave f => noLit f.lit
  | .crest f => noLit f.lit
  | .hgath f => noLit f.lit
  | .hscat f => noLit f.lit
  | .trace f => noLit f.lit
  | .coll f => noLit f.lit
  | .pcnt f => noLit f.lit
  | .ccancel f => noLit f.lit && decide (f.mod ≠ 1)
  | .ccancelCut f => noLit f.lit && decide (f.mod = 1)
  | .nstore f => noLit f.lit
  | .nfetchRd f => noLit f.lit && decide (nfetchOp f.mod ≠ 1) && decide (nfetchOp f.mod ≠ 2)
  | .nfetchAdd f => noLit f.lit && decide (nfetchOp f.mod = 1)
  | .nfetchCas f => noLit f.lit && decide (nfetchOp f.mod = 2)
  | .nsig f => noLit f.lit
  | .vpubOpen f => noLit f.lit && decide (f.mod ≠ 1)
  | .vpubPub f => noLit f.lit && decide (f.mod = 1)
  | .vpin f => noLit f.lit
  | .vunpin f => noLit f.lit
  | .vemit f => noLit f.lit
  | .pemit f => noLit f.lit
  | .fout f => noLit f.lit
  | .rfence f => noLit f.lit
  | .inputPowerReturn => true
  | .dieLinkFailure linkN => decide (linkN < 6)
  | .msaveMrestTransfer coreN => decide (coreN < 128)
  | .badopRequest => true
  | .unassignedOpcode cls w => !assignedOp cls.toNat (w.extractLsb' 0 10).toNat

end Sys2Proof
end

