-- ==== Sys2Proof/Decode.lean ====
section
/-! DEFINITION. Decode: from the words of a clause to an instruction, and back. An instruction word is read within
the class of its clause (R276, R297); a literal word follows where the entry allows one and MOD bit 7 is set (R281).
Decoding is total: a word whose opcode is unassigned decodes to `unassignedOpcode`, which raises cause 0x01 at issue,
and a clause that R274 or R275 refuses is rejected by name. Field values an entry does not accept are checked at
issue (R282, R283), so every bit of a word is kept here. -/

namespace Sys2Proof

/-- Bits of the R and E forms (R276, R277). -/
def unpackR (w : W64) (lit : Option W64) : RForm :=
  { d := w.extractLsb' 10 9, a := w.extractLsb' 19 9, b := w.extractLsb' 28 9, c := w.extractLsb' 37 9
    fea := w.getLsbD 46, feb := w.getLsbD 47, fec := w.getLsbD 48
    mask := w.extractLsb' 49 7, mod := w.extractLsb' 56 8, lit := lit }

/-- Bits of the I and B forms (R277). -/
def unpackI (w : W64) (lit : Option W64) : IForm :=
  { d := w.extractLsb' 10 9, a := w.extractLsb' 19 9, imm := w.extractLsb' 28 18
    fea := w.getLsbD 46, feb := w.getLsbD 47, fec := w.getLsbD 48
    mask := w.extractLsb' 49 7, mod := w.extractLsb' 56 8, lit := lit }

/-- Bits of the M form (R277, R278). -/
def unpackM (w : W64) : MForm :=
  { d := w.extractLsb' 10 9, a := w.extractLsb' 19 9, off := w.extractLsb' 28 18
    fea := w.getLsbD 46, feb := w.getLsbD 47, fec := w.getLsbD 48
    mask := w.extractLsb' 49 7, mod := w.extractLsb' 56 8 }

/-- Bits of the A form (R277, R279): SCOPE in 41:37, AOP in 45:42. -/
def unpackA (w : W64) (lit : Option W64) : AForm :=
  { d := w.extractLsb' 10 9, a := w.extractLsb' 19 9, b := w.extractLsb' 28 9
    scope := w.extractLsb' 37 5, aop := w.extractLsb' 42 4
    fea := w.getLsbD 46, feb := w.getLsbD 47, fec := w.getLsbD 48
    mask := w.extractLsb' 49 7, mod := w.extractLsb' 56 8, lit := lit }

/-- The opcode field (R276). -/
def opField (w : W64) : BitVec 10 := w.extractLsb' 0 10

def packR (op : BitVec 10) (f : RForm) : W64 :=
  f.mod ++ f.mask ++ BitVec.ofBool f.fec ++ BitVec.ofBool f.feb ++ BitVec.ofBool f.fea ++ f.c ++ f.b ++ f.a ++ f.d ++ op

def packI (op : BitVec 10) (f : IForm) : W64 :=
  f.mod ++ f.mask ++ BitVec.ofBool f.fec ++ BitVec.ofBool f.feb ++ BitVec.ofBool f.fea ++ f.imm ++ f.a ++ f.d ++ op

def packM (op : BitVec 10) (f : MForm) : W64 :=
  f.mod ++ f.mask ++ BitVec.ofBool f.fec ++ BitVec.ofBool f.feb ++ BitVec.ofBool f.fea ++ f.off ++ f.a ++ f.d ++ op

def packA (op : BitVec 10) (f : AForm) : W64 :=
  f.mod ++ f.mask ++ BitVec.ofBool f.fec ++ BitVec.ofBool f.feb ++ BitVec.ofBool f.fea ++ f.aop ++ f.scope ++ f.b ++
    f.a ++ f.d ++ op

/-- The instruction that an opcode names in class V (R299); none where it is unassigned. -/
def decodeV (op : Nat) (w : W64) (lit : Option W64) : Option Instr :=
  match op with
  | 0x001 => some (.iadd (unpackR w lit))
  | 0x002 => some (.isub (unpackR w lit))
  | 0x003 => some (.imul (unpackR w lit))
  | 0x004 => some (.imulhi (unpackR w lit))
  | 0x005 => some (.imad (unpackR w lit))
  | 0x006 => some (.imin (unpackR w lit))
  | 0x007 => some (.imax (unpackR w lit))
  | 0x008 => some (.iabs (unpackR w lit))
  | 0x009 => some (.andV (unpackR w lit))
  | 0x00A => some (.orV (unpackR w lit))
  | 0x00B => some (.xorV (unpackR w lit))
  | 0x00C => some (.notV (unpackR w lit))
  | 0x00D => some (.shl (unpackR w lit))
  | 0x00E => some (.shr (unpackR w lit))
  | 0x00F => some (.sar (unpackR w lit))
  | 0x010 => some (.bfe (unpackR w lit))
  | 0x011 => some (.bfi (unpackR w lit))
  | 0x012 => some (.popc (unpackR w lit))
  | 0x013 => some (.clz (unpackR w lit))
  | 0x014 => some (.brev (unpackR w lit))
  | 0x015 => some (.icmp (unpackR w lit))
  | 0x016 => some (.sel (unpackR w lit))
  | 0x017 => some (.lea (unpackR w lit))
  | 0x018 => some (.fadd (unpackR w lit))
  | 0x019 => some (.fsub (unpackR w lit))
  | 0x01A => some (.fmul (unpackR w lit))
  | 0x01B => some (.ffma (unpackR w lit))
  | 0x01C => some (.fmin (unpackR w lit))
  | 0x01D => some (.fmax (unpackR w lit))
  | 0x01E => some (.fcmp (unpackR w lit))
  | 0x01F => some (.fclass (unpackR w lit))
  | 0x020 => some (.frnd (unpackR w lit))
  | 0x021 => some (.cvt (unpackR w lit))
  | 0x022 => some (.qblk (unpackR w lit))
  | 0x023 => some (.dqblk (unpackR w lit))
  | 0x024 => some (.pack (unpackR w lit))
  | 0x025 => some (.unpack (unpackR w lit))
  | 0x026 => some (.dot4 (unpackR w lit))
  | 0x027 => some (.shfl (unpackR w lit))
  | 0x028 => some (.vote (unpackR w lit))
  | 0x029 => some (.rdx (unpackR w lit))
  | 0x02A => some (.scan (unpackR w lit))
  | 0x02B => some (.bcast (unpackR w lit))
  | 0x02C => some (.mov (unpackR w lit))
  | 0x02D => some (.movi (unpackI w lit))
  | 0x02E => some (.movs (unpackR w lit))
  | 0x02F => some (.srnd (unpackR w lit))
  | 0x030 => some (.fsel (unpackR w lit))
  | _ => none

/-- The instruction that an opcode names in class M (R300); none where it is unassigned. -/
def decodeM (op : Nat) (w : W64) (lit : Option W64) : Option Instr :=
  match op with
  | 0x001 => some (.ld (unpackM w))
  | 0x002 => some (.st (unpackM w))
  | 0x003 => some (.lds (unpackM w))
  | 0x004 => some (.sts (unpackM w))
  | 0x005 => some (.ldc (unpackM w))
  | 0x006 => some (.stc (unpackM w))
  | 0x007 => some (.lda (unpackM w))
  | 0x008 => some (.sta (unpackM w))
  | 0x009 => some (.ldk (unpackM w))
  | 0x00A => some (.atom (unpackA w lit))
  | 0x00B => some (.red (unpackA w lit))
  | 0x00C => some (.fence (unpackM w))
  | 0x00D => some (.pref (unpackM w))
  | 0x00E => some (if (unpackM w).d = 0x1C1 then .cctlInv (unpackM w) else if (unpackM w).d = 0x1C2 then .cctlClrp (unpackM w)
      else .cctlWb (unpackM w))
  | 0x00F => some (.tex (unpackR w lit))
  | 0x010 => some (.tfetch (unpackR w lit))
  | 0x011 => some (.imst (unpackR w lit))
  | _ => none

/-- The instruction that an opcode names in class X (R301); none where it is unassigned. -/
def decodeX (op : Nat) (w : W64) (lit : Option W64) : Option Instr :=
  match op with
  | 0x001 => some (.rcp (unpackR w lit))
  | 0x002 => some (.rsq (unpackR w lit))
  | 0x003 => some (.sqrt (unpackR w lit))
  | 0x004 => some (.exp2 (unpackR w lit))
  | 0x005 => some (.log2 (unpackR w lit))
  | 0x006 => some (.sin (unpackR w lit))
  | 0x007 => some (.cos (unpackR w lit))
  | 0x008 => some (.tanh (unpackR w lit))
  | 0x009 => some (.sigm (unpackR w lit))
  | _ => none

/-- The instruction that an opcode names in class C (R302); none where it is unassigned. -/
def decodeC (op : Nat) (w : W64) (lit : Option W64) : Option Instr :=
  match op with
  | 0x001 => some (.bra (unpackI w lit))
  | 0x002 => some (.brz (unpackI w lit))
  | 0x003 => some (.brnz (unpackI w lit))
  | 0x004 => some (.call (unpackI w lit))
  | 0x005 => some (.calli (unpackR w lit))
  | 0x006 => some (.ret (unpackR w lit))
  | 0x007 => some (.exit (unpackR w lit))
  | 0x008 => some (.split (unpackI w lit))
  | 0x009 => some (.join (unpackR w lit))
  | 0x00A => some (.yield (unpackR w lit))
  | 0x00B => some (.barrive (unpackI w lit))
  | 0x00C => some (.bwait (unpackI w lit))
  | 0x00D => some (.bsync (unpackI w lit))
  | 0x00E => some (.tkget (unpackR w lit))
  | 0x00F => some (.tkwait (unpackR w lit))
  | 0x010 => some (.tkadv (unpackR w lit))
  | 0x011 => some (.qpush (unpackR w lit))
  | 0x012 => some (.qpop (unpackR w lit))
  | 0x013 => some (.slice (unpackR w lit))
  | 0x014 => some (.grow (unpackI w lit))
  | 0x015 => some (.trap (unpackI w lit))
  | 0x016 => some (.tret (unpackR w lit))
  | 0x017 => some (.nop (unpackR w lit))
  | 0x018 => some (.sread (unpackI w lit))
  | 0x019 => some (.swrite (unpackI w lit))
  | 0x01A => some (.pmap (unpackR w lit))
  | 0x01B => some (.migr (unpackR w lit))
  | 0x01C => some (.waitfe (unpackR w lit))
  | _ => none

/-- The instruction that an opcode names in class S (R303); none where it is unassigned. -/
def decodeS (op : Nat) (w : W64) (lit : Option W64) : Option Instr :=
  match op with
  | 0x001 => some (.sadd (unpackR w lit))
  | 0x002 => some (.ssub (unpackR w lit))
  | 0x003 => some (.smul (unpackR w lit))
  | 0x004 => some (.sand (unpackR w lit))
  | 0x005 => some (.sor (unpackR w lit))
  | 0x006 => some (.sxor (unpackR w lit))
  | 0x007 => some (.snot (unpackR w lit))
  | 0x008 => some (.sandn (unpackR w lit))
  | 0x009 => some (.sshl (unpackR w lit))
  | 0x00A => some (.sshr (unpackR w lit))
  | 0x00B => some (.scmp (unpackR w lit))
  | 0x00C => some (.ssel (unpackR w lit))
  | 0x00D => some (.spopc (unpackR w lit))
  | 0x00E => some (.sffs (unpackR w lit))
  | 0x00F => some (.smov (unpackR w lit))
  | 0x010 => some (.smovi (unpackI w lit))
  | 0x011 => some (.sldk (unpackM w))
  | 0x012 => some (.sld (unpackM w))
  | 0x013 => some (.sst (unpackM w))
  | 0x014 => some (.satom (unpackA w lit))
  | _ => none

/-- The instruction that an opcode names in class T (R304); none where it is unassigned. -/
def decodeT (op : Nat) (w : W64) (lit : Option W64) : Option Instr :=
  match op with
  | 0x001 => some (.tdesc (unpackI w lit))
  | 0x002 => some (.mopf (unpackR w lit))
  | 0x003 => some (.mma (unpackR w lit))
  | 0x004 => some (.mmasp (unpackR w lit))
  | 0x005 => some (.mwait (unpackR w lit))
  | 0x006 => some (.mzero (unpackR w lit))
  | 0x007 => some (.epi (unpackR w lit))
  | 0x008 => some (.msave (unpackR w lit))
  | 0x009 => some (.mrest (unpackR w lit))
  | 0x00A => some (.mstat (unpackR w lit))
  | _ => none

/-- The instruction that an opcode names in class E (R305); none where it is unassigned. -/
def decodeE (op : Nat) (w : W64) (lit : Option W64) : Option Instr :=
  match op with
  | 0x001 => some (.xcopy (unpackR w lit))
  | 0x002 => some (.xcopyy (unpackI w lit))
  | 0x003 => some (.rinit (unpackR w lit))
  | 0x004 => some (.rawait (unpackR w lit))
  | 0x005 => some (.rrel (unpackR w lit))
  | 0x006 => some (.copen (unpackR w lit))
  | 0x007 => some (.cform (unpackR w lit))
  | 0x008 => some (.csave (unpackR w lit))
  | 0x009 => some (.crest (unpackR w lit))
  | 0x00A => some (.hgath (unpackR w lit))
  | 0x00B => some (.hscat (unpackR w lit))
  | 0x00C => some (.trace (unpackR w lit))
  | 0x00D => some (.coll (unpackR w lit))
  | 0x00E => some (.pcnt (unpackR w lit))
  | 0x00F => some (if (unpackR w lit).mod = 1 then .ccancelCut (unpackR w lit) else .ccancel (unpackR w lit))
  | 0x010 => some (.nstore (unpackR w lit))
  | 0x011 => some (if nfetchOp (unpackR w lit).mod = 1 then .nfetchAdd (unpackR w lit)
      else if nfetchOp (unpackR w lit).mod = 2 then .nfetchCas (unpackR w lit) else .nfetchRd (unpackR w lit))
  | 0x012 => some (.nsig (unpackR w lit))
  | 0x013 => some (if (unpackR w lit).mod = 1 then .vpubPub (unpackR w lit) else .vpubOpen (unpackR w lit))
  | 0x014 => some (.vpin (unpackR w lit))
  | 0x015 => some (.vunpin (unpackR w lit))
  | 0x016 => some (.vemit (unpackR w lit))
  | 0x017 => some (.pemit (unpackR w lit))
  | 0x018 => some (.fout (unpackR w lit))
  | 0x019 => some (.rfence (unpackR w lit))
  | _ => none

/-- An instruction word read in its class (R276, R297). -/
def decodeInstr (cls : BitVec 3) (w : W64) (lit : Option W64) : Instr :=
  let op := (opField w).toNat
  (match cls.toNat with
    | 0 => decodeV op w lit
    | 1 => decodeM op w lit
    | 2 => decodeX op w lit
    | 3 => decodeC op w lit
    | 4 => decodeS op w lit
    | 5 => decodeT op w lit
    | 6 => decodeE op w lit
    | _ => none).getD (.unassignedOpcode cls w)

/-- Whether a word takes the word after it as its literal (R281, R297). -/
def takesLiteral (cls : BitVec 3) (w : W64) : Bool :=
  literalAllowed cls.toNat (opField w).toNat && w.getLsbD 63

/-- The fields of a clause header (R273). -/
structure Header where
  count : Nat
  cls : BitVec 3
  stream : Bool
  joinpt : Bool
  yields : Bool
  loads : Bool
  stores : Bool
  barw : Bool
  ringw : Bool
  bar : Nat
  ring : Nat
  wreg0 : BitVec 9
  wreg1 : BitVec 9
  wreg2 : BitVec 9
  reserved : BitVec 9
  deriving DecidableEq, Repr, Inhabited

def decodeHeader (h : W64) : Header :=
  { count := (h.extractLsb' 0 4).toNat, cls := h.extractLsb' 4 3, stream := h.getLsbD 7, joinpt := h.getLsbD 8
    yields := h.getLsbD 9, loads := h.getLsbD 10, stores := h.getLsbD 11, barw := h.getLsbD 12, ringw := h.getLsbD 13
    bar := (h.extractLsb' 14 8).toNat, ring := (h.extractLsb' 22 6).toNat
    wreg0 := h.extractLsb' 28 9, wreg1 := h.extractLsb' 37 9, wreg2 := h.extractLsb' 46 9, reserved := h.extractLsb' 55 9 }

/-- Why bytes are not a clause (R274, R275). -/
inductive DecodeError where
  | headerReserved
  | badClass
  | noWord
  | noLiteral
  deriving DecidableEq, Repr, Inhabited

/-- The first instruction of a list of words in a class, and the words after it (R275, R281). -/
def decodeWords (cls : BitVec 3) : List W64 → Except DecodeError (Instr × List W64)
  | [] => .error .noWord
  | w :: rest =>
    if takesLiteral cls w then
      match rest with
      | [] => .error .noLiteral
      | l :: rest' => .ok (decodeInstr cls w (some l), rest')
    else .ok (decodeInstr cls w none, rest)

/-- A 64-bit word from its bytes, lowest address first (R4, R272); missing bytes read 0. -/
def wordOfBytes (bs : Bytes) : W64 :=
  (bs.take 8).foldr (fun b acc => (acc <<< 8) ||| b.setWidth 64) 0

/-- The bytes of a 64-bit word, lowest address first (R4). -/
def bytesOfWord (w : W64) : Bytes :=
  (List.range 8).map fun i => w.extractLsb' (8 * i) 8

/-- The words of a run of bytes (R272). -/
def wordsOfBytes (n : Nat) (bs : Bytes) : List W64 :=
  (List.range n).map fun i => wordOfBytes (bs.drop (8 * i))

/-- The first instruction of a clause held in bytes (R272 to R275). -/
def decodeBytes (bs : Bytes) : Except DecodeError (Instr × List W64) :=
  let h := decodeHeader (wordOfBytes bs)
  if h.reserved ≠ 0 then .error .headerReserved
  else if h.cls = 7 then .error .badClass
  else decodeWords h.cls (wordsOfBytes (min (h.count + 1) ((bs.length - 8) / 8)) (bs.drop 8))

/-- The words of an instruction: its class, its instruction word and its literal. -/
structure Encoded where
  cls : BitVec 3
  word : W64
  lit : Option W64
  deriving DecidableEq, Repr, Inhabited

/-- The words of a well-formed instruction (R276 to R281, R299 to R305); a device event has none. -/
def encode : Instr → Option Encoded
  | .inputOvervoltageDisconnect => none
  | .inputVoltageHighBand => none
  | .inputVoltageLowBand => none
  | .inputVoltageRestored => none
  | .inputDropout => none
  | .inputDropoutExpiry => none
  | .powerCapCheck _ _ => none
  | .thermalThresholdCrossed _ _ => none
  | .thermalDropTimer _ => none
  | .aclkClimbTimer _ => none
  | .thermalHalt _ _ => none
  | .moduleReset => none
  | .dynamicAddressAssignment _ => none
  | .readBootState => none
  | .setPowerCap _ => none
  | .readJunctionSensors => none
  | .readAlertCauses => none
  | .clearAlertCauses _ => none
  | .deliverImage _ => none
  | .correctableError _ _ _ => none
  | .trackingWindowExpiry _ _ => none
  | .bankRetirement _ _ => none
  | .mscWayRetirement _ _ => none
  | .hbmPageRetirement _ _ => none
  | .linkUp _ => none
  | .linkLoss _ => none
  | .linkHoldExpiry _ => none
  | .mediaChange _ _ => none
  | .inboundRdmaWrite _ => none
  | .inboundRdmaRead _ _ => none
  | .inboundSend _ => none
  | .inboundAtomic _ _ _ _ => none
  | .inboundInvalidRequest _ _ _ => none
  | .outOfSequencePacket _ _ _ => none
  | .networkAckReceived _ _ _ _ => none
  | .nakReceived _ _ _ _ => none
  | .ackTimeout _ _ => none
  | .pendingRequestSend _ _ => none
  | .congestionNotificationReceived _ _ => none
  | .rateRecoveryTimer _ _ => none
  | .pauseFrameReceived _ _ _ => none
  | .connWrite => none
  | .connRead => none
  | .connReset => none
  | .regionWrite => none
  | .regionRead => none
  | .portWrite => none
  | .portRead => none
  | .paddrWrite => none
  | .paddrRead => none
  | .congWrite => none
  | .congRead => none
  | .qdescWrite => none
  | .queueHaltClear => none
  | .qdescRead => none
  | .ctxregWrite => none
  | .contextPreempt => none
  | .ctxregRead => none
  | .devregWrite => none
  | .devregRead => none
  | .pteWrite => none
  | .pteRead => none
  | .attest => none
  | .faultRead => none
  | .pmcRead => none
  | .pmcWrite => none
  | .ctxHalt => none
  | .powerActive => none
  | .powerRetention => none
  | .powerOff => none
  | .ceuInfo => none
  | .registerWrite _ _ => none
  | .notifyWrite => none
  | .mapperPass => none
  | .entryDecode _ => none
  | .launchStart _ _ => none
  | .distributorDecision => none
  | .budgetCounterExpiry _ => none
  | .graceExpiry _ => none
  | .allowanceCharge _ => none
  | .teamAtSlice _ => none
  | .saveComplete _ => none
  | .governorPeriod _ => none
  | .clauseSelect _ _ => none
  | .callerClauseSelect _ => none
  | .clauseFetchComplete _ _ => none
  | .longLatencyWriteback _ => none
  | .trapDelivery _ => none
  | .teamEnd _ => none
  | .pmcOverflow _ _ => none
  | .translationAccess _ _ => none
  | .l1Writeback _ _ => none
  | .translationChangeComplete _ => none
  | .migrationEnd _ _ => none
  | .pinLandingAdmit _ _ => none
  | .copyRecordStart _ => none
  | .copyRecordEnd _ => none
  | .matrixOpAccept _ => none
  | .sequencerStep _ => none
  | .tileFetchReturn _ => none
  | .epilogueRow _ => none
  | .matrixWatchdogExpiry _ => none
  | .primitiveForward _ _ => none
  | .rasterMerge _ _ => none
  | .fragmentTeamFormation _ _ => none
  | .renderOutputPerform _ _ => none
  | .collJoinWordArrival _ => none
  | .collDataSend _ _ => none
  | .collExponentArrival _ => none
  | .collPlaneBatchArrival _ => none
  | .collStandardTransferArrival _ => none
  | .cutRequestArrival _ => none
  | .freezeArrival _ => none
  | .freezeRepliesCollected _ _ => none
  | .cutKArrival _ => none
  | .streamStopArrival _ => none
  | .collOperationEnd _ _ => none
  | .iadd f => some ⟨0, packR 0x001 f, f.lit⟩
  | .isub f => some ⟨0, packR 0x002 f, f.lit⟩
  | .imul f => some ⟨0, packR 0x003 f, f.lit⟩
  | .imulhi f => some ⟨0, packR 0x004 f, f.lit⟩
  | .imad f => some ⟨0, packR 0x005 f, f.lit⟩
  | .imin f => some ⟨0, packR 0x006 f, f.lit⟩
  | .imax f => some ⟨0, packR 0x007 f, f.lit⟩
  | .iabs f => some ⟨0, packR 0x008 f, f.lit⟩
  | .andV f => some ⟨0, packR 0x009 f, f.lit⟩
  | .orV f => some ⟨0, packR 0x00A f, f.lit⟩
  | .xorV f => some ⟨0, packR 0x00B f, f.lit⟩
  | .notV f => some ⟨0, packR 0x00C f, f.lit⟩
  | .shl f => some ⟨0, packR 0x00D f, f.lit⟩
  | .shr f => some ⟨0, packR 0x00E f, f.lit⟩
  | .sar f => some ⟨0, packR 0x00F f, f.lit⟩
  | .bfe f => some ⟨0, packR 0x010 f, f.lit⟩
  | .bfi f => some ⟨0, packR 0x011 f, f.lit⟩
  | .popc f => some ⟨0, packR 0x012 f, f.lit⟩
  | .clz f => some ⟨0, packR 0x013 f, f.lit⟩
  | .brev f => some ⟨0, packR 0x014 f, f.lit⟩
  | .icmp f => some ⟨0, packR 0x015 f, f.lit⟩
  | .sel f => some ⟨0, packR 0x016 f, f.lit⟩
  | .lea f => some ⟨0, packR 0x017 f, f.lit⟩
  | .fadd f => some ⟨0, packR 0x018 f, f.lit⟩
  | .fsub f => some ⟨0, packR 0x019 f, f.lit⟩
  | .fmul f => some ⟨0, packR 0x01A f, f.lit⟩
  | .ffma f => some ⟨0, packR 0x01B f, f.lit⟩
  | .fmin f => some ⟨0, packR 0x01C f, f.lit⟩
  | .fmax f => some ⟨0, packR 0x01D f, f.lit⟩
  | .fcmp f => some ⟨0, packR 0x01E f, f.lit⟩
  | .fclass f => some ⟨0, packR 0x01F f, f.lit⟩
  | .frnd f => some ⟨0, packR 0x020 f, f.lit⟩
  | .cvt f => some ⟨0, packR 0x021 f, f.lit⟩
  | .qblk f => some ⟨0, packR 0x022 f, f.lit⟩
  | .dqblk f => some ⟨0, packR 0x023 f, f.lit⟩
  | .pack f => some ⟨0, packR 0x024 f, f.lit⟩
  | .unpack f => some ⟨0, packR 0x025 f, f.lit⟩
  | .dot4 f => some ⟨0, packR 0x026 f, f.lit⟩
  | .shfl f => some ⟨0, packR 0x027 f, f.lit⟩
  | .vote f => some ⟨0, packR 0x028 f, f.lit⟩
  | .rdx f => some ⟨0, packR 0x029 f, f.lit⟩
  | .scan f => some ⟨0, packR 0x02A f, f.lit⟩
  | .bcast f => some ⟨0, packR 0x02B f, f.lit⟩
  | .mov f => some ⟨0, packR 0x02C f, f.lit⟩
  | .movi f => some ⟨0, packI 0x02D f, f.lit⟩
  | .movs f => some ⟨0, packR 0x02E f, f.lit⟩
  | .srnd f => some ⟨0, packR 0x02F f, f.lit⟩
  | .fsel f => some ⟨0, packR 0x030 f, f.lit⟩
  | .ld f => some ⟨1, packM 0x001 f, none⟩
  | .st f => some ⟨1, packM 0x002 f, none⟩
  | .lds f => some ⟨1, packM 0x003 f, none⟩
  | .sts f => some ⟨1, packM 0x004 f, none⟩
  | .ldc f => some ⟨1, packM 0x005 f, none⟩
  | .stc f => some ⟨1, packM 0x006 f, none⟩
  | .lda f => some ⟨1, packM 0x007 f, none⟩
  | .sta f => some ⟨1, packM 0x008 f, none⟩
  | .ldk f => some ⟨1, packM 0x009 f, none⟩
  | .atom f => some ⟨1, packA 0x00A f, f.lit⟩
  | .red f => some ⟨1, packA 0x00B f, f.lit⟩
  | .fence f => some ⟨1, packM 0x00C f, none⟩
  | .pref f => some ⟨1, packM 0x00D f, none⟩
  | .cctlWb f => some ⟨1, packM 0x00E f, none⟩
  | .cctlInv f => some ⟨1, packM 0x00E f, none⟩
  | .cctlClrp f => some ⟨1, packM 0x00E f, none⟩
  | .tex f => some ⟨1, packR 0x00F f, f.lit⟩
  | .tfetch f => some ⟨1, packR 0x010 f, f.lit⟩
  | .imst f => some ⟨1, packR 0x011 f, f.lit⟩
  | .rcp f => some ⟨2, packR 0x001 f, f.lit⟩
  | .rsq f => some ⟨2, packR 0x002 f, f.lit⟩
  | .sqrt f => some ⟨2, packR 0x003 f, f.lit⟩
  | .exp2 f => some ⟨2, packR 0x004 f, f.lit⟩
  | .log2 f => some ⟨2, packR 0x005 f, f.lit⟩
  | .sin f => some ⟨2, packR 0x006 f, f.lit⟩
  | .cos f => some ⟨2, packR 0x007 f, f.lit⟩
  | .tanh f => some ⟨2, packR 0x008 f, f.lit⟩
  | .sigm f => some ⟨2, packR 0x009 f, f.lit⟩
  | .bra f => some ⟨3, packI 0x001 f, f.lit⟩
  | .brz f => some ⟨3, packI 0x002 f, f.lit⟩
  | .brnz f => some ⟨3, packI 0x003 f, f.lit⟩
  | .call f => some ⟨3, packI 0x004 f, f.lit⟩
  | .calli f => some ⟨3, packR 0x005 f, f.lit⟩
  | .ret f => some ⟨3, packR 0x006 f, f.lit⟩
  | .exit f => some ⟨3, packR 0x007 f, f.lit⟩
  | .split f => some ⟨3, packI 0x008 f, f.lit⟩
  | .join f => some ⟨3, packR 0x009 f, f.lit⟩
  | .yield f => some ⟨3, packR 0x00A f, f.lit⟩
  | .barrive f => some ⟨3, packI 0x00B f, f.lit⟩
  | .bwait f => some ⟨3, packI 0x00C f, f.lit⟩
  | .bsync f => some ⟨3, packI 0x00D f, f.lit⟩
  | .tkget f => some ⟨3, packR 0x00E f, f.lit⟩
  | .tkwait f => some ⟨3, packR 0x00F f, f.lit⟩
  | .tkadv f => some ⟨3, packR 0x010 f, f.lit⟩
  | .qpush f => some ⟨3, packR 0x011 f, f.lit⟩
  | .qpop f => some ⟨3, packR 0x012 f, f.lit⟩
  | .slice f => some ⟨3, packR 0x013 f, f.lit⟩
  | .grow f => some ⟨3, packI 0x014 f, f.lit⟩
  | .trap f => some ⟨3, packI 0x015 f, f.lit⟩
  | .tret f => some ⟨3, packR 0x016 f, f.lit⟩
  | .nop f => some ⟨3, packR 0x017 f, f.lit⟩
  | .sread f => some ⟨3, packI 0x018 f, f.lit⟩
  | .swrite f => some ⟨3, packI 0x019 f, f.lit⟩
  | .pmap f => some ⟨3, packR 0x01A f, f.lit⟩
  | .migr f => some ⟨3, packR 0x01B f, f.lit⟩
  | .waitfe f => some ⟨3, packR 0x01C f, f.lit⟩
  | .sadd f => some ⟨4, packR 0x001 f, f.lit⟩
  | .ssub f => some ⟨4, packR 0x002 f, f.lit⟩
  | .smul f => some ⟨4, packR 0x003 f, f.lit⟩
  | .sand f => some ⟨4, packR 0x004 f, f.lit⟩
  | .sor f => some ⟨4, packR 0x005 f, f.lit⟩
  | .sxor f => some ⟨4, packR 0x006 f, f.lit⟩
  | .snot f => some ⟨4, packR 0x007 f, f.lit⟩
  | .sandn f => some ⟨4, packR 0x008 f, f.lit⟩
  | .sshl f => some ⟨4, packR 0x009 f, f.lit⟩
  | .sshr f => some ⟨4, packR 0x00A f, f.lit⟩
  | .scmp f => some ⟨4, packR 0x00B f, f.lit⟩
  | .ssel f => some ⟨4, packR 0x00C f, f.lit⟩
  | .spopc f => some ⟨4, packR 0x00D f, f.lit⟩
  | .sffs f => some ⟨4, packR 0x00E f, f.lit⟩
  | .smov f => some ⟨4, packR 0x00F f, f.lit⟩
  | .smovi f => some ⟨4, packI 0x010 f, f.lit⟩
  | .sldk f => some ⟨4, packM 0x011 f, none⟩
  | .sld f => some ⟨4, packM 0x012 f, none⟩
  | .sst f => some ⟨4, packM 0x013 f, none⟩
  | .satom f => some ⟨4, packA 0x014 f, f.lit⟩
  | .tdesc f => some ⟨5, packI 0x001 f, f.lit⟩
  | .mopf f => some ⟨5, packR 0x002 f, f.lit⟩
  | .mma f => some ⟨5, packR 0x003 f, f.lit⟩
  | .mmasp f => some ⟨5, packR 0x004 f, f.lit⟩
  | .mwait f => some ⟨5, packR 0x005 f, f.lit⟩
  | .mzero f => some ⟨5, packR 0x006 f, f.lit⟩
  | .epi f => some ⟨5, packR 0x007 f, f.lit⟩
  | .msave f => some ⟨5, packR 0x008 f, f.lit⟩
  | .mrest f => some ⟨5, packR 0x009 f, f.lit⟩
  | .mstat f => some ⟨5, packR 0x00A f, f.lit⟩
  | .xcopy f => some ⟨6, packR 0x001 f, f.lit⟩
  | .xcopyy f => some ⟨6, packI 0x002 f, f.lit⟩
  | .rinit f => some ⟨6, packR 0x003 f, f.lit⟩
  | .rawait f => some ⟨6, packR 0x004 f, f.lit⟩
  | .rrel f => some ⟨6, packR 0x005 f, f.lit⟩
  | .copen f => some ⟨6, packR 0x006 f, f.lit⟩
  | .cform f => some ⟨6, packR 0x007 f, f.lit⟩
  | .csave f => some ⟨6, packR 0x008 f, f.lit⟩
  | .crest f => some ⟨6, packR 0x009 f, f.lit⟩
  | .hgath f => some ⟨6, packR 0x00A f, f.lit⟩
  | .hscat f => some ⟨6, packR 0x00B f, f.lit⟩
  | .trace f => some ⟨6, packR 0x00C f, f.lit⟩
  | .coll f => some ⟨6, packR 0x00D f, f.lit⟩
  | .pcnt f => some ⟨6, packR 0x00E f, f.lit⟩
  | .ccancel f => some ⟨6, packR 0x00F f, f.lit⟩
  | .ccancelCut f => some ⟨6, packR 0x00F f, f.lit⟩
  | .nstore f => some ⟨6, packR 0x010 f, f.lit⟩
  | .nfetchRd f => some ⟨6, packR 0x011 f, f.lit⟩
  | .nfetchAdd f => some ⟨6, packR 0x011 f, f.lit⟩
  | .nfetchCas f => some ⟨6, packR 0x011 f, f.lit⟩
  | .nsig f => some ⟨6, packR 0x012 f, f.lit⟩
  | .vpubOpen f => some ⟨6, packR 0x013 f, f.lit⟩
  | .vpubPub f => some ⟨6, packR 0x013 f, f.lit⟩
  | .vpin f => some ⟨6, packR 0x014 f, f.lit⟩
  | .vunpin f => some ⟨6, packR 0x015 f, f.lit⟩
  | .vemit f => some ⟨6, packR 0x016 f, f.lit⟩
  | .pemit f => some ⟨6, packR 0x017 f, f.lit⟩
  | .fout f => some ⟨6, packR 0x018 f, f.lit⟩
  | .rfence f => some ⟨6, packR 0x019 f, f.lit⟩
  | .inputPowerReturn => none
  | .dieLinkFailure _ => none
  | .msaveMrestTransfer _ => none
  | .badopRequest => none
  | .unassignedOpcode cls w => some ⟨cls, w, none⟩

/-- The instruction that the decoder reads from bits numbered as the opcode table numbers them: a clause header, the
instruction word and its literal, each of 64 bits, lowest first (R272). None where the clause is refused. -/
def decodeTableWord (nbits w : Nat) : Option Instr :=
  let bits := w % 2 ^ nbits
  let bs := (List.range 24).map fun i => BitVec.ofNat 8 (bits >>> (8 * i))
  match decodeBytes bs with
  | .ok (i, _) => some i
  | .error _ => none

end Sys2Proof
end

