-- ==== Sys2Proof/Config.lean ====
section
/-! DEFINITION. Config: what an implementation fixes and the free values. Every `opaque` here has no body:
nothing can evaluate it, so a statement that mentions one holds for every value of it. -/

namespace Sys2Proof.Config

/-- The n-th free value drawn: a result the spec calls unpredictable, or does not state (R7; log 2). -/
opaque freeBits : (w : Nat) → Nat → BitVec w

/-- Whether an RSASSA-PSS SHA-384 signature verifies under the key with this digest (R22; log 11). -/
opaque verifyRsa : BitVec 384 → Bytes → Bytes → Bool
/-- Whether an SLH-DSA-SHA2-192s signature verifies under the key with this digest (R22; log 11). -/
opaque verifySlh : BitVec 384 → Bytes → Bytes → Bool
/-- The device identity key's RSA-3072 PSS signature, 384 bytes (R26; log 11). -/
opaque signRsa : Bytes → BitVec 3072
/-- The device identity key's SLH-DSA-SHA2-192s signature, 16,224 bytes (R26; log 11). -/
opaque signSlh : Bytes → BitVec 129792
/-- SHA-384 (R21, R26; log 11). -/
opaque sha384 : Bytes → BitVec 384

/-- The world registers as bytes, from their values in the order of R24: the spec gives no layout for the measurement
MWORLD (R26; log 11). -/
opaque worldBytes : List Nat → Bytes

/-- The bytes of an image's header, over which both signatures are made with the image bytes (R22; log 11). -/
opaque headerBytes : Image → Bytes

/-- The set of a memory-side cache slice that holds a line; the spec gives no index function (R142, R145; log 19). -/
opaque mscSet : Nat → Nat

/-- How many correctable-error units the package has (R41 word 4; log 11). -/
opaque ceuCount : Nat
/-- The structure code, and the core, slice or stack, of correctable-error unit u: the spec fixes no numbering (R42 CEU_INFO;
log 11). -/
opaque ceuInfo : Nat → BitVec 4 × BitVec 8

/-- Whether address unit `addr` of an HBM correctable-error unit, a row of its stack, holds data of a frame of that stack; the
spec maps no rows (R28; log 56). -/
opaque hbmRow : Nat → Nat → Nat → Bool
/-- The partition of a core whose registers bank `addr` of a register-file unit holds; the spec numbers no banks (R28; log 56). -/
opaque bankPart : Nat → Nat → Nat

/-- The code of a special function's result where the 600-bit bounds of SpecialFn do not decide the rounding; no operand
of the formats is known to reach it (R366; log 22). -/
opaque specialFree : Nat → Nat → Nat

/-- Which of the bytes of a spill record that are still free the n-th byte of what R236 puts into it takes; the rule places none of it
(log 37). -/
opaque spillPlace : Nat → Nat

/-- Which of the words of a save slot's block that are still free the n-th of its contents takes, by the kind of block; R92 places none
of them (log 39). -/
opaque slotPlace : Nat → Nat → Nat

/-- The bytes of a SEND between collective engines, and what they say; the spec gives no format (R259, R261; log 36). -/
opaque collEncode : List Nat → Bytes
opaque collDecode : Bytes → Option (List Nat)

end Sys2Proof.Config
end

