-- ==== Sys2Proof/Machine/State.lean ====
section
/-! DEFINITION. State: everything the spec gives the machine, as plain data, and the state after reset.
Fields of the model's own (`agenda`, `turn`, `focus`, `freeCtr`, `nextId`) are marked MODEL. -/

namespace Sys2Proof.Machine

/-! ## Package (R14 to R32) -/

/-- Power states of R15; Idle is per core and is read off the residents. -/
inductive PowerState where
  | active
  | retention
  | off
  deriving DecidableEq, Repr, Inhabited

/-- Boot state read over the sideband (R21, R32). -/
inductive BootState where
  | inReset
  | running
  | recovery
  | halted
  deriving DecidableEq, Repr, Inhabited

/-- One compute die with its base die (R14 to R20, R336): ACLK step 0 to 3 (800, 700, 600, 400 MHz), CLKSTAT.CHG,
the eight junction sensors, whether a thermal drop is in progress, and the fastest step the power cap allows. -/
structure Die where
  step : Nat
  chg : Bool
  temps : List Nat
  hot : Bool
  capFloor : Nat
  deriving DecidableEq, Repr, Inhabited

/-- The four alert causes (R32). -/
structure Alerts where
  lasting : Bool
  contain : Bool
  thermal : Bool
  voltage : Bool
  deriving DecidableEq, Repr, Inhabited

/-- A tracking entry of a correctable-error unit (R27). -/
structure Track where
  addr : Nat
  count : Nat
  start : Nat
  deriving DecidableEq, Repr, Inhabited

/-- A correctable-error unit (R27, R28): its configuration register (T, LOGW, COUNT) and its tracking entries, oldest
first. -/
structure Ceu where
  cfg : W64
  track : List Track
  deriving DecidableEq, Repr, Inhabited

/-- What the sideband answers to the board controller (R32). -/
inductive SidebandAnswer where
  | boot (b : BootState)
  | sensors (temps : List (List Nat)) (steps : List Nat)
  | alerts (a : Alerts)
  | cap (watts : Nat)
  deriving DecidableEq, Repr, Inhabited

/-- The package, its boot, its worlds and its error units. -/
structure Package where
  power : PowerState
  boot : BootState
  inputHold : Bool               -- the input is below 40 V (R14)
  inputHigh : Bool               -- the input is above 60 V (R14)
  cap : Nat
  dies : List Die
  alerts : Alerts
  i3c : Option (BitVec 7)
  sideband : List SidebandAnswer -- answers to the board controller's reads, in order (R32)
  flashA : Image
  flashB : Image
  fusedRsa : BitVec 384
  fusedSlh : BitVec 384
  fusedSvn : W32
  serial : W64
  macs : List (BitVec 48)
  mroot : BitVec 384
  mmgmt : BitVec 384
  bootRecov : Bool
  boots : W64
  retired : W32
  worldSets : BitVec 16
  worldCopy : BitVec 128
  worldColl : BitVec 4
  worldPorts : BitVec 8
  worldTu : BitVec 64
  regionDesc : Table W64
  worldLock : Bool
  ceus : Table Ceu
  retire : List (Nat × Nat)      -- units with a lasting fault and their address units, not yet retired (R27, R29)
  spares : Table Nat             -- spare banks used, by correctable-error unit and bank group (R28, R29)
  noPlace : List Nat             -- cores on which no further team is placed (R29)
  reserve : List Nat             -- frames the management processor holds (R29)
  badSectors : List Nat          -- physical sectors whose data are uncorrectable (R30)
  badLines : List (Nat × Nat)    -- L1 lines (core, line) whose data are uncorrectable (R30)
  badMsc : List Nat              -- lines of the memory-side caches whose data are uncorrectable (R30)
  links : BitVec 6               -- the six die-to-die links that are up (R12, R268)
  deriving DecidableEq, Repr, Inhabited

/-! ## Ethernet (R33 to R53) -/

/-- Whose operation a packet carries, and what its completion does (R52, R53, R68, R101, R261). -/
inductive NetOwner where
  | store (u : UnitRef) (peer : BitVec 10)
  | fetch (u : UnitRef) (peer : BitVec 10) (acc lane n : Nat)   -- n lanes of an access, from `lane` on
  | signal (u : UnitRef) (peer : BitVec 10)
  | copyRead (ch : Nat) (off : Nat) (peer : BitVec 10)
  | copyWrite (ch : Nat) (pos : Nat) (peer : BitVec 10)
  | migrate (page : Nat)
  | completion (q : Nat)
  | event (part : Nat)
  | mgmt (slot : Nat)
  | coll (die : Nat) (ctx : Nat) (opid : W32) (own : Nat) (rank : Nat)
  deriving DecidableEq, Repr, Inhabited

/-- An outbound RoCEv2 operation (R35, R50). -/
inductive NetOp where
  | write (va : Nat) (rkey : W32) (data : Bytes) (imm : Option W32)
  | read (va : Nat) (rkey : W32) (len : Nat)
  | send (data : Bytes) (imm : Option W32)
  | fetchAdd (va : Nat) (rkey : W32) (v : W64)
  | cmpSwap (va : Nat) (rkey : W32) (cmp swap : W64)
  deriving DecidableEq, Repr, Inhabited

/-- An outbound request with its first PSN and its packet count (R38). -/
structure Request where
  psn : BitVec 24
  npkt : Nat
  op : NetOp
  owner : NetOwner
  acked : Nat := 0                         -- packets of it acknowledged
  got : Bytes := []                        -- a READ's bytes that have come
  deriving DecidableEq, Repr, Inhabited

/-- An inbound request (R35, R38, R40). -/
inductive InReq where
  | write (p : InPacket)
  | read (p : InPacket) (len : Nat)
  | send (p : InPacket)
  | atomic (p : InPacket) (cas : Bool) (operand compare : W64)
  deriving DecidableEq, Repr, Inhabited

/-- What a port puts on the wire (R33, R35, R37, R38). -/
inductive Packet where
  | request (port conn : Nat) (psn : BitVec 24) (op : NetOp)
  | ack (port conn : Nat) (psn : BitVec 24)
  | response (port conn : Nat) (psn : BitVec 24) (data : Bytes)
  | nak (port conn : Nat) (psn : BitVec 24) (kind : NakKind)
  | cnp (port conn : Nat)
  | pause (port : Nat) (prio : Nat) (quanta : BitVec 16)
  deriving DecidableEq, Repr, Inhabited

/-- A connection: its entry (R43), the state of its requester and responder (R36 to R39). -/
structure Conn where
  entry : BitVec 512
  psn : BitVec 24                          -- next PSN sent
  expect : BitVec 24                       -- next PSN expected
  retries : Nat                            -- retries used
  rate : Rat                               -- Mb/s (R37)
  nakSent : Bool
  notified : Bool                          -- a notification was sent in the last 50 µs (R37)
  outstanding : List Request               -- sent and not acknowledged, oldest first
  waiting : List (NetOp × NetOwner)        -- requests that wait for the 16-request limit (R36)
  cache : List (BitVec 24 × Bytes)         -- responses kept for duplicates (R38)
  parked : List (Nat × InReq)              -- inbound requests held for a moving page, in order, by number (R47, R48)
  deriving DecidableEq, Repr, Inhabited

/-- A port: status and congestion registers (R34, R45), addresses (R42), link hold (R39), pause (R37). -/
structure Port where
  status : W64
  cong : W64
  addr : BitVec 256
  holding : Bool
  paused : Bool
  held : List Packet := []                 -- what waits for the end of a pause, oldest first
  deriving DecidableEq, Repr, Inhabited

/-- A request that the management processor has taken (R41): its slot, the port and connection that carried its header,
the header, the body, and how many of its pairs have been performed. -/
structure MgmtReq where
  slot : Nat
  port : Nat
  conn : Nat
  header : BitVec 512
  body : Bytes
  pos : Nat
  deriving DecidableEq, Repr, Inhabited

/-- The management region and its processor (R41, R42). -/
structure Mgmt where
  mem : Table Byte               -- the 16 slots' bytes by region offset
  pending : List (Nat × Nat × Nat)   -- submitted slots, with the port and connection that carried the header
  current : Option MgmtReq       -- taken and not yet answered
  key : W32
  nbase : Nat
  qtab : Nat
  deriving DecidableEq, Repr, Inhabited

/-! ## Queues, launches and contexts (R54 to R103, R128, R154) -/

/-- What a ring entry asks for (R55, R62, R65, R66). -/
inductive EntryState where
  | decoded
  | started
  | done (status : Byte)
  deriving DecidableEq, Repr, Inhabited

/-- A decoded ring entry (R55, R61): its 16 words, its state and its arrival (R71). -/
structure Entry where
  idx : Nat
  words : List W64
  fmt : Byte                     -- status found at decode, 0 when none
  st : EntryState
  arrival : Nat
  deriving DecidableEq, Repr, Inhabited

/-- A queue: its descriptor (R54), indices (R56, R67), allowance (R82) and mapper state (R59). -/
structure Queue where
  desc : BitVec 512
  widx : W32
  fidx : W32
  ridx : W32
  halt : Bool
  clost : Bool
  slot : Option Nat
  allow : Nat
  refill : Bool
  lrs : Nat
  wait : Nat
  mapped : Nat
  window : List Entry
  arrivals : List (Nat × Nat)    -- first arrivals of entries that left the window (R71)
  cont : Bool                    -- a containment event since the last completion word (R68)
  deriving DecidableEq, Repr, Inhabited

/-- The registers a team takes (R63). -/
structure Budget where
  vregs : Nat
  sregs : Nat
  cregs : Nat
  scr : Nat                      -- bytes
  deriving DecidableEq, Repr, Inhabited

/-- What part a launch plays in a raster stream (R65, R233, R241). -/
inductive RasterRole where
  | none
  | geometry (stream : Nat) (draw : Nat)
  | fragment (stream : Nat) (die : Nat)
  deriving DecidableEq, Repr, Inhabited

/-- A started launch (R62 to R64, R71 to R74). -/
structure Launch where
  queue : Nat
  entry : Nat
  ctx : Nat
  gx : Nat
  gy : Nat
  tx : Nat
  ty : Nat
  tz : Nat
  pair : Bool
  setsz : Nat
  width : Nat
  nfpol : Nat
  stage : Nat
  budget : Budget
  dkey : W64
  cbudget : Nat
  gentry : Nat
  centry : Nat
  htab : Nat
  args : Bytes                   -- the kernel constants (R150)
  requeued : List Nat            -- saved teams, in the order they were re-queued (R74)
  next : Nat                     -- next linear index that has never run
  count : Nat                    -- the grid's team count, GROW included
  ended : Nat
  skips : Nat
  arrival : Nat
  status : Byte
  role : RasterRole
  deriving DecidableEq, Repr, Inhabited

/-- A GROW request at the distributor (R331). -/
structure GrowReq where
  u : UnitRef
  slot : Nat
  k : Nat
  deriving DecidableEq, Repr, Inhabited

/-- A stage swap of the governor (R84). -/
structure Swap where
  b : Nat
  a : Nat
  age : Nat
  taken : Option Nat             -- the team that consumed the mark and exited
  deriving DecidableEq, Repr, Inhabited

/-- A context: its registers by the numbers of R42 (windows R128, scope table R154, peer table R49, save
registers R89, governor R83, control R99, FSTACK, FRMLO, FRMHI R335), its fault record (R46), world (R23) and swap. -/
structure Context where
  regs : Table W64
  fault : BitVec 512
  secure : Bool
  swap : Option Swap
  deriving DecidableEq, Repr, Inhabited

/-! ## Units (R104 to R126, R335) -/

/-- An instruction to be issued again for some lanes (R122, R98); no instruction means a clause fetch. -/
structure Replay where
  instr : Option Instr
  pc : Nat
  idx : Nat
  slot : Nat
  em : W64
  acc : Option Nat               -- the access it belongs to, whose destinations are still empty
  dst : Option Nat               -- first destination specifier of that access
  regs : Nat                     -- how many registers it has
  steps : Table Nat := []        -- an HSCAT: the step at which each lane resumes (R253); a CFORM: its group (R225)
  restored : Bool := false       -- on a list that a save made: it is issued again before normal issue resumes (R98)
  deriving DecidableEq, Repr, Inhabited

/-- A cause waiting to be delivered (R119 to R121). -/
structure PendTrap where
  cause : Byte
  level : Nat                    -- 0 lane, 1 group, 2 team, 3 caller (R337)
  f : W64
  addr : W64
  info : W64                     -- PSTATE, ATISSUE, ALLOW, ASYNC, TCODE, NKIND, NPEER in their TINFO bits
  rep : Replay
  ofBinding : Bool := false                -- the cause of a stopped coordinate binding (R227)
  deriving DecidableEq, Repr, Inhabited

/-- What a queued matrix operation does (R205, R206, R210, R213, R214): its words and, for a product, its execution
list. -/
inductive MatKind where
  | mma (sparse : Bool) (cw aw bw : W64) (exp : List Nat)
  | zero
  | rest (va : Nat)
  | epi (mod : BitVec 8) (conv : Nat) (a b d : W64)
  | save (va : Nat) (rel early : Bool)   -- early: before the MWAIT that covers its MMA (R169)
  deriving DecidableEq, Repr, Inhabited

/-- A queued matrix operation (R205, R215): its progress, its stop, and the rows and columns of its result that depend on
a store write that nothing orders (R169). -/
structure MatOp where
  team : Nat
  slot : Nat
  kind : MatKind
  started : Bool
  step : Nat
  row : Nat
  stop : Option PendTrap         -- stopped under R215
  raised : Bool                  -- an MWAIT has raised the stop's cause
  active : Bool := false         -- its engine has taken it up (R205)
  pol : Nat
  nonfin : Bool                  -- a non-finite output met policy 2 (R184)
  tag : Nat                      -- order of acceptance
  taintR : BitVec 128
  taintC : BitVec 128
  deriving DecidableEq, Repr, Inhabited

/-- Why a unit or sub-group is parked (R118, R110, R192, R205, R330 to R340). -/
inductive Park where
  | none
  | retry                        -- at an instruction that tests its condition again when it is issued again
  | barrier (b : Nat)            -- BSYNC has arrived and waits (R326)
  | slice                        -- at SLICE (R330)
  | grow (answer : Option W64)   -- the GROW request is with the distributor (R331)
  | page (answer : Option W64)   -- PMAP or MIGR waits for its change (R338, R340)
  | ring (r : Nat) (cont : Nat)  -- XCOPYY waits for ring r and continues at cont (R204)
  | channel                      -- waits for a copy channel, in issue order (R192)
  | matrix (op : MatOp)           -- its operation waits for room in the matrix queue (R205)
  | trap                         -- a cause waits for its HTAB entry's page (R120)
  | fence                        -- a release at scope 4 waits, its status tested again after the wait (R381)
  | done                         -- what the instruction waited for has happened: it completes when issued again
  deriving DecidableEq, Repr, Inhabited

/-- A stream of clauses in progress: the unit's own, a sub-group's or a handler's (R113, R272, R275). -/
structure Thread where
  pc : Nat                       -- clause address
  words : List W64               -- header and words once fetched
  idx : Nat                      -- next word, 1 for the first after the header
  run : Bool                     -- selected: the clause issues
  met : Bool                     -- the clause's waits count as met (R98)
  park : Park
  lastIssue : Nat
  ahead : List W64 := []         -- the words of the clause that follows, where their fetch is complete (R272)
  deriving DecidableEq, Repr, Inhabited

/-- An entry of the split table (R113): its PC is the thread's clause address. -/
structure SubGroup where
  th : Thread
  arr : Bool
  xmask : W64
  deriving DecidableEq, Repr, Inhabited

/-- The region header of the split table (R113) with its entries. -/
structure Region where
  isOpen : Bool
  kind : Bool                    -- false SPLIT, true CALLI
  emask : W64
  resid : W64
  bmask : W64
  spc : Nat
  join : Nat                     -- join address, or return point
  byHandler : Bool               -- opened by the handler's stream (R114, R122)
  subs : List SubGroup
  deriving DecidableEq, Repr, Inhabited

/-- Handler mode (R120, R122): the handler's thread and mask, and what TRET returns to. -/
structure Handler where
  th : Thread
  x : W64
  trap : PendTrap
  slot : Nat                     -- the stream that was running
  deriving DecidableEq, Repr, Inhabited

/-- A group or a caller (R104 to R125). Registers are by number and lane; a full/empty bit is set while empty. -/
structure UnitState where
  core : Nat
  part : Nat
  halves : List Nat              -- half slots of the partition it occupies (R75)
  lastIssue : Nat                -- the cycle at which it last issued a clause (R85, R87)
  exited : Bool
  x : W64
  main : Thread
  region : Region
  handler : Option Handler
  vregs : Table W32              -- key 64 × register + lane
  sregs : Table W64              -- s0 to s127, or c0 to c63
  vEmpty : BitVec 256
  sEmpty : BitVec 128
  pending : List PendTrap
  replays : List Replay
  override : Option Replay       -- the replay being issued
  records : Table Nat            -- barrier: 1 + PHASE recorded at the latest arrival (R326)
  tinfo : W64
  taddr : W64
  tpc : W64
  tmask : W64
  net : Option (BitVec 10 × BitVec 3)   -- sticky network status: peer, kind (R52)
  frags : Table W64              -- a fragment group's lanes: sequence and pixel (R242)
  badRegs : List (Nat × Nat)     -- registers with uncorrectable data: specifier, and lane of a vector register (R30)
  deriving DecidableEq, Repr, Inhabited

/-- Life states of a team (R124). -/
inductive TeamLife where
  | pending
  | gathering
  | running
  | saving
  | ended
  deriving DecidableEq, Repr, Inhabited

/-- A copy chain's restart entry (R95). -/
structure Restart where
  pos : Nat                      -- on which core of the team the chain was started
  record : Nat
  seq : W32
  skip : Table Nat               -- elements of a remote gather delivered before (R96)
  reserved : Option W32          -- ring slot reserved by the cancelled record (R199)
  ring : Nat
  deriving DecidableEq, Repr, Inhabited

/-- A PEMIT accepted by the emission port (R234, R236). -/
structure Emit where
  seq : Nat
  mask : BitVec 128
  nattr : Nat
  verts : List (List W32)
  record : Option Nat := none              -- the address of the record that it was written to (R236)
  late : Bool := false                     -- that write waits for a moving page (R134)
  deriving DecidableEq, Repr, Inhabited

/-- An output held by a render output unit until its team ends (R242). -/
structure Fout where
  unit : Nat
  lane : Nat
  target : Nat
  rgba : List W32
  deriving DecidableEq, Repr, Inhabited

/-- A fragment of a (view, tile): its primitive, its pixel, what its lane starts with and its primitive record (R240, R241). -/
structure FragWait where
  seq : Nat
  view : Nat
  tile : Nat
  px : Nat
  py : Nat
  l1 : W32
  l2 : W32
  depth : W32
  back : Bool
  rcd : Nat                      -- address of the primitive record
  deriving DecidableEq, Repr, Inhabited

/-- A fragment of a fragment team: its group and its lane (R241, R242). -/
structure Frag where
  unit : Nat
  lane : Nat
  w : FragWait
  deriving DecidableEq, Repr, Inhabited

/-- A synchronisation object saved with a team (R92): kind 0 barrier, 1 dispenser, 2 ring. -/
structure SyncObj where
  pos : Nat                      -- on which core of the team
  kind : Nat
  num : Nat
  word : BitVec 256
  filled : List W32
  deriving DecidableEq, Repr, Inhabited

/-- A stream of a coordinate binding (R218, R220, R226): its base, encoding and units; its unit, element, last index and
position; the head it holds and the unit it has read. -/
structure CStream where
  base : Nat
  enc : Nat
  units : Nat
  unit : Nat
  sub : Nat
  val : Bool
  fin : Bool                     -- the stream has ended
  pos : Nat
  last : Nat
  head : Option Nat
  raw : Option (Nat × Bytes)
  deriving DecidableEq, Repr, Inhabited

/-- A coordinate binding (R219, R226, R227): the fields of its cursor, its streams, and what its stop met. -/
structure Binding where
  fault : Bool
  fside : Bool
  byCaller : Bool
  op : Nat
  brec : Nat
  opGrp : Nat
  emit : Bool
  fcause : Nat
  sa : CStream
  sb : CStream
  stopAddr : Nat
  stopInfo : W64
  copen : Replay                 -- the COPEN that a group's TRET issues again (R227)
  deriving DecidableEq, Repr, Inhabited

/-- A reel slot (R211, R212). -/
structure ReelSlot where
  holder : Option Nat
  data : Table W32
  lost : Bool
  early : Bool                   -- an MMA into it is not yet covered by an MWAIT (R169)
  deriving DecidableEq, Repr, Inhabited

/-- A resident, saved or gathering team (R75 to R82, R89 to R98, R110, R124). -/
structure Team where
  launch : Nat
  index : Nat
  life : TeamLife
  ctx : Nat
  cores : List Nat
  places : List Nat
  scratch : Nat                  -- base of its scratchpad range
  save : Option Nat              -- save slot (R90)
  save0 : W64                    -- CTXSAVE0 and CTXSAVE1 as they were when it was first placed (R89)
  save1 : W64
  affine : Bool
  budget : Nat                   -- budget counter (R79)
  uncharged : Nat                -- cycles not yet charged to the allowance (R82)
  expired : Bool                 -- the budget counter has reached 0, and its cause is not yet raised (R81)
  grace : Option Nat             -- the grace counter, while it runs (R81)
  raisedBudget : Bool            -- cause 0x0D raised by the budget
  raisedAllow : Bool             -- cause 0x0D raised by the allowance
  coop : Bool                    -- kind of the latest save (R98)
  fatal : Bool                   -- ended by R123
  wins : Table W64               -- windows and scope table loaded at placement (R128, R154)
  queues : Table (List W64)      -- team queues (R110)
  pops : List (UnitRef × Nat × Nat)  -- pending pops: unit, queue, destination (R110)
  verts : Table (List W32)       -- vertex slots (R234)
  emits : Nat                    -- PEMITs accepted (R234)
  draw : Nat
  outs : List Fout
  fragList : List Frag
  fpage : Nat                    -- tile of a fragment team
  collSeen : List (Nat × W32)    -- failed operations already reported (R269)
  restarts : List Restart
  copens : Table Replay          -- the latest COPEN of each group, which its TRET issues again (R227)
  sync : List SyncObj
  withdrawn : List (Option Nat × Replay)   -- withdrawn engine operations, with their group (R93, R98)
  matSaved : List MatOp
  scratchSaved : Table Byte       -- the scratchpad range of a saved team, from 0
  reelSaved : Table ReelSlot
  epiNotes : List Nat            -- slots of EPIs that ended with a non-finite output under policy 2 (R400)
  cursorSaved : Option Binding
  caller : UnitState
  groups : List UnitState
  deriving DecidableEq, Repr, Inhabited

/-! ## Cores (R75, R85 to R87, R101, R109, R141, R146, R198, R205 to R229, R327) -/

/-- Priority of a cache line (R144). -/
inductive Prio where
  | normal
  | low
  | protectedP
  deriving DecidableEq, Repr, Inhabited

/-- A line of a core's L1 (R141, R144, R161, R162, R143). -/
structure L1Line where
  data : BitVec 1024
  valid : BitVec 4
  dirty : BitVec 128
  stale : BitVec 128
  prio : Prio
  lrel : Bool
  owned : Bool
  localAtom : Bool               -- last written by a returning atomic with a local scope (R162)
  used : Nat
  deriving DecidableEq, Repr, Inhabited

/-- Issue state of a partition or of the caller port (R85, R87). -/
structure IssuePort where
  busy : List (UnitRef × Nat)    -- the clause (and its slot partner's) that issues
  last : Option UnitRef
  lastYield : Bool
  chain : Nat
  deriving DecidableEq, Repr, Inhabited

/-- A point that writes to the typed stores reach on their way from a release to an acquire (R157, R169). -/
inductive SyncPt where
  | unit (u : UnitRef)                     -- the next instruction of a unit
  | issued (access : Nat)                  -- a release in flight
  | word (core : Option Nat) (addr : Nat) (bs : Bytes)   -- the bytes that a release of a unit on this core, or of an engine, left at an address
  | fence (u : UnitRef)                    -- the unit's last release fence: its plain stores carry it (R164)
  | seen (u : UnitRef) (core : Option Nat) -- what the unit's plain loads have read, for an acquire fence (R164)
  | arrive (core bar : Nat)                -- the arrivals of a barrier's current phase (R109)
  | phase (core bar ph : Nat)              -- a barrier's last complete phase of this parity
  | push (team q k : Nat)                  -- the entry at place k of a team queue (R110)
  | ticket (core k : Nat)                  -- the TKADVs of a dispenser (R328)
  | slot (core ring i : Nat)               -- a filled slot of a ring (R168)
  | chain (channel : Nat)                  -- a copy chain (R168)
  | epi (team slot : Nat)                  -- the EPIs of a reel slot (R169)
  | coll (ctx rec : Nat)                   -- a collective operation (R171)
  | version (ia : Nat)                     -- a version record (R172)
  | team (id : Nat)                        -- a saved team (R167)
  | entry (queue idx : Nat)                -- the teams of a queue entry that have ended (R67)
  | mopf (team : Nat)                      -- the team's last MOPF (R399)
  deriving DecidableEq, Repr, Inhabited

/-- Bytes that a lane of an access in flight has read for an engine; `part` is the level of a grid. -/
structure EngineRead where
  access : Nat
  lane : Nat
  part : Nat
  addr : Nat
  len : Nat
  deriving DecidableEq, Repr, Inhabited

/-- Which writes happen before which point (R157, R169): the writes to the typed stores and to memory are numbered as they are performed
(log 74). -/
structure Order where
  writes : Nat
  know : List (SyncPt × List Nat)
  mem : List (Nat × Nat × Nat)       -- writes to memory or to a place: address, length and number
  reads : List EngineRead
  raced : List (Nat × Nat × Nat)     -- access, lane and part that a write met unordered (R247, R251)
  deriving DecidableEq, Repr, Inhabited

/-- An MSC line that the tile fetch unit has pinned and read (R209): its operation, which operand, its number in the
image, its line and its bytes. -/
structure TileLine where
  tag : Nat
  isB : Bool
  idx : Nat
  line : Nat
  data : Bytes
  deriving DecidableEq, Repr, Inhabited

/-- A core with its L1, synchronisation words, typed stores, engines and counters. -/
structure Core where
  cycles : W64
  parts : Table IssuePort
  callerPort : IssuePort
  l1 : Table L1Line
  barriers : Table W64
  tickets : Table W64
  rings : Table (BitVec 256)
  filled : List (Nat × W32)      -- ring slots filled beyond WPTR (R199)
  orphans : List (Nat × Nat)     -- rings that a chain or collective of an ended team keeps held: ring, team (R124)
  scratch : Table Byte
  weight : Table Byte
  act : Table Byte
  scale : Table Byte
  reel : Table ReelSlot
  matq : List MatOp
  watchdog : Nat
  tiles : List TileLine
  tileWait : Option Nat          -- the line whose pin waits under the limit of R145
  stamps : Table (List Nat)      -- the writes that each store byte depends on: key 2^22 × store + byte: store 0 activation, 1 weight, 2 scale
  badWords : List (Nat × Nat)    -- 8-byte words with uncorrectable data: store as in stamps, or 3 the scratchpad (R30)
  bindings : Table Binding      -- by team place (R219)
  pmc : Table W64
  pmcc : Table W64
  overflow : List (Nat × Nat)    -- counters that have wrapped with INTEN, and the partition to be told (R101)
  lastCtx : Option Nat           -- the context the stores last served (R147)
  lastPart : Option Nat          -- the partition that last owned the core (R102)
  deriving DecidableEq, Repr, Inhabited

/-! ## Memory side (R130 to R151, R162, R480, R483) -/

/-- A line of the memory-side cache (R142, R144, R145, R100). -/
structure MscLine where
  data : BitVec 1024
  valid : BitVec 4
  dirty : BitVec 128
  prio : Prio
  pins : Nat
  landing : Nat
  tag : Nat
  way : Nat
  used : Nat
  deriving DecidableEq, Repr, Inhabited

/-- A directory entry (R143): exclusive ownership or a local-release mark. -/
structure DirEntry where
  line : Nat
  own : Bool
  core : Nat
  deriving DecidableEq, Repr, Inhabited

/-- A fault entry (R135): its page, its assignee and the parked accesses, oldest first. -/
structure FaultEntry where
  page : Nat
  assignee : UnitRef
  parked : List (Nat × Nat)
  deriving DecidableEq, Repr, Inhabited

/-- Who waits for a page change, and which one (R133, R139, R338, R340). -/
inductive ChangeFor where
  | pmap (u : UnitRef) (slot : Nat)
  | migr (u : Option (UnitRef × Nat))   -- none: the management processor (R29)
  deriving DecidableEq, Repr, Inhabited

/-- A page entry change that is not complete (R133). -/
structure Change where
  page : Nat
  entry : W64
  who : ChangeFor
  deriving DecidableEq, Repr, Inhabited

/-- A migration in progress (R139). -/
structure Migration where
  page : Nat
  frame : Nat
  fromPeer : Bool
  oldFrame : Nat
  who : Option (UnitRef × Nat)   -- none: the management processor (R29)
  wrote : List Nat               -- bytes of the page written back to the new frame meanwhile (R139)
  fetched : Option Bytes         -- what the peer sent
  failed : Bool
  deriving DecidableEq, Repr, Inhabited

/-- Status of one lane of an access (R121, R134, R135). -/
inductive LaneStatus where
  | waiting
  | parked
  | done (v : List W32)
  | faulted
  deriving DecidableEq, Repr, Inhabited

/-- One lane of an access in flight: its intermediate and virtual address, size and data. -/
structure LaneAcc where
  lane : Nat
  va : Nat
  ia : Nat
  size : Nat
  data : List W32
  cmp : List W32
  st : LaneStatus
  deriving DecidableEq, Repr, Inhabited

/-- What an access does at its place (R117, R160 to R166, R424). -/
inductive AccKind where
  | load (acquire : Bool)
  | store (release : Bool)
  | atom (aop ty : Nat) (isLocal : Bool)
  | red (aop ty : Nat)
  | fetch                        -- NFETCH (R424)
  | unit                         -- a texture, ray or hash-grid read, or the result of a counter read
  | scatter (bf16 home1 : Bool)  -- an HSCAT: its contributions, lane + 64 × step, sent step after step (R252, R253)
  | batch (g : Nat) (mask status : W64)   -- a CFORM's batch for group g (R223)
  | form (g k : Nat) (els : List (List W32))   -- a CFORM that the engine has not finished: group, limit, elements so far (R221)
  | place (store acq : Bool)     -- the upper half of an ordered 128-bit access to a space with a single copy (R375)
  | request                      -- a PCNT or VPIN that waits for a page, its unit going on (R393)
  | probe                        -- a scalar access parked at its home: its instruction is issued again (R135, R136, R317)
  deriving DecidableEq, Repr, Inhabited

/-- An access in flight (R117): a long-latency producer, a store, or a RED. -/
structure Access where
  id : Nat
  u : UnitRef
  core : Nat
  kind : AccKind
  dst : Option Nat               -- destination specifier
  regs : Nat                     -- registers of the destination
  scope : Nat
  hint : Nat
  pol : Nat
  rep : Replay
  lanes : List LaneAcc
  uni : Bool                     -- performed once and delivered to every lane (R371)
  feats : Option (Nat × Nat × Nat) := none   -- what an HGATH writes: OUT, ROW0 and Q (R250, R251)
  held : Table W32 := []         -- what an engine has read of its group's vector registers: key 64 × register + lane
  heldS : List W64 := []         -- its scalar operands
  record : List Bytes := []      -- its descriptors or its record, as read at issue
  deriving DecidableEq, Repr, Inhabited

/-! ## Engines (R192 to R204, R230 to R243, R256 to R269) -/

/-- State of a copy channel (R192). -/
inductive ChanState where
  | idle
  | reading
  | moving
  | completing
  deriving DecidableEq, Repr, Inhabited

/-- Where a copy record reads or writes (R193): memory, a typed store (0 activation, 1 weight, 2 scale), or a peer. -/
inductive Loc where
  | mem (va : Nat)
  | store (k off : Nat)
  | peer (id : BitVec 10) (va : Nat)
  deriving DecidableEq, Repr, Inhabited

/-- A run of a copy record: its position in the record's data (an element number times its size), its length and its two
sides. -/
structure Piece where
  pos : Nat
  len : Nat
  src : Loc
  dst : Loc
  elem : Nat := 0                -- position of the layout element it belongs to
  pred : Option (Nat × Nat × Bool) := none   -- its predicate, to be read when the element is reached: address, bit, PSKIP
  deriving DecidableEq, Repr, Inhabited

/-- A write of a copy record that is still to be performed: the position that its failure reports, the row or element it belongs to,
its place, within one 32-byte sector, and its bytes. SECTORS counts it or not (R200). -/
structure CopyWrite where
  pos : Nat
  key : Nat
  loc : Loc
  data : Bytes
  counts : Bool := true
  deriving DecidableEq, Repr, Inhabited

/-- A copy channel (R192) with the chain it walks. -/
structure Channel where
  head : Nat
  cur : Nat
  st : ChanState
  last : Byte
  ctx : Nat
  core : Nat
  place : Nat
  seq : W32
  team : Nat
  pol : Nat
  wins : Table W64
  slot : Option W32              -- ring slot reserved by the current record (R199)
  skip : Table Nat
  record : BitVec 512
  plan : List Piece              -- what the current record moves, as found when it started (R194, R195, R197)
  planEnd : Option (Nat × Nat × BitVec 10)   -- status and position at which the plan ends early, and the peer concerned
  total : Nat                    -- length of the contiguous side
  acked : List Nat               -- positions of the remote writes that peers have acknowledged
  got : List (Nat × Bytes)       -- what peers have returned, by position
  landing : List Nat             -- lines that the record has in the landing state, or waiting for it (R145)
  writes : Option (List CopyWrite)   -- what the record has read and is still to write; none: it has not read its source yet
  wrote : List (Nat × Nat)       -- rows, elements or blocks, with the addresses of the sectors written
  err : Option (Nat × Nat)       -- the first failure of its own moves: status and position
  got_n : Nat                    -- responses outstanding
  failed : Option (Byte × BitVec 10)
  deriving DecidableEq, Repr, Inhabited

/-- An inbound primitive of an owner (R236, R237). -/
structure Prim where
  seq : Nat
  view : Nat
  part : Nat                     -- which of the triangles that clipping left
  tile : Nat
  nattr : Nat
  back : Bool
  xs : List (Int × Int)          -- 16.8 window coordinates
  verts : List (List W32)        -- z/w, w, then attributes
  deriving DecidableEq, Repr, Inhabited

/-- A source of a raster stream: one compute die (R236, R237). -/
structure Source where
  emits : List (Nat × Emit)      -- team, accepted PEMITs not yet forwarded, oldest first
  w : Option Nat                 -- watermark; none is ∞
  spilled : Nat                  -- records written into the spill ring
  deriving DecidableEq, Repr, Inhabited

/-- An owner of a raster stream: one base die (R237, R241, R242). -/
structure Owner where
  inbound : Table (List Prim)    -- by source
  frags : List FragWait          -- rasterised, waiting for a team
  wptr : Nat
  last : Option (Nat × Nat × Nat)   -- sequence, view and part of the latest record
  inUse : List (Nat × Nat)       -- ring record, team
  ready : List (Frag × List (Nat × List W32))   -- fragments of ended teams with their outputs
  live : List (Nat × Nat × Nat × Nat)   -- sequence, view, px, py of fragments not yet performed
  deriving DecidableEq, Repr, Inhabited

/-- A raster stream in progress (R230 to R243). -/
structure Stream where
  queue : Nat
  entry : Nat
  ctx : Nat
  rsdesc : Nat
  desc : BitVec 512
  views : Table (List W32)
  targets : List (List W64)
  omap : Table W32               -- ownership entries read
  gkrec : List W64
  fkrec : List W64
  draw0 : Nat
  dcnt : Nat
  draws : List (Nat × Nat)       -- GTEAMS and NATTR of each draw
  dkey : W64
  cbudget : Nat
  pol : Nat
  wins : Table W64
  live : Table (List Nat)        -- live geometry teams of a die, oldest first
  assigned : Table Nat           -- geometry teams of a die still to be placed
  sources : Table Source
  owners : Table Owner
  fault : Bool
  deriving DecidableEq, Repr, Inhabited

/-- A message between collective engines (R259 to R268). -/
inductive CollBody where
  | join (p op enc len : Nat)
  | exponent (tile : Nat) (e : BitVec 16) (p op enc len : Nat)
  | planes (tile contributor first : Nat) (data : Bytes) (p op enc len : Nat)
  | standard (tile contributor : Nat) (data : Bytes)
  | cutRequest (k : Nat)
  | freeze (k : Nat)
  | freezeReply (s : Nat)
  | cutK (k : Nat)
  | streamStop
  | abort                        -- the coordinator ends the operation (R268)
  deriving DecidableEq, Repr, Inhabited

/-- See `CollBody`: the receiving die, context and operation, and the receiver's and the sender's rank. -/
structure CollMsg where
  die : Nat
  ctx : Nat
  opid : W32
  dest : Nat
  sender : Nat
  body : CollBody
  deriving DecidableEq, Repr, Inhabited

/-- Progress of one tile at a party (R261 to R265): its status word, and what other parties have sent for it. -/
structure CollTile where
  status : W64
  exps : Table Nat               -- exponents received, by rank (1 + code)
  planes : Table Nat             -- planes received from a contributor
  parts : Table (List W32)       -- codes received from a contributor
  order : List Nat               -- contributors, in the order they arrived
  done : Bool                    -- standard modes: written with its final value
  deriving DecidableEq, Repr, Inhabited

/-- A collective operation held by an engine (R256 to R269). -/
structure CollOp where
  ctx : Nat
  opid : W32
  recAddr : Nat
  record : BitVec 512
  team : Nat
  core : Nat
  pos : Nat                      -- which core of its team that is
  pol : Nat
  wins : Table W64
  ranks : List W64               -- words of the rank table, two per rank
  joined : List Nat
  src : Table (List W32)         -- the one reading of the source, by destination tile (R258)
  tiles : Table CollTile
  sent : Table Nat               -- data steps sent to a receiver
  begun : Bool                   -- the steps of its start have been made (R259)
  outbox : List (Nat × CollBody) -- messages that wait for a moving page, with their receivers (R134)
  due : Bool                     -- its tiles are still to be brought up to a cancellation (R266)
  cutAccepted : Option Nat
  replies : List (Nat × Nat)
  freeze : Option Nat
  cutK : Option Nat
  stopped : List Nat             -- receivers told to send no more (R266)
  scut : List Nat                -- contributors cut at this party (R266)
  failRank : Nat
  links : List (Nat × Nat)       -- the connection that reaches a remote rank, by its number
  broken : List (Nat × Byte)     -- ranks whose connection has failed, with the status of that failure (R268)
  finish : Option Byte           -- the status the operation ends with
  detail : Nat                   -- the byte offset or tile of a failed access (R269)
  deriving DecidableEq, Repr, Inhabited

/-- An operation that has ended (R97, R267, R269). -/
structure CollDone where
  op : CollOp
  status : Byte
  deriving DecidableEq, Repr, Inhabited

/-! ## The machine -/

/-- MODEL: which agent moves next (log 1). -/
inductive Move where
  | occur (e : Instr)
  | issue (u : UnitRef) (slot : Nat)
  deriving DecidableEq, Repr, Inhabited

/-- MODEL: the unit and the stream of clauses whose instruction is executed. -/
structure Focus where
  u : UnitRef
  slot : Nat
  deriving DecidableEq, Repr, Inhabited

/-- The memory side: HBM, caches, page tables and everything parked on them. -/
structure MemSide where
  hbm : List Host.Cell           -- physical bytes; an unlisted byte reads 0 (log 18)
  msc : Table MscLine            -- by line number (intermediate address / 128)
  waysOff : Table Nat            -- disabled ways of a slice, a 16-bit vector (R29)
  dir : List DirEntry            -- oldest first
  root : Nat                     -- the root register: physical address of the level-1 table (R131)
  level1 : Table Nat             -- 1 + table address of valid level-1 entries (R131)
  ptes : Table W64               -- level-2 entries by page number
  l2Reserve : Nat
  faults : List FaultEntry
  faultWait : List (Nat × Nat)   -- accesses waiting for a free fault entry (R135)
  movePark : List (Nat × Nat)    -- accesses parked on a moving page, in order (R139)
  replayQ : List (Nat × Nat)     -- parked accesses being replayed, in the order they were parked (R136, R139)
  changes : List Change
  migrations : List Migration
  pinWait : List (Nat × Bool × Nat × Nat)   -- line, landing, owner tag, and the core or 128 + channel that waits, in order (R145)
  msccCtl : Table W64            -- key 4 × slice + counter (R151)
  mscc : Table W64               -- key (4 × slice + counter) × 8 + owner tag (R103)
  notify : List (Nat × W64)      -- notify words that have become visible, in order (R56)
  deriving DecidableEq, Repr, Inhabited

/-- The state of the machine. -/
structure State where
  pkg : Package
  ports : Table Port
  conns : Table Conn             -- key 4096 × port + connection
  regions : Table (BitVec 256)   -- key 4096 × port + region
  wire : List Packet             -- what the ports have sent, newest first
  wireMarks : List (List Bool)   -- congestion marks of each packet of what the ports have sent, newest first (R37)
  mgmt : Mgmt
  devRegs : Table W64            -- partition, event and weight registers by the numbers of R42
  queues : Table Queue
  mapPass : Nat
  arrivals : Nat
  launches : Table Launch
  growReqs : List GrowReq
  contexts : Table Context
  partPmc : Table W64            -- saved counter block: key (8 × partition) × 128 + core, × 16 + counter (R102)
  teams : Table Team
  inflight : List Access
  cores : Table Core
  mem : MemSide
  channels : Table Channel
  copyWait : List (UnitRef × Nat)
  collOps : List CollOp
  collDone : List CollDone
  collMsgs : List CollMsg
  streams : Table Stream
  agenda : List Move             -- MODEL (log 1)
  turn : Nat                     -- MODEL (log 1)
  focus : Option Focus           -- MODEL (log 1)
  order : Order                  -- MODEL (log 74)
  freeCtr : Nat                  -- MODEL (log 2)
  nextId : Nat                   -- MODEL (log 1)
  deriving DecidableEq, Repr, Inhabited

/-- Why a step stops with a fault. -/
inductive Fault where
  /-- An instruction is executed with no resident unit in `focus`; raised by the meaning of every ISA
  instruction. Safe: no run issues an instruction without a unit. -/
  | noUnit
  deriving DecidableEq, Repr, Inhabited

/-- Why a step is refused. -/
inductive Refusal where
  /-- No meaning has been given to the instruction yet. Safe: no claim is made about it. -/
  | notModelled (mnemonic : String)
  deriving DecidableEq, Repr, Inhabited

/-! ## Reset (R21, R24, R34, R43, R45, R100, R271; logs 10 to 18) -/

def Die.reset : Die :=
  { step := 0, chg := false, temps := [25, 25, 25, 25, 25, 25, 25, 25], hot := false, capFloor := 0 }

def Package.reset : Package :=
  { (default : Package) with
    power := .active, boot := .inReset, cap := 3000
    dies := [.reset, .reset, .reset, .reset], macs := [0, 0, 0, 0, 0, 0, 0, 0], links := 0x3F }

/-- R34: RPRI 3 and DSCP 26; R45: ECNTH 8, CUTSH 1, RECOVP 5, RSTEP 5. -/
def Port.reset : Port :=
  { status := 0x1A30, cong := 0x5050208, addr := 0, holding := false, paused := false }

/-- R43: TO 10, RETRY 7, HOPL 64; R37: line rate, 800,000 Mb/s. -/
def Conn.reset : Conn :=
  { (default : Conn) with entry := 0x40000000 <<< 64 ||| 0x3A80, rate := 800000 }

/-- The value after reset of a core's issue ports, stores and counters (R75, R101, R146; logs 16, 17). -/
def Core.reset : Core := default

def State.reset : State :=
  { (default : State) with pkg := .reset }

end Sys2Proof.Machine
end

