-- ==== Sys2Proof/Machine/Table.lean ====
section
/-! DEFINITION. Sparse tables: reading and writing one entry, keeping the canonical form (keys strictly rising, no
entry equal to what an unlisted key reads as). -/

namespace Sys2Proof.Machine

variable {α : Type}

/-- The entry at key `k`, if one is listed. -/
def tfind : Table α → Nat → Option α
  | [], _ => none
  | (j, v) :: t, k => if j = k then some v else tfind t k

/-- What key `k` reads as: the listed entry, or `d`. -/
def tget (d : α) (t : Table α) (k : Nat) : α := (tfind t k).getD d

/-- Without an entry at key `k`. -/
def tdel : Table α → Nat → Table α
  | [], _ => []
  | (j, v) :: t, k => if j = k then tdel t k else (j, v) :: tdel t k

/-- With the entry `v` at key `k`. -/
def tput : Table α → Nat → α → Table α
  | [], k, v => [(k, v)]
  | (j, u) :: t, k, v => if j = k then (k, v) :: t else if k < j then (k, v) :: (j, u) :: t else (j, u) :: tput t k v

/-- Key `k` set to `v`, where an unlisted key reads `d`. -/
def tset [DecidableEq α] (d : α) (t : Table α) (k : Nat) (v : α) : Table α :=
  if v = d then tdel t k else tput t k v

/-- The values at the `n` keys from `k`, of a table with no key below `k`. -/
def tlist (d : α) : Nat → Nat → Table α → List α
  | _, 0, _ => []
  | k, n + 1, [] => d :: tlist d (k + 1) n []
  | k, n + 1, (j, v) :: t => if j = k then v :: tlist d (k + 1) n t else d :: tlist d (k + 1) n ((j, v) :: t)

/-- The table of a list's elements at the keys from `k`. -/
def tofList [DecidableEq α] (d : α) : Nat → List α → Table α
  | _, [] => []
  | k, v :: l => if v = d then tofList d (k + 1) l else (k, v) :: tofList d (k + 1) l

/-- Keys strictly rising from above `lo`. -/
def sortedFrom : Nat → Table α → Bool
  | _, [] => true
  | lo, (k, _) :: t => decide (lo ≤ k) && sortedFrom (k + 1) t

/-- The canonical form of a table whose unlisted keys read `d`. -/
def twf [DecidableEq α] (d : α) (t : Table α) : Bool :=
  sortedFrom 0 t && t.all (fun e => decide (e.2 ≠ d))

/-- The canonical form of the memory: strictly rising addresses, and no byte listed that reads 0 anyway. -/
abbrev Memory.wf (m : List Host.Cell) : Prop := twf (0 : Byte) m = true

/-- The first element that satisfies `p`, replaced by `f` of it. -/
def lmodFirst (p : α → Bool) (f : α → α) : List α → List α
  | [] => []
  | a :: l => if p a then f a :: l else a :: lmodFirst p f l

end Sys2Proof.Machine
end

