-- ==== Sys2Proof/Machine/Numerics.lean ====
section
/-! DEFINITION. Number formats and arithmetic (R175 to R191): the value a code stands for, RoundTo, the non-finite
policy, conversions, stochastic rounding, block quantisation and the pairwise tree. Values are exact rationals. -/

namespace Sys2Proof.Machine

/-- An exact real, a NaN or a signed infinity: what RoundTo takes (R182). -/
inductive Num where
  | nan
  | inf (neg : Bool)
  | fin (neg : Bool) (q : Rat)   -- `neg` gives a zero its sign
  deriving DecidableEq, Repr, Inhabited

/-- Floating-point and scale formats (R176, R178, R180); integer formats of a width (R175). -/
inductive Fmt where
  | f32
  | f16
  | bf16
  | b8 (p : Nat) (sgn : Bool) (ext : Bool)
  | e2m1
  | e8m0
  | int (w : Nat) (sgn : Bool)
  deriving DecidableEq, Repr, Inhabited

/-- Rounding modes (R182, R308). -/
inductive Mode where
  | rne
  | rtz
  | rup
  | rdn
  deriving DecidableEq, Repr, Inhabited

def modeOf : Nat → Mode
  | 0 => .rne
  | 1 => .rtz
  | 2 => .rup
  | _ => .rdn

/-- 2 to an integer power. -/
def pow2 (e : Int) : Rat :=
  match e with
  | .ofNat n => mkRat (2 ^ n) 1
  | .negSucc n => mkRat 1 (2 ^ (n + 1))

/-- floor(log2 q) of a positive rational. -/
def floorLog2 (q : Rat) : Int :=
  let e : Int := (q.num.natAbs.log2 : Int) - (q.den.log2 : Int)
  -- the quotient lies in (2^(e-1), 2^(e+1))
  if pow2 e ≤ q then e else e - 1

/-- Layout of a floating-point format: precision, exponent bias, and whether codes carry a sign. -/
def Fmt.prec : Fmt → Nat
  | .f32 => 24 | .f16 => 11 | .bf16 => 8 | .b8 p _ _ => p | .e2m1 => 2 | .e8m0 => 1 | .int w _ => w

def Fmt.bias : Fmt → Int
  | .f32 => 127 | .f16 => 15 | .bf16 => 127
  | .b8 p sgn _ => if sgn then 2 ^ (7 - p) else 2 ^ (8 - p)
  | .e2m1 => 1 | .e8m0 => 127 | .int _ _ => 0

def Fmt.emin (f : Fmt) : Int :=
  match f with
  | .e8m0 => -127
  | _ => 1 - f.bias

/-- Width of a code in bits. -/
def Fmt.width : Fmt → Nat
  | .f32 => 32 | .f16 => 16 | .bf16 => 16 | .b8 _ _ _ => 8 | .e2m1 => 4 | .e8m0 => 8 | .int w _ => w

def Fmt.signed : Fmt → Bool
  | .b8 _ sgn _ => sgn | .e8m0 => false | .int _ sgn => sgn | _ => true

def Fmt.hasNegZero : Fmt → Bool
  | .f32 | .f16 | .bf16 | .e2m1 => true
  | _ => false

def Fmt.hasInf : Fmt → Bool
  | .f32 | .f16 | .bf16 => true
  | .b8 _ _ ext => ext
  | _ => false

def Fmt.isInt : Fmt → Bool
  | .int _ _ => true
  | _ => false

/-- The magnitude that exponent field `e` and fraction `m` stand for (R176, R178, R180). -/
def magnitude (f : Fmt) (e m : Nat) : Rat :=
  let p := f.prec
  if e = 0 then mkRat m 1 * pow2 (f.emin - (p - 1 : Int))
  else mkRat (2 ^ (p - 1) + m) 1 * pow2 ((e : Int) - f.bias - (p - 1 : Int))

/-- Magnitude of a code without its sign bit. -/
def magCode (f : Fmt) (c : Nat) : Rat := magnitude f (c / 2 ^ (f.prec - 1)) (c % 2 ^ (f.prec - 1))

/-- The code, without sign, of the largest finite magnitude (R176, R179, R180). -/
def Fmt.maxCode : Fmt → Nat
  | .f32 => 0x7F7FFFFF | .f16 => 0x7BFF | .bf16 => 0x7F7F
  | .b8 _ true ext => if ext then 0x7E else 0x7F
  | .b8 _ false ext => if ext then 0xFD else 0xFE
  | .e2m1 => 7
  | .e8m0 => 0xFE
  | .int w sgn => if sgn then 2 ^ (w - 1) - 1 else 2 ^ w - 1

/-- The value of a code (R176 to R181). -/
def valueOf (f : Fmt) (c : Nat) : Num :=
  match f with
  | .f32 | .f16 | .bf16 =>
    let w := f.width
    let neg := c.testBit (w - 1)
    let mag := c % 2 ^ (w - 1)
    let e := mag / 2 ^ (f.prec - 1)
    let m := mag % 2 ^ (f.prec - 1)
    if e = 2 ^ (w - f.prec) - 1 then (if m = 0 then .inf neg else .nan)
    else .fin neg ((if neg then -1 else 1) * magnitude f e m)
  | .b8 _ true ext =>
    if c = 0x80 then .nan
    else if ext && c = 0x7F then .inf false
    else if ext && c = 0xFF then .inf true
    else
      let neg := c.testBit 7
      .fin (neg && c ≠ 0x80) ((if neg then -1 else 1) * magCode f (c % 128))
  | .b8 _ false ext =>
    if c = 0xFF then .nan else if ext && c = 0xFE then .inf false else .fin false (magCode f c)
  | .e2m1 =>
    let neg := c.testBit 3
    .fin neg ((if neg then -1 else 1) * magCode f (c % 8))
  | .e8m0 => if c = 0xFF then .nan else .fin false (pow2 ((c : Int) - 127))
  | .int w sgn =>
    let v : Int := if sgn && c.testBit (w - 1) then (c : Int) - 2 ^ w else c
    .fin (decide (v < 0)) (mkRat v 1)

/-- The sign bit of a format with one. -/
def signCode (f : Fmt) (neg : Bool) : Nat := if neg then 2 ^ (f.width - 1) else 0

/-- The canonical NaN (R177), the binary8 and E8M0 NaN codes; 0 where the format has none (R182). -/
def nanCode : Fmt → Nat
  | .f32 => 0x7FC00000 | .f16 => 0x7E00 | .bf16 => 0x7FC0
  | .b8 _ sgn _ => if sgn then 0x80 else 0xFF
  | .e8m0 => 0xFF
  | _ => 0

/-- A finite value of the format, as its code: `c` is the code of the magnitude. -/
def signedCode (f : Fmt) (neg : Bool) (c : Nat) : Nat :=
  match f with
  | .int w _ => if neg then (2 ^ w - c) % 2 ^ w else c
  | _ => if neg && f.signed then (if c = 0 && !f.hasNegZero then 0 else signCode f true + c) else c

/-- InfCode (R182). -/
def infCode (f : Fmt) (neg : Bool) : Nat :=
  match f with
  | .f32 => signCode f neg + 0x7F800000
  | .f16 => signCode f neg + 0x7C00
  | .bf16 => signCode f neg + 0x7F80
  | .b8 _ true true => if neg then 0xFF else 0x7F
  | .b8 _ false true => if neg then 0 else 0xFE
  | .int w true => if neg then 2 ^ (w - 1) else 2 ^ (w - 1) - 1
  | _ => if neg && !f.signed then 0 else signedCode f neg f.maxCode

def zeroCode (f : Fmt) (neg : Bool) : Nat := if neg && f.hasNegZero then signCode f true else 0

/-- A non-negative rational rounded to an integer by mode, with the sign of the number it is the magnitude of; an RNE
tie goes to the even integer (R182). -/
def roundInt (y : Rat) (mode : Mode) (neg : Bool) : Nat :=
  let n := y.floor.toNat
  let r := y - mkRat n 1
  match mode with
  | .rtz => n
  | .rup => if r = 0 || neg then n else n + 1
  | .rdn => if r = 0 || !neg then n else n + 1
  | .rne => if r < mkRat 1 2 then n else if mkRat 1 2 < r then n + 1 else if n % 2 = 0 then n else n + 1

/-- The magnitude code of `k` quanta of 2^(e - (p - 1)), for a floating-point format, where e is at least emin. -/
def encodeMag (f : Fmt) (e : Int) (k : Nat) : Nat :=
  let p := f.prec
  -- k = 2^p means that rounding reached the next binade
  let (e, k) := if k = 2 ^ p then (e + 1, 2 ^ (p - 1)) else (e, k)
  if k < 2 ^ (p - 1) then k
  else (e + f.bias).toNat * 2 ^ (p - 1) + (k - 2 ^ (p - 1))

/-- RoundTo (R182), before the policy of R183. -/
def roundTo (f : Fmt) (x : Num) (mode : Mode) : Nat :=
  match x with
  | .nan => nanCode f
  | .inf neg => infCode f neg
  | .fin neg q =>
    if f.signed = false && q < 0 then zeroCode f false
    else if q = 0 then zeroCode f neg
    else
      let neg := decide (q < 0)
      let a : Rat := if neg then -q else q
      match f with
      | .int w sgn =>
        let k := roundInt a mode neg
        let lim := if sgn then (if neg then 2 ^ (w - 1) else 2 ^ (w - 1) - 1) else 2 ^ w - 1
        signedCode f neg (min k lim)
      | _ =>
        let e := max (floorLog2 a) f.emin
        let u := pow2 (e - (f.prec - 1 : Int))
        let k := roundInt (a / u) mode neg
        let y := mkRat k 1 * u
        if magCode f f.maxCode < y then
          let away : Bool := match mode with | .rne => true | .rtz => false | .rup => !neg | .rdn => neg
          if f.hasInf && away then infCode f neg else signedCode f neg f.maxCode
        else if k = 0 then zeroCode f neg
        else signedCode f neg (encodeMag f e k)

/-! ### Binary8 with p = 1 and E8M0 have no fraction: the codes are exponents alone. -/

/-- RoundTo of a Num to a power of two of E8M0, with the special inputs of R185. -/
def roundE8M0 (x : Num) (mode : Mode) : Nat :=
  match x with
  | .fin _ q =>
    if q ≤ 0 then 0xFF
    else
      let e := floorLog2 q
      let lo := pow2 e
      let up : Bool := match mode with
        | .rne => decide (mkRat 3 2 ≤ q / lo)
        | .rup => q ≠ lo
        | _ => false
      let e := if up then e + 1 else e
      (max 0 (min 0xFE (e + 127))).toNat
  | .inf false => 0xFE
  | _ => 0xFF

/-! ### Non-finite policy (R183) -/

/-- Whether a code of the format stands for a NaN or an infinity. -/
def nonFinite (f : Fmt) (c : Nat) : Bool :=
  match valueOf f c with
  | .fin _ _ => false
  | _ => true

/-- The largest finite value of a sign; 0x00 for a negative one in an unsigned format (R183). -/
def cleanInf (f : Fmt) (neg : Bool) : Nat := if neg && !f.signed then 0 else signedCode f neg f.maxCode

/-- A result after RoundTo, under policy 1; policies 0 and 2 keep it (R183). -/
def policy (pol : Nat) (f : Fmt) (c : Nat) : Nat :=
  if pol = 1 then
    match valueOf f c with
    | .nan => 0
    | .inf neg => cleanInf f neg
    | .fin _ _ => c
  else c

/-- Whether a result traps with cause 0x10 (R183). -/
def traps (pol : Nat) (f : Fmt) (c : Nat) : Bool := pol = 2 && nonFinite f c

/-! ### Exact operations on Num -/

def Num.neg : Num → Num
  | .nan => .nan
  | .inf s => .inf (!s)
  | .fin s q => .fin (!s) (-q)

def Num.isNeg : Num → Bool
  | .nan => false
  | .inf s => s
  | .fin s q => if q = 0 then s else decide (q < 0)

/-- Exact sum; a zero sum of different signs takes the sign of the mode (R182, IEEE 754). -/
def Num.add (mode : Mode) : Num → Num → Num
  | .nan, _ | _, .nan => .nan
  | .inf a, .inf b => if a = b then .inf a else .nan
  | .inf a, _ | _, .inf a => .inf a
  | .fin s p, .fin t q =>
    let r := p + q
    if r = 0 then .fin (if p = 0 && s = t then s else decide (mode = .rdn)) 0 else .fin (decide (r < 0)) r

/-- Exact product. -/
def Num.mul (a b : Num) : Num :=
  let s := a.isNeg != b.isNeg
  match a, b with
  | .nan, _ | _, .nan => .nan
  | .inf _, .inf _ => .inf s
  | .inf _, .fin _ q | .fin _ q, .inf _ => if q = 0 then .nan else .inf s
  | .fin _ p, .fin _ q => .fin s (p * q)

/-- Exact quotient (R366 RCP and the divisions of R235, R240). -/
def Num.div (a b : Num) : Num :=
  let s := a.isNeg != b.isNeg
  match a, b with
  | .nan, _ | _, .nan => .nan
  | .inf _, .inf _ => .nan
  | .inf _, .fin _ _ => .inf s
  | .fin _ _, .inf _ => .fin s 0
  | .fin _ p, .fin _ q => if q = 0 then (if p = 0 then .nan else .inf s) else .fin s (p / q)

/-- The comparison of two numbers, with the two zeros equal; none when either is a NaN. -/
def Num.cmp : Num → Num → Option Ordering
  | .nan, _ | _, .nan => none
  | .inf a, .inf b => some (if a = b then .eq else if a then .lt else .gt)
  | .inf a, .fin _ _ => some (if a then .lt else .gt)
  | .fin _ _, .inf b => some (if b then .gt else .lt)
  | .fin _ p, .fin _ q => some (if p < q then .lt else if p = q then .eq else .gt)

/-- An exact rational as a Num, a zero being +0. -/
def Num.ofRat (q : Rat) : Num := .fin (decide (q < 0)) q

def Num.ofInt (z : Int) : Num := Num.ofRat (mkRat z 1)

/-! ### F32 shorthands -/

def f32Val (c : W32) : Num := valueOf .f32 c.toNat
def f32Round (x : Num) (mode : Mode := .rne) : W32 := BitVec.ofNat 32 (roundTo .f32 x mode)
def f32Add (a b : W32) : W32 := f32Round ((f32Val a).add .rne (f32Val b))
def f32Mul (a b : W32) : W32 := f32Round ((f32Val a).mul (f32Val b))
/-- An F32 code as an exact rational; 0 for a NaN or an infinity. -/
def f32Rat (c : W32) : Rat := match f32Val c with | .fin _ q => q | _ => 0

/-! ### Exact sums (R189, R235) -/

/-- The exact sum of a list of numbers: NaN and opposite infinities give NaN, a zero sum is -0 only when every term
is -0. -/
def numSum : List Num → Num
  | [] => .fin false 0
  | x :: [] => x
  | x :: l => x.add .rne (numSum l)

/-! ### Stochastic rounding (R186, R187) -/

/-- H(k, l, i) (R186), modulo 2^32. -/
def srndHash (k l : W32) (i : Nat) : W32 :=
  let z := k ^^^ (l * 0x6C8E9CF5)
  let z := z + BitVec.ofNat 32 (i + 1) * 0xA24BAED5
  let z := z ^^^ (z >>> 16)
  let z := z * 0x5D9F3A47
  let z := z ^^^ (z >>> 15)
  let z := z * 0xB41E6C93
  z ^^^ (z >>> 16)

/-- Stochastic rounding (R187), before the policy. -/
def srndTo (f : Fmt) (x : Num) (rnd : W32) : Nat :=
  match x with
  | .fin neg q =>
    if f.signed = false && q < 0 then 0
    else
      let lo := roundTo f x .rtz
      match valueOf f lo with
      | .fin _ v =>
        let a : Rat := if q < 0 then -q else q
        let b : Rat := if v < 0 then -v else v
        if a = 0 then lo
        else
          let quant : Rat := match f with
            | .int _ _ => 1
            | _ => pow2 (max (floorLog2 (if b = 0 then a else b)) f.emin - (f.prec - 1 : Int))
          let phi := ((a - b) / quant * mkRat (2 ^ 24) 1).floor.toNat
          if (rnd >>> 8).toNat < phi then
            let up := b + quant
            let top := magCode f f.maxCode
            let top : Rat := match f with
              | .int w sgn => mkRat (if sgn then (if q < 0 then 2 ^ (w - 1) else 2 ^ (w - 1) - 1) else 2 ^ w - 1) 1
              | _ => top
            let y := if top < up then top else up
            roundTo f (.fin neg (if q < 0 then -y else y)) .rtz
          else lo
      | _ => lo
  | _ => roundTo f x .rne

/-! ### Block quantisation (R188) -/

/-- The E8M0 code of the smallest power of two at least `r`, clamped (R188). -/
def scaleCode (r : Rat) : Nat :=
  if r ≤ 0 then 0
  else
    let e := floorLog2 r
    let e := if pow2 e = r then e else e + 1
    (max 0 (min 254 (e + 127))).toNat

/-- Quantise (R188) of one block of F32 codes: none where policy 2 traps; `mx` is true for MXI8. -/
def quantise (pol : Nat) (mx : Bool) (v : List W32) : Option (Nat × List Nat) :=
  let v := if pol = 1 then v.map (fun c => BitVec.ofNat 32 (policy 1 .f32 c.toNat)) else v
  if v.any (fun c => nonFinite .f32 c.toNat) then
    if pol = 2 then none else some (0xFF, v.map (fun _ => 0))
  else
    let q := v.map f32Rat
    let a := q.foldl (fun m x => let y : Rat := if x < 0 then -x else x; if m < y then y else m) 0
    let sc := scaleCode (a / (if mx then mkRat 127 64 else 6))
    let s := pow2 ((sc : Int) - 127)
    some (sc, (q.zip v).map fun (x, c) =>
      let n := c.getLsbD 31
      if mx then
        let r := roundTo (.int 32 true) (Num.ofRat (x / (s * mkRat 1 64))) .rne
        let i : Int := (BitVec.ofNat 32 r).toInt
        (BitVec.ofInt 8 (max (-127) (min 127 i))).toNat
      else roundTo .e2m1 (.fin n (x / s)) .rne)

/-- The value of a block-scaled element: element × scale, NaN under scale 0xFF (R181). -/
def blockValue (mx : Bool) (scale code : Nat) : Num :=
  match valueOf .e8m0 scale with
  | .fin _ s =>
    if mx then
      match valueOf (.int 8 true) code with
      | .fin _ q => .fin (decide (q < 0)) (q * mkRat 1 64 * s)
      | _ => .nan
    else
      match valueOf .e2m1 code with
      | .fin n q => .fin n (q * s)
      | _ => .nan
  | _ => .nan

/-! ### Pairwise trees (R190, R166) -/

/-- One level of the positional tree: adjacent pairs, with absent values (R190). -/
def treeLevel {α : Type} (f : α → α → α) : List (Option α) → List (Option α)
  | a :: b :: l =>
    (match a, b with
      | some x, some y => some (f x y)
      | some x, none => some x
      | none, y => y) :: treeLevel f l
  | l => l

/-- The positional tree over a list, `n` levels (R190). -/
def treeReduce {α : Type} (f : α → α → α) : Nat → List (Option α) → Option α
  | 0, l => l.headD none
  | n + 1, l => treeReduce f n (treeLevel f l)

/-- One level of the RED combiner: pairs, the odd one carried (R166). -/
def combineLevel {α : Type} (f : α → α → α) : List α → List α
  | a :: b :: l => f a b :: combineLevel f l
  | l => l

/-- The RED combiner (R166), `n` levels. -/
def combine {α : Type} (f : α → α → α) : Nat → List α → List α
  | 0, l => l
  | n + 1, l => combine f n (combineLevel f l)

end Sys2Proof.Machine
end

