-- ==== Sys2Proof/Machine/Basic.lean ====
section
/-! DEFINITION. Reading and updating the parts of State: cores, contexts, teams, units, launches and counters, and the
shared notes that many operations make (fault record R46, alerts R32, free values). -/

namespace Sys2Proof.Machine

/-! ## Bit fields -/

/-- Bits `lo` to `lo + w - 1` of a word as a number. -/
def bits {n : Nat} (x : BitVec n) (lo w : Nat) : Nat := (x.extractLsb' lo w).toNat

/-- `x` with bits `lo` to `lo + w - 1` replaced by `v`. -/
def setBits {n : Nat} (x : BitVec n) (lo w v : Nat) : BitVec n :=
  let m : BitVec n := (BitVec.allOnes w).setWidth n <<< lo
  (x &&& ~~~m) ||| ((BitVec.ofNat w v).setWidth n <<< lo)

/-- `x` with one bit set or cleared. -/
def setBit {n : Nat} (x : BitVec n) (i : Nat) (b : Bool) : BitVec n :=
  if b then x ||| (1#n <<< i) else x &&& ~~~(1#n <<< i)

/-- Sign extension of the low `w` bits to an integer. -/
def signed (w : Nat) (x : Nat) : Int := (BitVec.ofNat w x).toInt

/-- Lanes named by a mask, ascending, below `w` (R295 Active). -/
def lanesOf (w : Nat) (m : W64) : List Nat := (List.range w).filter fun l => m.getLsbD l

/-- The mask of a list of lanes. -/
def maskOf (ls : List Nat) : W64 := ls.foldl (fun m l => m ||| (1#64 <<< l)) 0

/-- The mask of lanes 0 to n - 1. -/
def lowMask (n : Nat) : W64 := BitVec.ofNat 64 (2 ^ n - 1)

/-- Bytes of a number, lowest first (R4). -/
def bytesOf (n : Nat) (v : Nat) : Bytes := (List.range n).map fun i => BitVec.ofNat 8 (v >>> (8 * i))

/-- The number that bytes hold, lowest first (R4). -/
def natOf (bs : Bytes) : Nat := bs.foldr (fun b acc => acc * 256 + b.toNat) 0

/-- 32-bit words of a number, lowest first (R287). -/
def words32 (n : Nat) (v : Nat) : List W32 := (List.range n).map fun i => BitVec.ofNat 32 (v >>> (32 * i))

/-- The number that 32-bit words hold (R287). -/
def ofWords32 (ws : List W32) : Nat := ws.foldr (fun b acc => acc * 2 ^ 32 + b.toNat) 0

def ceilDiv (a b : Nat) : Nat := (a + b - 1) / b

/-- ceil(log2 n) for n at least 1. -/
def clog2 (n : Nat) : Nat := if n ≤ 1 then 0 else (n - 1).log2 + 1

/-! ## Contexts (R42, R46, R128, R154) -/

/-- Reset value of a context register by its number (R42, R154: SCOPEV is 0x1F). -/
def ctxRegReset (n : Nat) : W64 := if n = 0x20 then 0x1F else 0

def State.context (s : State) (c : Nat) : Context := tget default s.contexts c
def State.setContext (s : State) (c : Nat) (x : Context) : State := { s with contexts := tset default s.contexts c x }
def State.modContext (s : State) (c : Nat) (f : Context → Context) : State := s.setContext c (f (s.context c))
def Context.reg (x : Context) (n : Nat) : W64 := tget (ctxRegReset n) x.regs n
def Context.setReg (x : Context) (n : Nat) (v : W64) : Context := { x with regs := tset (ctxRegReset n) x.regs n v }
def State.ctxReg (s : State) (c n : Nat) : W64 := (s.context c).reg n

/-- Reset value of a device register by its number (R42, R100, R271). -/
def devRegReset (n : Nat) : W64 :=
  if n = 0 then 0x10FFFF80 else if n < 8 then 0x10FFFF00 else if 0x18 ≤ n ∧ n < 0x26 then 0x20202040 else 0

def State.devReg (s : State) (n : Nat) : W64 := tget (devRegReset n) s.devRegs n
def State.setDevReg (s : State) (n : Nat) (v : W64) : State :=
  { s with devRegs := tset (devRegReset n) s.devRegs n v }

/-- Set a bit of the context fault record (R46). -/
def State.noteBit (s : State) (c bit : Nat) : State :=
  s.modContext c fun x => { x with fault := setBit x.fault bit true }

/-- Set ADDR of the context fault record (R46). -/
def State.noteAddr (s : State) (c addr : Nat) : State :=
  s.modContext c fun x => { x with fault := setBits x.fault 256 64 addr }

/-! ## Cores, teams, units, launches -/

def State.core (s : State) (c : Nat) : Core := tget default s.cores c
def State.setCore (s : State) (c : Nat) (x : Core) : State := { s with cores := tset default s.cores c x }
def State.modCore (s : State) (c : Nat) (f : Core → Core) : State := s.setCore c (f (s.core c))

def State.team? (s : State) (t : Nat) : Option Team := tfind s.teams t
def State.setTeam (s : State) (t : Nat) (x : Team) : State := { s with teams := tput s.teams t x }
def State.modTeam (s : State) (t : Nat) (f : Team → Team) : State :=
  match s.team? t with
  | some x => s.setTeam t (f x)
  | none => s
def State.delTeam (s : State) (t : Nat) : State := { s with teams := tdel s.teams t }

def State.launch? (s : State) (l : Nat) : Option Launch := tfind s.launches l
def State.modLaunch (s : State) (l : Nat) (f : Launch → Launch) : State :=
  match s.launch? l with
  | some x => { s with launches := tput s.launches l (f x) }
  | none => s

/-- A unit of a team (R108). -/
def Team.unit? (t : Team) : Option Nat → Option UnitState
  | none => some t.caller
  | some g => t.groups[g]?

def Team.setUnit (t : Team) (g : Option Nat) (u : UnitState) : Team :=
  match g with
  | none => { t with caller := u }
  | some g => { t with groups := t.groups.set g u }

def State.unit? (s : State) (r : UnitRef) : Option UnitState := (s.team? r.team).bind fun t => t.unit? r.grp

def State.setUnit (s : State) (r : UnitRef) (u : UnitState) : State := s.modTeam r.team fun t => t.setUnit r.grp u

def State.modUnit (s : State) (r : UnitRef) (f : UnitState → UnitState) : State :=
  match s.unit? r with
  | some u => s.setUnit r (f u)
  | none => s

/-- Every unit of a team: its groups and its caller. -/
def Team.refs (t : Team) (id : Nat) : List UnitRef :=
  ⟨id, none⟩ :: (List.range t.groups.length).map fun g => ⟨id, some g⟩

/-- The core of a team's caller, scratchpad, barriers and queues (R106). -/
def Team.home (t : Team) : Nat := t.cores.headD 0

/-- The team place on a core (R75). -/
def Team.placeOn (t : Team) (core : Nat) : Nat :=
  match (t.cores.zip t.places).find? (fun p => p.1 = core) with
  | some p => p.2
  | none => t.places.headD 0

/-- A team that occupies its cores (R124). -/
def Team.resident (t : Team) : Bool :=
  match t.life with
  | .gathering | .running | .saving => true
  | .ended => !t.places.isEmpty
  | .pending => false

/-- Resident teams with their ids. -/
def State.residents (s : State) : List (Nat × Team) := s.teams.filter fun p => p.2.resident

/-- Teams resident on a core. -/
def State.onCore (s : State) (c : Nat) : List (Nat × Team) := s.residents.filter fun p => c ∈ p.2.cores

/-- World of a core by its eight-core set (R23, R24). -/
def State.coreSecure (s : State) (c : Nat) : Bool := s.pkg.worldSets.getLsbD (c / 8)

/-- The virtual partition of a context: PART of its control register (R99). -/
def State.partOf (s : State) (ctx : Nat) : Nat := bits (s.ctxReg ctx 0x85) 8 3

/-- A fresh identifier. -/
def State.fresh (s : State) : Nat × State := (s.nextId, { s with nextId := s.nextId + 1 })

/-- The next free value of a width (R7; log 2). -/
def State.draw (s : State) (w : Nat) : BitVec w × State :=
  (Config.freeBits w s.freeCtr, { s with freeCtr := s.freeCtr + 1 })

/-- Instructions to be issued again stand in issue order. -/
def insertReplay (r : Replay) : List Replay → List Replay
  | [] => [r]
  | x :: l =>
    match r.acc, x.acc with
    | some a, some b => if a < b then r :: x :: l else x :: insertReplay r l
    | _, _ => x :: insertReplay r l

/-! ## What runs in the matrix unit (R205, R215, R217) -/

def MatKind.isSeq : MatKind → Bool
  | .epi _ _ _ _ _ | .save _ _ _ => false
  | _ => true

/-- The operation that an engine runs next (R205, R215): the one it has taken up, or the first of its kind, that is neither stopped
nor behind a stopped operation of its team, unless it waits for an operation of the other engine on its slot. -/
def runningOp (q : List MatOp) (isSeq : Bool) : Option MatOp :=
  let behind (m : MatOp) : Bool := q.any fun x => x.team = m.team && x.stop.isSome && decide (x.tag < m.tag)
  let free (m : MatOp) : Bool := m.kind.isSeq = isSeq && m.stop.isNone && !behind m
  match (q.find? fun m => m.active && free m).or (q.find? free) with
  | none => none
  | some m =>
    if q.any fun x => x.team = m.team && x.slot = m.slot && x.kind.isSeq ≠ isSeq && decide (x.tag < m.tag) then none else some m

/-- One of the engines runs an operation (R217): one that has begun, and that nothing stops. -/
def Core.matrixRuns (c : Core) : Bool := [true, false].any fun k => match runningOp c.matq k with | some m => m.started | none => false

/-! ## Alerts and events of the package (R29, R31, R32) -/

def State.alert (s : State) (f : Alerts → Alerts) : State := { s with pkg := { s.pkg with alerts := f s.pkg.alerts } }

/-- A containment event at an address (R31, R46): CONT and ADDR in the context's record, the alert, and CONT of the context's
next completions. -/
def State.contain (s : State) (ctx addr : Nat) : State :=
  let s := (s.noteBit ctx 192).noteAddr ctx addr
  let s := s.alert fun a => { a with contain := true }
  { s with queues := s.queues.map fun p => if bits p.2.desc 16 12 = ctx then (p.1, { p.2 with cont := true }) else p }

/-! ## Counters (R101, R103, R151) -/

/-- Count `n` events of code `ev` on a core: every counter whose EVT is that code (R101). A wrap sets OVF, and with INTEN the
event is for the partition that owns the core now. -/
def State.countCore (s : State) (core ev n : Nat) : State :=
  s.modCore core fun c =>
    (List.range 8).foldl (fun c k =>
      if bits (tget 0 c.pmcc k) 0 8 = ev && ev ≠ 0 && n ≠ 0 then
        let v := (tget 0 c.pmc k).toNat + n
        { c with
          pmc := tset 0 c.pmc k (BitVec.ofNat 64 (v % 2 ^ 48))
          pmcc := if 2 ^ 48 ≤ v then tset 0 c.pmcc k (setBit (tget 0 c.pmcc k) 9 true) else c.pmcc
          overflow := if 2 ^ 48 ≤ v && (tget 0 c.pmcc k).getLsbD 8 then c.overflow ++ [(k, c.lastPart.getD 0)] else c.overflow }
      else c) c

/-- What a partition reads of a slice's counter: its own events (R103). -/
def State.sliceCount (s : State) (slice n part : Nat) : Nat := (tget 0 s.mem.mscc ((4 * slice + n) * 8 + part)).toNat

/-- What a management connection reads of a slice's counter: the total over the owner tags (R103). -/
def State.sliceTotal (s : State) (slice n : Nat) : Nat :=
  ((List.range 8).foldl (fun k p => k + s.sliceCount slice n p) 0) % 2 ^ 48

/-- A read of a shared counter by a partition, or over a management connection (R103): a partition reads its own count of a slice, and
zero of the others; what a management connection reads of those the spec does not state, a free value (log 103). -/
def State.readCounter (s : State) (c : SharedCounter) (part : Option Nat) : W64 × State :=
  match c, part with
  | .slice k n, some p => (BitVec.ofNat 64 (s.sliceCount k n p), s)
  | .slice k n, none => (BitVec.ofNat 64 (s.sliceTotal k n), s)
  | _, some _ => (0, s)
  | _, none => s.draw 64

/-- Count an event at a memory-side slice under an owner tag (R103, R151). -/
def State.countSlice (s : State) (slice tag ev : Nat) : State :=
  (List.range 4).foldl (fun s k =>
    if bits (tget 0 s.mem.msccCtl (4 * slice + k)) 0 8 = ev then
      let key := (4 * slice + k) * 8 + tag
      let v := ((tget 0 s.mem.mscc key).toNat + 1) % 2 ^ 48
      { s with mem := { s.mem with mscc := tset 0 s.mem.mscc key (BitVec.ofNat 64 v) } }
    else s) s

/-- Let cycles pass on a core: its $cycles and its cycle counters (R18, R101, R285). -/
def State.addCycles (s : State) (core n : Nat) : State :=
  (s.modCore core fun c => { c with cycles := c.cycles + BitVec.ofNat 64 n }).countCore core 0x01 n

/-- A team when cycles pass on a core (R79, R81, R82): the budget of one whose caller is there falls and stops at 0, which is
noted for BUDGET_COUNTER_EXPIRY; its grace counter falls, and its charge to the allowance rises. -/
def Team.aged (core n : Nat) (t : Team) : Team :=
  if (t.life = .gathering || t.life = .running) && t.home = core then
    { t with budget := t.budget - n, expired := t.expired || (decide (t.budget ≠ 0) && decide (t.budget ≤ n))
             uncharged := t.uncharged + n, grace := t.grace.map fun g => g - n }
  else t

/-- ACLK reaches a core (R15): the package is Active, and the core has a resident team. -/
def State.coreClocked (s : State) (core : Nat) : Bool := s.pkg.power = .active && decide (s.onCore core ≠ [])

/-- Cycles pass on one core, if its clock runs (R15, R18, R79, R82, R217): $cycles, its cycle counters and its matrix watchdog
rise, the watchdog is 0 with no operation running, and its teams age. -/
def State.elapseOn (s : State) (core n : Nat) : State :=
  if !s.coreClocked core then s
  else
    let s := s.addCycles core n
    let s := s.countCore core 0x07 (n * (s.inflight.filter fun a => a.core = core && a.lanes.any fun l => l.st = .parked).length)
    let s := s.modCore core fun c => { c with watchdog := if c.matrixRuns then c.watchdog + n else 0 }
    { s with teams := s.teams.map fun p => (p.1, p.2.aged core n) }

/-- Cycles pass on a core and on its partner: the cores of a die change step together, so a partner pair counts the same
cycles (R17, R18, R79). -/
def State.elapse (s : State) (core n : Nat) : State :=
  (s.elapseOn (core - core % 2) n).elapseOn (core - core % 2 + 1) n

/-- A free number of cycles passes on a core before something reads a counter of cycles (R18, R79, R217, R285; log 20). -/
def State.passCycles (s : State) (core : Nat) : State :=
  let (d, s) := s.draw 32
  s.elapse core (1 + d.toNat)

end Sys2Proof.Machine
end

