-- ==== Sys2Proof/Machine/Memory.lean ====
section
/-! DEFINITION. The two translations (R128 to R135), the L1 caches and the memory-side cache (R141 to R145), the
directory and promotion (R143, R162), written-back bytes (R480), and the scope table (R154). -/

namespace Sys2Proof.Machine

/-! ## Windows (R128, R129) -/

/-- What an access asks a window for (R129). `none` asks for no permission (R338). -/
inductive Kind where
  | read
  | write
  | rw
  | fetch
  | none
  deriving DecidableEq, Repr, Inhabited

def Kind.writes : Kind → Bool
  | .write | .rw => true
  | _ => false

/-- Permission bits of WINA that a kind needs (R128). -/
def Kind.granted (k : Kind) (wina : W64) : Bool :=
  match k with
  | .read => wina.getLsbD 1
  | .write => wina.getLsbD 2
  | .rw => wina.getLsbD 1 && wina.getLsbD 2
  | .fetch => wina.getLsbD 3
  | .none => true

def winLog (wina : W64) : Nat := bits wina 5 6

/-- Whether window `wina` holds virtual address `v` (R129). -/
def winHit (wina : W64) (v : Nat) : Bool :=
  let l := winLog wina
  wina.getLsbD 0 && decide (21 ≤ l) && decide (l ≤ 52) && decide (v / 2 ^ l = (bits wina 21 36 * 2 ^ 21) / 2 ^ l)

/-- The translation at issue (R129): the intermediate address, or the cause. `wins` holds WINA and WINB of window k at
2k and 2k + 1. -/
def translate (wins : Table W64) (secure : Bool) (kind : Kind) (v size : Nat) : Except Byte Nat :=
  if v % size ≠ 0 then .error 0x05
  else
    match (List.range 16).find? (fun k => winHit (tget 0 wins (2 * k)) v) with
    | none => .error 0x07
    | some k =>
      let a := tget 0 wins (2 * k)
      let b := tget 0 wins (2 * k + 1)
      if a.getLsbD 4 && !secure then .error 0x08
      else if !kind.granted a then .error 0x07
      else
        let base := bits b 21 31 * 2 ^ 21
        .ok (base - base % 2 ^ winLog a + v % 2 ^ winLog a)

/-! ## Homes, worlds and page entries (R24, R130 to R134) -/

def lineOf (ia : Nat) : Nat := ia / 128
def pageOf (ia : Nat) : Nat := ia / 65536

/-- The home slice of an intermediate address (R130). -/
def homeSlice (ia : Nat) : Option Nat :=
  let pl := (ia >>> 48) % 16
  if pl = 0 then some (((ia >>> 12) ^^^ (ia >>> 18)) % 64)
  else if 4 ≤ pl ∧ pl ≤ 7 then some (16 * (pl - 4) + ((ia >>> 12) ^^^ (ia >>> 16)) % 16)
  else none

/-- The slice whose translation unit coordinates a page: the home of its first granule (R133). -/
def coordOf (page : Nat) : Option Nat := homeSlice (65536 * page)

/-- Whether an intermediate address lies in an active secure region (R24). -/
def secureAddr (s : State) (ia : Nat) : Bool :=
  s.pkg.regionDesc.any fun (_, d) =>
    let sz := bits d 51 6
    d.getLsbD 63 && d.getLsbD 62 && decide (21 ≤ sz) && decide (sz ≤ 51) &&
      decide (ia / 2 ^ sz = (bits d 0 31 * 2 ^ 21) / 2 ^ sz)

/-- A page's level-2 entry; a page under an invalid level-1 entry is not present (R131, R132). -/
def pte (s : State) (page : Nat) : W64 :=
  if tget 0 s.mem.level1 (page / 16384) = 0 then 0 else tget 0 s.mem.ptes page

/-- Frames of the 576 GiB of HBM (R131). -/
def frameLimit : Nat := 576 * 16384

/-- The HBM stack of a physical address, and the base die that the stack stands on (R11, R131). -/
def stackOf (p : Nat) : Nat := p / (48 * 2 ^ 30)
def stackDie (stack : Nat) : Nat := stack / 3

/-- The die whose stacks hold the level-2 table of a page: its home die where the range is die-homed, else bits 31:30 of its
address; a range with no home has the latter (R153; log 49). -/
def tableDie (page : Nat) : Nat :=
  let pl := page / 2 ^ 32 % 16
  if 4 ≤ pl ∧ pl ≤ 7 then pl - 4 else page / 2 ^ 14 % 4

/-- Whether an entry breaks the layout of R132: a reserved bit, a frame beyond HBM, a broken 2 MiB range. -/
def pteInvalid (s : State) (page : Nat) : Bool :=
  let e := pte s page
  bits e 5 3 ≠ 0 || bits e 54 10 ≠ 0 || decide (frameLimit ≤ bits e 20 24) ||
  (e.getLsbD 3 &&
    (let base := page - page % 32
     let e0 := pte s base
     bits e0 20 24 % 32 ≠ 0 ||
     !((List.range 32).all fun k => decide (pte s (base + k) = setBits e0 20 24 (bits e0 20 24 + k)))))

/-- STATE of a page as the translation units read it (R132): invalid entries, 6 and 7 are not present. -/
def pageState (s : State) (page : Nat) : Nat :=
  if pteInvalid s page then 0
  else
    let st := bits (pte s page) 0 3
    if 5 < st then 0 else st

/-- An invalid entry found by an access is noted in the record of the context its CTX names, with the access's address (R46,
R132). -/
def noteInvalid (s : State) (ia : Nat) : State :=
  let e := pte s (pageOf ia)
  if pteInvalid s (pageOf ia) && e ≠ 0 then (s.noteBit (bits e 8 12) 196).noteAddr (bits e 8 12) ia else s

/-- Physical address of an intermediate address in the present or moving state (R132). -/
def physOf (s : State) (ia : Nat) : Nat := bits (pte s (pageOf ia)) 20 24 * 65536 + ia % 65536

/-- What a translation unit answers (R134). -/
inductive Verdict where
  | ok
  | moving
  | refuse (cause : Byte) (pstate : Nat)
  deriving DecidableEq, Repr, Inhabited

/-- The check at the home of an access (R25, R130, R132, R134). -/
def verdict (s : State) (secure write : Bool) (ia : Nat) : Verdict :=
  if (homeSlice ia).isNone then .refuse 0x06 0
  else if secureAddr s ia && !secure then .refuse 0x08 0
  else
    match pageState s (pageOf ia) with
    | 1 => if write && (pte s (pageOf ia)).getLsbD 4 then .refuse 0x07 1 else .ok
    | 3 => .moving
    | 4 => .refuse 0x09 4
    | 5 => .refuse 0x0A 5
    | st => .refuse 0x06 st

/-! ## HBM (R131) -/

def hbmByte (s : State) (p : Nat) : Byte := tget 0 s.mem.hbm p

def hbmSet (s : State) (p : Nat) (b : Byte) : State :=
  { s with mem := { s.mem with hbm := tset 0 s.mem.hbm p b } }

/-- Whether the physical sector of `p` is uncorrectable (R30). -/
def hbmBad (s : State) (p : Nat) : Bool := p / 32 ∈ s.pkg.badSectors

/-! ## Cache lines -/

def lineByte (d : BitVec 1024) (i : Nat) : Byte := d.extractLsb' (8 * i) 8

/-- A line with its bytes from offset `o` replaced. -/
def lineSet (d : BitVec 1024) (o : Nat) : Bytes → BitVec 1024
  | [] => d
  | b :: bs => lineSet (setBits d (8 * o) 8 b.toNat) (o + 1) bs

/-- Byte mask of offsets `o` to `o + n - 1`. -/
def byteMask (o n : Nat) : BitVec 128 := BitVec.ofNat 128 ((2 ^ n - 1) * 2 ^ o)

/-! ## The memory-side cache (R142, R144, R145) -/

def State.msc? (s : State) (line : Nat) : Option MscLine := tfind s.mem.msc line
def State.setMsc (s : State) (line : Nat) (l : MscLine) : State :=
  { s with mem := { s.mem with msc := tput s.mem.msc line l } }
/-- A line leaves the cache, and what marked its data as uncorrectable with it (R30). -/
def State.delMsc (s : State) (line : Nat) : State :=
  { s with mem := { s.mem with msc := tdel s.mem.msc line }, pkg := { s.pkg with badMsc := s.pkg.badMsc.filter fun x => x ≠ line } }
def State.setPte (s : State) (page : Nat) (e : W64) : State :=
  { s with mem := { s.mem with ptes := tset 0 s.mem.ptes page e } }

/-- A clean line of the memory-side cache whose data are uncorrectable: it is discarded and fetched anew (R30). -/
def mscStale (s : State) (line : Nat) (l : MscLine) : Bool := decide (l.dirty = 0) && line ∈ s.pkg.badMsc

/-- Whether the cache holds the byte: a dirty one, or one of a valid sector. -/
def mscHolds (s : State) (ia : Nat) (l : MscLine) : Bool :=
  !mscStale s (lineOf ia) l && (l.dirty.getLsbD (ia % 128) || l.valid.getLsbD (ia % 128 / 32))

/-- The byte that every agent sees at an intermediate address at its home (R142). -/
def homeByte (s : State) (ia : Nat) : Byte :=
  match s.msc? (lineOf ia) with
  | some l => if mscHolds s ia l then lineByte l.data (ia % 128) else hbmByte s (physOf s ia)
  | none => hbmByte s (physOf s ia)

/-- Whether reading that byte meets uncorrectable data: in HBM, or in a dirty line of the cache (R30). -/
def homeBad (s : State) (ia : Nat) : Bool :=
  match s.msc? (lineOf ia) with
  | some l => if mscHolds s ia l then lineOf ia ∈ s.pkg.badMsc else hbmBad s (physOf s ia)
  | none => hbmBad s (physOf s ia)

/-- A 2 MiB page is split into 64 KiB entries before one of them changes (R29; log 28). -/
def splitBig (s : State) (page : Nat) : State :=
  if (pte s page).getLsbD 3 then
    let base := page - page % 32
    (List.range 32).foldl (fun s k => s.setPte (base + k) (setBit (pte s (base + k)) 3 false)) s
  else s

/-- A page becomes retired by data lost at an address (R30, R31). -/
def retirePage (s : State) (ia : Nat) : State :=
  let page := pageOf ia
  let s := splitBig s page
  let s := s.setPte page (setBits (pte s page) 0 3 5)
  s.contain (bits (pte s page) 8 12) ia

/-- The frame that bytes of a page are written to: the new one while the page migrates (R139). -/
def frameNow (s : State) (page : Nat) : Nat :=
  match s.mem.migrations.find? fun m => m.page = page with
  | some m => if bits (pte s page) 0 3 = 3 then m.frame else bits (pte s page) 20 24
  | none => bits (pte s page) 20 24

/-- A byte written to its page's frame (R142); a migration does not copy over it (R139). -/
def frameSet (s : State) (ia : Nat) (b : Byte) : State :=
  let page := pageOf ia
  let s := hbmSet s (frameNow s page * 65536 + ia % 65536) b
  { s with mem := { s.mem with migrations := s.mem.migrations.map fun m =>
      if m.page = page then { m with wrote := (ia % 65536) :: m.wrote } else m } }

/-- A line's dirty bytes are written to its frame (R142, R139); uncorrectable ones are dropped, and the page is retired (R30). -/
def mscClean (s : State) (line : Nat) : State :=
  match s.msc? line with
  | none => s
  | some l =>
    if l.dirty = 0 then s
    else if line ∈ s.pkg.badMsc then (retirePage s (128 * line)).delMsc line
    else
      let s1 := (List.range 128).foldl (fun s i =>
        if l.dirty.getLsbD i then frameSet s (128 * line + i) (lineByte l.data i) else s) s
      let s2 := s1.setMsc line { l with dirty := 0 }
      match homeSlice (128 * line) with
      | some h => s2.countSlice h l.tag 0x04
      | none => s2

/-- Eviction order of R144: low, then normal, then protected, the least recently used first within each. -/
def prioRank : Prio → Nat
  | .low => 0
  | .normal => 1
  | .protectedP => 2

/-- The order of victims (R144): invalid, low, normal, protected, and the least recently used first within a kind. -/
def mscRank (l : MscLine) : Nat := if l.valid = 0 && l.dirty = 0 then 0 else 1 + prioRank l.prio

def olderMsc (a b : Nat × MscLine) : Bool :=
  decide (mscRank a.2 < mscRank b.2) || (mscRank a.2 = mscRank b.2 && decide (a.2.used < b.2.used))

/-- The first of a list in an order. -/
def pickBest {α : Type} (better : α → α → Bool) : List α → Option α
  | [] => none
  | a :: l => match pickBest better l with
    | none => some a
    | some b => if better b a then some b else some a

/-- The set of a line in its slice of 131,072 sets (R2, R142; log 19). -/
def mscSetOf (line : Nat) : Nat := Config.mscSet line % 131072

/-- Ways in which a partition's lines are allocated at a slice (R29, R100). -/
def mscWays (s : State) (slice tag : Nat) : List Nat :=
  let cfg := bits (s.devReg tag) 8 16
  let mask := if (List.range 16).countP (fun w => cfg.testBit w) < 2 then 0xFFFF else cfg
  (List.range 16).filter fun w => mask.testBit w && !(tget 0 s.mem.waysOff slice).testBit w

/-- A way for a new line at its slice, evicting by R144 where every way is taken; none when no line may leave. -/
def mscWay (s : State) (line tag : Nat) : Option (Nat × State) :=
  match homeSlice (128 * line) with
  | none => none
  | some h =>
    let ways := mscWays s h tag
    let here := s.mem.msc.filter fun p => homeSlice (128 * p.1) = some h
    let free (ls : List (Nat × MscLine)) := ways.find? fun w => ls.all fun p => p.2.way ≠ w
    match free here with
    | some w => some (w, s)
    | none =>
      let set := here.filter fun p => mscSetOf p.1 = mscSetOf line
      match free set with
      | some w => some (w, s)
      | none =>
        match pickBest olderMsc (set.filter fun p => p.2.pins = 0 && p.2.landing = 0 && p.2.way ∈ ways) with
        | some (v, l) => some (l.way, (mscClean s v).delMsc v)
        | none => none

/-- The effect of HINT on the priority of a line that is hit, or newly allocated (R144): 0 normal, 1 evict-first,
2 evict-last, 3 no-allocate. -/
def hintHit (hint : Nat) (p : Prio) : Prio :=
  match hint with
  | 1 => if p = .protectedP then p else .low
  | 2 => .protectedP
  | _ => p

def hintMiss (hint : Nat) : Prio :=
  match hint with
  | 1 => .low
  | 2 => .protectedP
  | _ => .normal

/-- A clean line whose data are uncorrectable is discarded (R30). -/
def dropStale (s : State) (line : Nat) : State :=
  match s.msc? line with
  | some l =>
    if mscStale s line l then
      { (s.setMsc line { l with valid := 0 }) with pkg := { s.pkg with badMsc := s.pkg.badMsc.filter fun x => x ≠ line } }
    else s
  | none => s

/-- The line is present in the MSC, allocated where it was not. -/
def mscAlloc (s : State) (line hint tag : Nat) : State :=
  let t := s.nextId
  let s := dropStale { s with nextId := t + 1 } line
  match s.msc? line with
  | some l => s.setMsc line { l with prio := hintHit hint l.prio, used := t }
  | none =>
    match mscWay s line tag with
    | some (w, s) =>
      let s := s.setMsc line
        { data := 0, valid := 0, dirty := 0, prio := hintMiss hint, pins := 0, landing := 0, tag := tag, way := w, used := t }
      match homeSlice (128 * line) with
      | some h => s.countSlice h tag 0x03
      | none => s
    | none => s

/-- An event at the slice that homes an address, for a requester's owner tag (R103, R151). -/
def State.countHome (s : State) (ia tag ev : Nat) : State :=
  match homeSlice ia with
  | some h => s.countSlice h tag ev
  | none => s

/-- The line is present but not the sector: a miss of its own (R151). -/
def sectorMiss (s : State) (ia : Nat) : Bool :=
  match s.msc? (lineOf ia) with
  | some l => mscStale s (lineOf ia) l || !l.valid.getLsbD (ia % 128 / 32)
  | none => false

/-- A byte that the sector would take from HBM is uncorrectable, so that the sector is not fetched (R30). -/
def fillBad (s : State) (line sec : Nat) (l : MscLine) : Bool :=
  (List.range 32).any fun i => !l.dirty.getLsbD (32 * sec + i) && hbmBad s (physOf s (128 * line + 32 * sec + i))

/-- The sector of `ia` made valid in the MSC from HBM, under its dirty bytes (R141, R142). -/
def mscFill (s : State) (ia hint tag : Nat) : State :=
  let line := lineOf ia
  let s := if sectorMiss s ia then s.countHome ia tag 0x03 else s
  let s := mscAlloc s line hint tag
  match s.msc? line with
  | none => s
  | some l =>
    let sec := ia % 128 / 32
    if l.valid.getLsbD sec || fillBad s line sec l then s
    else
      let d := (List.range 32).foldl (fun d i =>
        let o := 32 * sec + i
        if l.dirty.getLsbD o then d else setBits d (8 * o) 8 (hbmByte s (physOf s (128 * line + o))).toNat) l.data
      s.setMsc line { l with data := d, valid := setBit l.valid sec true }

/-- Bytes stored at the home slice (R142): merged into the MSC line, which is used by it (R144), or written to the frame where
no way is free. -/
def mscPut (s : State) (ia tag : Nat) (bs : Bytes) : State :=
  (List.range bs.length).foldl (fun s i =>
    let a := ia + i
    let b := bs.getD i 0
    let s := if a % 128 = 0 || i = 0 then mscAlloc s (lineOf a) 0 tag else s
    match s.msc? (lineOf a) with
    | some l => s.setMsc (lineOf a)
        { l with data := setBits l.data (8 * (a % 128)) 8 b.toNat, dirty := setBit l.dirty (a % 128) true }
    | none => frameSet s a b) s

/-- A byte of the notify word of a queue (R56). -/
def notifyAt (s : State) (ia : Nat) : Bool :=
  let nb := s.mgmt.nbase
  decide (nb ≤ ia) && decide ((ia - nb) / 4096 < 4096) && decide ((ia - nb) % 4096 < 8)

/-- What a read gives of a byte held at `ia`: a notify word is write-only, and reads as zero (R5, R56). -/
def readOf (s : State) (ia : Nat) (b : Byte) : Byte := if notifyAt s ia then 0 else b

/-- A write at `ia` that touches a notify word makes the word visible (R56). -/
def notifySeen (s : State) (ia : Nat) : State :=
  let nb := s.mgmt.nbase
  let q := (ia - nb) / 4096
  if notifyAt s ia then
    let w := wordOfBytes ((List.range 8).map fun i => homeByte s (nb + 4096 * q + i))
    { s with mem := { s.mem with notify := s.mem.notify ++ [(q, w)] } }
  else s

/-- Bytes written at the home slice. -/
def mscWrite (s : State) (ia tag : Nat) (bs : Bytes) : State :=
  if bs = [] then s else notifySeen (mscPut s ia tag bs) ia

/-! ## L1 caches (R141, R144, R161) -/

def State.l1? (s : State) (c line : Nat) : Option L1Line := tfind (s.core c).l1 line
def State.setL1 (s : State) (c line : Nat) (l : L1Line) : State :=
  s.modCore c fun k => { k with l1 := tput k.l1 line l }

/-- Owner tag of a core's requests: the partition that owns it (R100, R102). -/
def State.coreTag (s : State) (c : Nat) : Nat := ((s.core c).lastPart).getD 0

/-- A core's line no longer counts among those that hold uncorrectable data (R30). -/
def State.clearBadLine (s : State) (core line : Nat) : State :=
  { s with pkg := { s.pkg with badLines := s.pkg.badLines.filter fun x => x ≠ (core, line) } }

def State.delL1 (s : State) (c line : Nat) : State := (s.modCore c fun k => { k with l1 := tdel k.l1 line }).clearBadLine c line

/-- A core's dirty bytes of one line merged at the home slice (R480), which acts by the page's state; the line is one write. -/
def mergeBytes (s : State) (c line : Nat) : State :=
  match s.l1? c line with
  | none => s
  | some l =>
    if l.dirty = 0 then s
    else
      let ia := 128 * line
      let ctx := bits (pte s (pageOf ia)) 8 12
      let clean := s.setL1 c line { l with dirty := 0 }
      if (c, line) ∈ s.pkg.badLines then (retirePage s ia).delL1 c line                -- R30
      else if (homeSlice ia).isNone then clean
      else
        match pageState s (pageOf ia) with
        | 1 | 3 =>
          let s := (List.range 128).foldl (fun s i =>
            if l.dirty.getLsbD i then mscPut s (ia + i) (s.coreTag c) [lineByte l.data i] else s) clean
          let s := if l.dirty &&& byteMask 0 8 = 0 then s else notifySeen s ia
          match homeSlice ia with
          | some h => s.countSlice h (s.coreTag c) 0x02
          | none => s
        | _ => (((noteInvalid clean ia).contain ctx ia).noteBit ctx 200).noteAddr ctx ia

/-- Remove the directory entries that a core holds for a line (R143). -/
def dirDrop (s : State) (c line : Nat) (own : Bool) : State :=
  { s with mem := { s.mem with dir := s.mem.dir.filter fun e => !(e.line = line && e.core = c && e.own = own) } }

/-- Promotion (R162): the core writes back every dirty byte of its L1 by `merge`, marked lines last and in the order of
their marks, and its marks are cleared. -/
def promoteBy (merge : State → Nat → Nat → State) (s : State) (c : Nat) : State :=
  let marks := (s.mem.dir.filter fun e => e.core = c && !e.own).map (·.line)
  let plain := ((s.core c).l1.filter fun p => p.1 ∉ marks).map (·.1)
  let s := plain.foldl (fun s line => merge s c line) s
  let s := marks.foldl (fun s line => merge s c line) s
  let s := { s with mem := { s.mem with dir := s.mem.dir.filter fun e => !(e.core = c && !e.own) } }
  s.modCore c fun k => { k with l1 := k.l1.map fun p => (p.1, { p.2 with lrel := false }) }

/-- The directory's owner of a line, if a core other than `except` owns it (R143). -/
def ownerOf (s : State) (line : Nat) (except : Option Nat) : Option Nat :=
  (s.mem.dir.find? fun e => e.line = line && e.own && some e.core ≠ except).map (·.core)

/-- A recall (R143, R162): the owner writes the line back by `merge`, after all its dirty bytes when a local atomic last
wrote it or a local release has marked it, and gives up ownership. -/
def recallBy (merge : State → Nat → Nat → State) (s : State) (line : Nat) (except : Option Nat) : State :=
  match ownerOf s line except with
  | none => s
  | some k =>
    let loc := match s.l1? k line with | some l => l.localAtom || l.lrel | none => false
    let s := if loc then promoteBy merge s k else merge s k line
    let s := dirDrop s k line true
    let s := match s.l1? k line with
      | some l => s.setL1 k line { l with owned := false, localAtom := false }
      | none => s
    match homeSlice (128 * line) with
    | some h => s.countSlice h (s.coreTag k) 0x06
    | none => s

/-- A write-back by a chain of at most `n` owners: it is an access of its core, which recalls a line that another core
owns before it is merged (R142, R143). -/
def mergeChain : Nat → State → Nat → Nat → State
  | 0, s, c, line => mergeBytes s c line
  | n + 1, s, c, line =>
    let dirty : Bool := match s.l1? c line with | some l => l.dirty ≠ 0 | none => false
    mergeBytes (if dirty then recallBy (mergeChain n) s line (some c) else s) c line

/-- A core's dirty bytes of one line are written back (R141); a chain of owners has at most the package's 128 cores. -/
def mergeLine (s : State) (c line : Nat) : State := mergeChain 128 s c line

def promoteCore (s : State) (c : Nat) : State := promoteBy mergeLine s c

/-- A core writes back one line: one that a local release has marked, or a local atomic has written, follows the core's other dirty
bytes (R157, R162). -/
def writebackLine (s : State) (c line : Nat) : State :=
  match s.l1? c line with
  | some l => if l.lrel || l.localAtom then promoteCore s c else mergeLine s c line
  | none => s

/-- An access by another agent recalls an owned line (R143, R162). -/
def recallLine (s : State) (line : Nat) (except : Option Nat) : State := recallBy mergeLine s line except

/-- A new directory entry; a full directory first recalls its oldest OWN entry or promotes its oldest LREL (R143). -/
def dirAdd (s : State) (e : DirEntry) : State :=
  if e ∈ s.mem.dir then s
  else
    let mine := s.mem.dir.filter fun d => homeSlice (128 * d.line) = homeSlice (128 * e.line)
    let s := if 8192 ≤ mine.length then
        match mine.head? with
        | some d => if d.own then recallLine s d.line none else promoteCore s d.core
        | none => s
      else s
    { s with mem := { s.mem with dir := s.mem.dir ++ [e] } }

def l1SetOf (line : Nat) : Nat := ((line % 256) ^^^ (line / 256 % 256))

/-- A line that holds nothing is an invalid way (R144). -/
def L1Line.blank (l : L1Line) : Bool := decide (l.valid = 0) && decide (l.dirty = 0) && !l.owned && !l.lrel

/-- The order of victims (R144): invalid, low, normal, protected, and the least recently used first within a kind. -/
def l1Rank (l : L1Line) : Nat := if l.blank then 0 else 1 + prioRank l.prio

def olderL1 (a b : Nat × L1Line) : Bool :=
  decide (l1Rank a.2 < l1Rank b.2) || (l1Rank a.2 = l1Rank b.2 && decide (a.2.used < b.2.used))

/-- A line leaves L1 (R141, R162): written back, and an owned line is given up. -/
def evictL1 (s : State) (c line : Nat) : State :=
  let s := writebackLine s c line
  (dirDrop s c line true).delL1 c line

/-- The line is present in a core's L1, allocated where it was not (R141, R144). -/
def l1Alloc (s : State) (c line hint : Nat) : State :=
  let t := s.nextId
  let s := { s with nextId := t + 1 }
  match s.l1? c line with
  | some l => s.setL1 c line { l with prio := hintHit hint l.prio, used := t }
  | none =>
    let set := (s.core c).l1.filter fun p => l1SetOf p.1 = l1SetOf line
    let s := if 16 ≤ set.length then
        match pickBest olderL1 set with
        | some (v, _) => evictL1 s c v
        | none => s
      else s
    s.setL1 c line { data := 0, valid := 0, dirty := 0, stale := 0, prio := hintMiss hint, lrel := false
                     owned := false, localAtom := false, used := t }

/-- Whether a byte can be read from the line (R141, R161): dirty, or of a valid sector and not stale. -/
def l1Has (l : L1Line) (o : Nat) : Bool := l.dirty.getLsbD o || (l.valid.getLsbD (o / 32) && !l.stale.getLsbD o)

/-- Whether an access of `n` bytes at `ia`, within one line, hits the core's L1. -/
def l1Hit (s : State) (c ia n : Nat) : Bool :=
  match s.l1? c (lineOf ia) with
  | some l => (List.range n).all fun i => l1Has l (ia % 128 + i)
  | none => false

/-- The byte a core reads at `ia`: its own L1's where it can be read there, the home's otherwise. -/
def coreByte (s : State) (c ia : Nat) : Byte :=
  match s.l1? c (lineOf ia) with
  | some l => if l1Has l (ia % 128) then lineByte l.data (ia % 128) else homeByte s ia
  | none => homeByte s ia

/-- What a core's sector miss does before the line comes in: the line's owner gives it up, the miss is counted in the core (R101 0x05)
and at the line's home (R151 0x01), and the MSC takes the sector (R143, R144). -/
def l1Miss (s : State) (c ia hint : Nat) : State :=
  let s := recallLine (s.countCore c 0x05 1) (lineOf ia) (some c)
  mscFill (s.countHome ia (s.coreTag c) 0x01) ia hint (s.coreTag c)

/-- The sector of `ia` is fetched from the home under the core's dirty bytes (R141, R161), but for bytes that are uncorrectable there
(R30); no-allocate leaves L1 as it is on a miss (R144). -/
def l1Fill (s : State) (c ia hint : Nat) : State :=
  let line := lineOf ia
  let s := l1Miss s c ia hint
  if hint = 3 && (s.l1? c line).isNone then s
  else
    let s := l1Alloc s c line hint
    match s.l1? c line with
    | none => s
    | some l =>
      let sec := ia % 128 / 32
      let d := (List.range 32).foldl (fun d i =>
        let o := 32 * sec + i
        if l.dirty.getLsbD o then d else setBits d (8 * o) 8 (homeByte s (128 * line + o)).toNat) l.data
      let bad := (List.range 32).foldl (fun (m : BitVec 128) i => if homeBad s (128 * line + 32 * sec + i) then setBit m (32 * sec + i) true else m) 0
      s.setL1 c line { l with data := d, valid := setBit l.valid sec true
                              stale := (l.stale &&& ~~~(byteMask (32 * sec) 32)) ||| bad }

/-- A clean line that the core holds with uncorrectable data is discarded (R30). -/
def dropBadLine (s : State) (core line : Nat) : State :=
  if (core, line) ∈ s.pkg.badLines then
    match s.l1? core line with
    | some l =>
      if l.dirty = 0 then
        (s.setL1 core line { l with valid := 0 }).clearBadLine core line
      else s
    | none => s
  else s

/-- Bytes that a core's load at `ia` reads (within one sector for lane accesses), filling L1 on a miss. -/
def coreRead (s : State) (c ia n hint : Nat) : Bytes × State :=
  let s := dropBadLine s c (lineOf ia)
  let s := if l1Hit s c ia n then l1Alloc s c (lineOf ia) hint
    else
      (List.range n).foldl (fun s i => if (ia + i) % 32 = 0 || i = 0 then
        (if l1Hit s c (ia + i) (min (n - i) (32 - (ia + i) % 32)) then s else l1Fill s c (ia + i) hint) else s) s
  ((List.range n).map fun i => readOf s (ia + i) (coreByte s c (ia + i)), s)

/-- Bytes that a core's store writes (R141): into L1 without reading the line; with no-allocate, a miss is written at
the home (R144). -/
def coreWrite (s : State) (c ia hint : Nat) (bs : Bytes) : State :=
  let s := if (s.l1? c (lineOf ia)).isNone then s.countCore c 0x05 1 else s
  if hint = 3 && (s.l1? c (lineOf ia)).isNone then
    mscWrite ((recallLine s (lineOf ia) (some c)).countHome ia (s.coreTag c) 0x02) ia (s.coreTag c) bs
  else
    let s := l1Alloc s c (lineOf ia) hint
    match s.l1? c (lineOf ia) with
    | none => s
    | some l => s.setL1 c (lineOf ia)
        { l with data := lineSet l.data (ia % 128) bs, dirty := l.dirty ||| byteMask (ia % 128) bs.length }

/-- Every dirty byte of a core's L1 is written back, but for lines owned for atomics (R160). -/
def writebackAll (s : State) (c : Nat) : State :=
  let owned := ((s.core c).l1.filter fun p => p.2.owned && !p.2.lrel).map (·.1)
  if (s.mem.dir.any fun e => e.core = c && !e.own) then promoteCore s c
  else (((s.core c).l1.filter fun p => p.1 ∉ owned).map (·.1)).foldl (fun s line => mergeLine s c line) s

/-- The L1 steps of an acquire that is not local (R161): clean sectors are invalidated, and the clean bytes of dirty
sectors become stale. Lines owned for atomics stay, and a line without data is none that holds uncorrectable data (R30). -/
def acquireL1 (s : State) (c : Nat) : State :=
  let kept (line : Nat) : Bool := match s.l1? c line with | some l => l.owned || decide (l.dirty ≠ 0) | none => false
  let s : State := { s with pkg := { s.pkg with badLines := s.pkg.badLines.filter fun x => x.1 ≠ c || kept x.2 } }
  s.modCore c fun k => { k with l1 := (k.l1.filterMap fun p =>
    let l := p.2
    if l.owned then some p
    else if l.dirty = 0 then (if l.lrel then some (p.1, { l with valid := 0, stale := 0 }) else none)
    else
      let keep : BitVec 4 := BitVec.ofNat 4 ((List.range 4).foldl (fun m j =>
        if (l.dirty &&& byteMask (32 * j) 32) ≠ 0 then m + 2 ^ j else m) 0)
      some (p.1, { l with valid := l.valid &&& keep, stale := ~~~l.dirty })) }

/-- Whether an access finds its page's entry in the slice's translation cache is not known to programs: a free choice, made
where a counter asks for it (R133, R151; log 72). -/
def countXlat (s : State) (ia tag : Nat) : State :=
  match homeSlice ia with
  | none => s
  | some h =>
    if (List.range 4).any fun k => bits (tget 0 s.mem.msccCtl (4 * h + k)) 0 8 = 0x0A then
      let (miss, s) := s.draw 1
      if miss = 1 then s.countSlice h tag 0x0A else s
    else s

/-- A line that a read of `n` bytes at `ia` touches is read: counted, missed where the cache does not hold the bytes, used where
it does (R144, R151). -/
def agentTouch (s : State) (line ia n tag : Nat) : State :=
  let held (l : MscLine) : Bool := (List.range 128).all fun i =>
    let a := 128 * line + i
    decide (a < ia) || decide (ia + n ≤ a) || mscHolds s a l
  let s1 := s.countHome (128 * line) tag 0x01
  match s.msc? line with
  | some l =>
    let t := s.nextId
    let s2 := ({ s1 with nextId := t + 1 }).setMsc line { l with used := t }
    if held l then s2 else s2.countHome (128 * line) tag 0x03
  | none => s1.countHome (128 * line) tag 0x03

/-- Bytes read by a non-core agent at the home slice (R142, R143); true when uncorrectable data was met. -/
def agentRead (s : State) (ia n tag : Nat) : Bool × Bytes × State :=
  let s := (List.range n).foldl (fun s i => if (ia + i) % 128 = 0 || i = 0 then recallLine s (lineOf (ia + i)) none else s) s
  let s := countXlat s ia tag
  let bad := (List.range n).any fun i => homeBad s (ia + i)
  let bs := (List.range n).map fun i => readOf s (ia + i) (homeByte s (ia + i))
  (bad, bs, ((List.range (lineOf (ia + n - 1) + 1 - lineOf ia)).map fun k => lineOf ia + k).foldl (fun s line => agentTouch s line ia n tag) s)

/-- Bytes written by a non-core agent at the home slice (R142, R143, R167). -/
def agentWrite (s : State) (ia tag : Nat) (bs : Bytes) : State :=
  let s := (List.range bs.length).foldl (fun s i =>
    if (ia + i) % 128 = 0 || i = 0 then recallLine s (lineOf (ia + i)) none else s) s
  mscWrite ((countXlat s ia tag).countHome ia tag 0x02) ia tag bs

/-- Bytes that the ALU of the home slice works on (R142, R166), read where they stand. -/
def aluRead (s : State) (ia n tag : Nat) : Bytes × State :=
  let s := mscFill ((recallLine s (lineOf ia) none).countHome ia tag 0x05) ia 0 tag
  ((List.range n).map fun i => readOf s (ia + i) (homeByte s (ia + i)), s)

/-! ## Scopes (R154, R155) -/

/-- A scope id that is not valid raises cause 0x0F (R154). -/
def scopeValid (wins : Table W64) (id : Nat) : Bool := decide (id < 5) || (tget 0x1F wins 0x20).getLsbD id

/-- ScopeCores for a unit on core c of a team on `team`, less the cores outside its world (R154). -/
def scopeCores (s : State) (wins : Table W64) (team : List Nat) (c id : Nat) : List Nat :=
  let cs := match id with
    | 0 => team
    | 1 => (List.range 8).map fun k => 8 * (c / 8) + k
    | 2 => (List.range 32).map fun k => 32 * (c / 32) + k
    | 3 | 4 => List.range 128
    | k => (List.range 128).filter fun n => n = c ||
        (if n < 64 then (tget 0 wins (0x40 + 2 * k)).getLsbD n else (tget 0 wins (0x41 + 2 * k)).getLsbD (n - 64))
  cs.filter fun n => s.coreSecure n = s.coreSecure c

/-- ScopeCores for the mapper, an agent on no core (R66). -/
def scopeCoresNone (s : State) (regs : Nat → W64) (secure : Bool) (id : Nat) : List Nat :=
  let cs := if id < 3 then [] else if id < 5 then List.range 128 else (List.range 128).filter fun n =>
    if n < 64 then (regs (0x40 + 2 * id)).getLsbD n else (regs (0x41 + 2 * id)).getLsbD (n - 64)
  cs.filter fun n => s.coreSecure n = secure

/-- Whether a scope names only the unit's own core (R155). -/
def scopeLocal (cs : List Nat) (c : Nat) : Bool := cs.all fun n => n = c

/-- An acquire reaches a line: marks of other cores in its set are promoted first (R162). -/
def promoteFor (s : State) (line : Nat) (cs : List Nat) (except : Option Nat) : State :=
  (s.mem.dir.filter fun e => e.line = line && !e.own && e.core ∈ cs && some e.core ≠ except).foldl
    (fun s e => promoteCore s e.core) s

end Sys2Proof.Machine
end

