-- ==== Sys2Proof/Machine/Ops.lean ====
section
/-! DEFINITION. The named operations on units: streams of clauses, registers and their full/empty bits, pending
causes, taking an exception (R120, R123), returning from one (R122), and the move to the next instruction (R275). -/

namespace Sys2Proof.Machine

/-! ## Streams of clauses (R113, R125) -/

/-- The streams of a unit: 0 its own, 1 to 4 its sub-groups', 5 its handler's, 6 to 9 the sub-groups' of a region that the
handler opened. From 5 on, a stream runs in handler mode. -/
def allSlots : List Nat := List.range 10

/-- The entry of the split table that a sub-group's stream has. -/
def subIdx (slot : Nat) : Nat := (slot - 1) % 5

/-- The stream in a slot. -/
def UnitState.thread (u : UnitState) (slot : Nat) : Thread :=
  if slot = 0 then u.main
  else if slot = 5 then match u.handler with | some h => h.th | none => default
  else match u.region.subs[subIdx slot]? with | some g => g.th | none => default

def UnitState.setThread (u : UnitState) (slot : Nat) (th : Thread) : UnitState :=
  if slot = 0 then { u with main := th }
  else if slot = 5 then { u with handler := u.handler.map fun h => { h with th := th } }
  else
    match u.region.subs[subIdx slot]? with
    | some g => { u with region := { u.region with subs := u.region.subs.set (subIdx slot) { g with th := th } } }
    | none => u

def UnitState.modThread (u : UnitState) (slot : Nat) (f : Thread → Thread) : UnitState :=
  u.setThread slot (f (u.thread slot))

/-- X for a stream (R111). -/
def UnitState.xOf (u : UnitState) (slot : Nat) : W64 :=
  if slot = 0 then u.x
  else if slot = 5 then match u.handler with | some h => h.x | none => 0
  else match u.region.subs[subIdx slot]? with | some g => g.xmask | none => 0

/-- The region that is open is the running code's own: the handler's in handler mode, else the unit's. -/
def UnitState.inRegion (u : UnitState) : Bool := u.region.isOpen && decide (u.region.byHandler = u.handler.isSome)

/-- Lanes that have not exited (R113, R323). -/
def UnitState.live (u : UnitState) : W64 := if u.region.emask ≠ 0 && !u.region.byHandler then u.region.emask else u.x

/-- Whether a stream may issue at all: the unit runs, the stream exists, and a handler excludes the others (R120). -/
def UnitState.streamLive (u : UnitState) (slot : Nat) : Bool :=
  !u.exited &&
  (if u.inRegion then
     decide (slot ≠ 0) && decide (slot ≠ 5) && decide (decide (5 ≤ slot) = u.handler.isSome) &&
       (match u.region.subs[subIdx slot]? with | some g => !g.arr | none => false)
   else if u.handler.isSome then slot = 5 else slot = 0)

/-- What a unit's streams have fetched of the clauses that follow is discarded (R272): one resumed after a trap or a restoration fetches
anew. -/
def UnitState.dropAhead (u : UnitState) : UnitState :=
  { u with main := { u.main with ahead := [] }
           region := { u.region with subs := u.region.subs.map fun g => { g with th := { g.th with ahead := [] } } } }

/-- Union of the open entries, or X where no region is open (R120). -/
def UnitState.union (u : UnitState) : W64 :=
  if u.region.isOpen then u.region.subs.foldl (fun m g => if g.arr then m else m ||| g.xmask) 0 else u.x

/-- A clause address with the words of the clause that starts there still to be fetched. -/
def Thread.at (pc lastIssue : Nat) : Thread :=
  { pc := pc, words := [], idx := 0, run := false, met := false, park := .none, lastIssue := lastIssue }

def Thread.header (th : Thread) : Header := decodeHeader (th.words.headD 0)

/-- The clause that begins at the word after the last of this one (R272). -/
def Thread.nextPc (th : Thread) : Nat := (th.pc + 8 * th.words.length) % 2 ^ 64

/-- The stream at the clause that follows, with what its fetch has brought. -/
def Thread.next (th : Thread) : Thread := { Thread.at th.nextPc th.lastIssue with ahead := th.ahead }

/-- The address of a branch target (R280). -/
def Thread.target (th : Thread) (imm : BitVec 18) : Nat :=
  (((th.pc : Int) + 8 * imm.toInt) % 2 ^ 64).toNat

/-- TPC for an instruction (R335): its clause and its word after the header. -/
def tpcOf (pc idx : Nat) : W64 := BitVec.ofNat 64 (pc % 2 ^ 57 + (idx - 1) % 16 * 2 ^ 57)

/-! ## Context of an executing instruction -/

/-- Everything an instruction's meaning reads of its unit: see R105, R111. -/
structure Ctx where
  u : UnitRef
  slot : Nat
  us : UnitState
  team : Team
  launch : Launch
  core : Nat
  caller : Bool
  w : Nat
  x : W64
  em : W64
  secure : Bool
  rep : Replay                   -- this instruction, should it have to be issued again
  again : Bool                   -- it is being issued again (R122)
  deriving DecidableEq, Repr, Inhabited

/-- Execution happens in handler mode (R120). -/
def Ctx.inHandler (c : Ctx) : Bool := decide (5 ≤ c.slot)

/-- The lanes of EM, ascending (R295); the caller acts as one lane. -/
def Ctx.lanes (c : Ctx) : List Nat := lanesOf c.w c.em

/-- The context of the focused unit for an instruction with this MASK field (R111): EM = X ∧ M, or the replayed lanes. -/
def mkCtx (s : State) (i : Instr) (mask : BitVec 7) : Option Ctx :=
  match s.focus with
  | none => none
  | some f =>
    match s.team? f.u.team, s.unit? f.u with
    | some t, some us =>
      match s.launch? t.launch with
      | none => none
      | some l =>
        let caller := f.u.grp.isNone
        let th := us.thread f.slot
        let w := if caller then 1 else l.width
        let x := if caller then 1 else us.xOf f.slot
        let m : W64 := if mask = 0 || caller then BitVec.allOnes 64 else tget 0 us.sregs mask.toNat
        let overrides := match us.override with
          | some r => if decide (5 ≤ r.slot) = decide (5 ≤ f.slot) then some r else none
          | none => none
        let em := (match overrides with | some r => r.em | none => x &&& m) &&& lowMask w
        some
          { u := f.u, slot := f.slot, us := us, team := t, launch := l, core := us.core, caller := caller, w := w
            x := x, em := em, secure := s.coreSecure us.core
            rep := match overrides with
              | some r => r
              | none => { instr := some i, pc := th.pc, idx := th.idx, slot := f.slot, em := em, acc := none, dst := none
                          regs := 0 }
            again := overrides.isSome }
    | _, _ => none

/-! ## Registers (R117, R284) -/

def UnitState.vreg (u : UnitState) (r lane : Nat) : W32 := tget 0 u.vregs (64 * r + lane)
/-- A register written; its data are correct from then on (R30). -/
def UnitState.setVreg (u : UnitState) (r lane : Nat) (v : W32) : UnitState :=
  { u with vregs := tset 0 u.vregs (64 * r + lane) v, badRegs := u.badRegs.filter fun b => b ≠ (r, lane) }
def UnitState.sreg (u : UnitState) (r : Nat) : W64 := tget 0 u.sregs r
def UnitState.setSreg (u : UnitState) (r : Nat) (v : W64) : UnitState :=
  { u with sregs := tset 0 u.sregs r v, badRegs := u.badRegs.filter fun b => b ≠ (0x100 + r, 0) }

/-- Consecutive words written to a lane of consecutive registers (R287). -/
def UnitState.setVwords (u : UnitState) (r lane : Nat) : List W32 → UnitState
  | [] => u
  | v :: vs => (u.setVreg r lane v).setVwords (r + 1) lane vs

/-- Whether the n registers from specifier `d` are named empty (R117): vector below 0x100, scalar or caller above. -/
def UnitState.isEmpty (u : UnitState) (d n : Nat) : Bool :=
  if d < 0x100 then (List.range n).any fun k => u.vEmpty.getLsbD (d + k)
  else if d < 0x180 then u.sEmpty.getLsbD (d - 0x100)
  else false

/-- MarkEmpty and MarkFull (R295). -/
def UnitState.mark (u : UnitState) (d n : Nat) (empty : Bool) : UnitState :=
  if d < 0x100 then { u with vEmpty := (List.range n).foldl (fun e k => setBit e (d + k) empty) u.vEmpty }
  else if d < 0x180 then { u with sEmpty := setBit u.sEmpty (d - 0x100) empty }
  else u

/-! ## Issue ports (R85, R87) -/

/-- The partition or caller port of a unit, updated. -/
def State.modPort (s : State) (core : Nat) (part : Option Nat) (f : IssuePort → IssuePort) : State :=
  s.modCore core fun c =>
    match part with
    | none => { c with callerPort := f c.callerPort }
    | some p => { c with parts := tset default c.parts p (f (tget default c.parts p)) }

/-- The port of a unit: none for the caller port. -/
def portOf (r : UnitRef) (u : UnitState) : Option Nat := match r.grp with | none => none | some _ => some u.part

/-- A clause no longer issues: its port may select again. -/
def freePort (s : State) (r : UnitRef) (slot : Nat) : State :=
  match s.unit? r with
  | none => s
  | some u => s.modPort u.core (portOf r u) fun p => { p with busy := p.busy.filter fun b => !(b.1 = r && b.2 = slot) }

/-! ## Moving on (R272, R275, R280) -/

/-- The stream's clause has ended, and it stands elsewhere. A replay in progress has been performed. -/
def leaveClause (c : Ctx) (f : Thread → Thread) (s : State) : State :=
  let s := freePort s c.u c.slot
  s.modUnit c.u fun u =>
    let u := { u with override := if c.again then none else u.override }
    u.modThread c.slot f

/-- The stream continues at another clause. -/
def jump (c : Ctx) (target : Nat) (s : State) : State := leaveClause c (fun th => Thread.at target th.lastIssue) s

/-- Passes of a vector instruction over the 32-lane datapath: the halves of the mask that are not zero (R86). -/
def vectorPasses (c : Ctx) : Nat :=
  match c.rep.instr.bind encode with
  | some e => if e.cls = 0 then (if c.em &&& lowMask 32 = 0 then 0 else 1) + (if c.em >>> 32 = 0 then 0 else 1) else 0
  | none => 0

/-- The instruction has been performed: the next word of the clause, or the clause that follows (R272). A replayed
instruction leaves the stream where it stands (R122). -/
def advance (c : Ctx) (len : Nat) (s : State) : State :=
  let s := (s.countCore c.core 0x03 1).countCore c.core 0x04 (vectorPasses c)
  if c.again then s.modUnit c.u fun u => { u with override := none }
  else
    let th := c.us.thread c.slot
    if th.idx + len < th.words.length then
      s.modUnit c.u fun u => u.modThread c.slot fun t => { t with idx := th.idx + len, park := .none, run := true }
    else leaveClause c Thread.next s

/-- The unit parks at the instruction, which is issued again when its condition may hold (R118). A replayed instruction
stays to be issued, and its stream stands where it stood (R122). -/
def parkAt (c : Ctx) (p : Park) (s : State) : State :=
  let s := freePort s c.u c.slot
  if c.again then s
  else s.modUnit c.u fun u => u.modThread c.slot fun t => { t with park := p, run := false }

/-! ## Accesses that wait elsewhere (R135, R136) -/

def State.modAccess (s : State) (id : Nat) (f : Access → Access) : State :=
  { s with inflight := s.inflight.map fun a => if a.id = id then f a else a }

def State.access? (s : State) (id : Nat) : Option Access := s.inflight.find? fun a => a.id = id

def Access.lane? (a : Access) (l : Nat) : Option LaneAcc := a.lanes.find? fun x => x.lane = l

def Access.setLane (a : Access) (l : Nat) (st : LaneStatus) : Access :=
  { a with lanes := a.lanes.map fun x => if x.lane = l then { x with st := st } else x }

/-- Parked lanes are replayed in the order they were parked (R136, R139). -/
def releaseParked (s : State) (l : List (Nat × Nat)) : State :=
  let s := l.foldl (fun s p => s.modAccess p.1 fun a => a.setLane p.2 .waiting) s
  { s with mem := { s.mem with replayQ := s.mem.replayQ ++ l } }

/-- Accesses that wait for a free entry of the coordinators of some pages are tried again (R135). -/
def releaseFull (s : State) (pages : List Nat) : State :=
  let here (p : Nat × Nat) : Bool :=
    match s.access? p.1 with
    | some a => match a.lane? p.2 with | some l => pages.any fun n => coordOf n = coordOf (pageOf l.ia) | none => true
    | none => true
  let w := s.mem.faultWait.filter here
  releaseParked { s with mem := { s.mem with faultWait := s.mem.faultWait.filter fun p => !here p } } w

/-- Fault entries that close release their parked accesses (R136), and those that waited for a free entry. -/
def closeFaults (s : State) (p : FaultEntry → Bool) : State :=
  let closing := s.mem.faults.filter p
  let s := { s with mem := { s.mem with faults := s.mem.faults.filter fun e => !p e } }
  let s := releaseParked s (closing.flatMap fun e => e.parked)
  releaseFull s (closing.map (·.page))

/-- The parked scalar accesses of some units are no more: their instructions have not acted, and are issued again (R317). -/
def dropProbes (s : State) (p : UnitRef → Bool) : State :=
  let gone (a : Access) : Bool := a.kind = .probe && p a.u
  let ids := (s.inflight.filter gone).map (·.id)
  let keep (x : Nat × Nat) : Bool := x.1 ∉ ids
  { s with
    inflight := s.inflight.filter fun a => !gone a
    mem := { s.mem with
      faults := s.mem.faults.map fun e => { e with parked := e.parked.filter keep }
      faultWait := s.mem.faultWait.filter keep, movePark := s.mem.movePark.filter keep, replayQ := s.mem.replayQ.filter keep } }

/-- Accesses of a team that are parked at a translation unit are withdrawn (R93 step 2, R123). -/
def withdrawParked (s : State) (team : Nat) : State :=
  let s := dropProbes s fun r => r.team = team
  let gone (p : Nat × Nat) : Bool := match s.access? p.1 with | some a => a.u.team = team | none => true
  let fs := s.mem.faults.map fun (e : FaultEntry) => { e with parked := e.parked.filter (fun p => !gone p) }
  let fw := s.mem.faultWait.filter fun p => !gone p
  let mp := s.mem.movePark.filter fun p => !gone p
  let s' : State := { s with mem := { s.mem with faults := fs, faultWait := fw, movePark := mp } }
  let parked (a : Access) : Bool := a.u.team = team && a.lanes.any fun l => l.st = .parked
  -- a lane of an HSCAT has an entry for each step
  let lost (a : Access) (l : LaneAcc) : Bool := a.lanes.any fun x => x.st = .parked && x.lane % 64 = l.lane % 64
  let left := s'.inflight.map fun a => (parked a, if parked a then { a with lanes := a.lanes.filter (fun l => !lost a l) } else a)
  { s' with inflight := (left.filter (fun p => !(p.1 && p.2.lanes.isEmpty))).map (·.2) }

/-! ## Fatal causes (R123) -/

/-- The fault record of a fatal cause: only the first since the last read is kept (R46). -/
def recordFatal (s : State) (r : UnitRef) (cause : Byte) (tpc f : W64) : State :=
  match s.team? r.team, s.unit? r with
  | some t, some u =>
    s.modContext t.ctx fun x =>
      if bits x.fault 0 8 ≠ 0 then x
      else
        let v := setBits x.fault 0 8 cause.toNat
        let v := setBit v 8 r.grp.isNone
        let v := setBits v 9 7 (r.grp.getD 0)
        let v := setBits v 16 7 u.core
        let v := setBits v 24 40 t.index
        let v := setBits v 64 64 tpc.toNat
        { x with fault := setBits v 128 64 f.toNat }
  | _, _ => s

/-- Every unit of a team stops at once (R123); its accesses parked at translation units are withdrawn. -/
def endTeam (s : State) (team : Nat) : State :=
  match s.team? team with
  | none => s
  | some t =>
    let refs := t.refs team
    let s := refs.foldl (fun s r => allSlots.foldl (fun s k => freePort s r k) s) s
    let s := s.modTeam team fun t =>
      { t with life := .ended, caller := { t.caller with exited := true, handler := none }
               groups := t.groups.map fun u => { u with exited := true, handler := none } }
    let s := withdrawParked s team
    closeFaults s fun e => e.assignee.team = team

/-- A fatal cause (R123): recorded, the team ends, and its launch reports FAULT. -/
def fatal (s : State) (r : UnitRef) (cause : Byte) (tpc f : W64) : State :=
  match s.team? r.team with
  | none => s
  | some t =>
    let s := recordFatal s r cause tpc f
    let s := s.modTeam r.team fun t => { t with fatal := true }
    let s := s.modLaunch t.launch fun l => { l with status := if l.status = 0 then 4 else l.status }
    endTeam s r.team

/-! ## What a load finds before its home (R30, R166) -/

/-- A lane that has not been performed. -/
def LaneAcc.open (l : LaneAcc) : Bool := l.st = .waiting || l.st = .parked

/-- A RED of the core to the sector is still to be performed, so a load of that sector waits (R166). -/
def redAhead (s : State) (core ia id : Nat) : Bool :=
  s.inflight.any fun a => a.core = core && decide (a.id < id) && (match a.kind with | .red _ _ => true | _ => false) &&
    a.lanes.any fun x => x.open && decide (x.ia / 32 = ia / 32)

/-- Whether a load of the bytes meets uncorrectable data (R30): in a dirty line of the core, or at the home where the core's own
line does not give the byte; a clean line with uncorrectable data gives none. -/
def loadBad (s : State) (core ia n : Nat) : Bool :=
  (List.range n).any fun i =>
    let a := ia + i
    let marked := (core, lineOf a) ∈ s.pkg.badLines
    match s.l1? core (lineOf a) with
    | some l => if marked && l.dirty ≠ 0 then true else (marked || !l1Has l (a % 128)) && homeBad s a
    | none => homeBad s a

/-- The same of a read that goes to the home (R161): only the core's own dirty bytes, and a line that it owns, stand before the home's. -/
def acquireBad (s : State) (core ia n : Nat) : Bool :=
  (List.range n).any fun i =>
    let a := ia + i
    match s.l1? core (lineOf a) with
    | some l => if l.dirty.getLsbD (a % 128) || l.owned then loadBad s core a 1 else homeBad s a
    | none => homeBad s a

/-! ## Taking an exception (R119, R120) -/

/-- What reading the handler table gives (R120). -/
inductive HtabRead where
  | entry (pc : Nat)
  | delay
  | zero
  | refused (addr : Nat)
  deriving DecidableEq, Repr, Inhabited

/-- The HTAB entry of a cause (R64, R120): group cause c at entry c, caller cause at 0x80 + c, read as an 8-byte load of
the unit. -/
def readHtab (s : State) (r : UnitRef) (cause : Byte) : HtabRead × State :=
  match s.team? r.team, s.unit? r with
  | some t, some u =>
    match s.launch? t.launch with
    | none => (.zero, s)
    | some l =>
      if l.htab = 0 then (.zero, s)
      else
        let a := l.htab + 8 * (cause.toNat + if r.grp.isNone then 0x80 else 0)
        match translate t.wins (s.coreSecure u.core) .read a 8 with
        | .error _ => (.refused a, s)
        | .ok ia =>
          match verdict s (s.coreSecure u.core) false ia with
          | .moving => (.delay, s)
          | .refuse _ _ => (.refused a, noteInvalid s ia)
          | .ok =>
            if redAhead s u.core ia s.nextId then (.delay, s)
            else if loadBad s u.core ia 8 then (.refused a, s)
            else
              let (bs, s) := coreRead s u.core ia 8 0
              let v := natOf bs
              (if v = 0 then .zero else .entry v, s)
  | _, _ => (.zero, s)

/-- TINFO at an entry (R337). -/
def tinfoOf (caller : Bool) (p : PendTrap) : W64 :=
  p.info ||| BitVec.ofNat 64 (p.cause.toNat + (if caller then 3 else p.level) * 256)

/-- What was to be issued again is issued again after the handler (R122), but for the instruction that took the trap, which is the
handler's to return to. -/
def UnitState.setAside (u : UnitState) (trapped : Replay) : UnitState :=
  let same (o : Replay) : Bool := o.instr = trapped.instr && o.pc = trapped.pc && o.idx = trapped.idx && o.slot = trapped.slot && o.acc = trapped.acc
  { u with override := none
           replays := ((u.override.filter fun o => !same o).toList ++ u.replays).map fun r => { r with restored := false } }

/-- Entry to a handler (R120, R335): the saved registers are written, X becomes the handler's mask, and the unit
continues at `pc` in handler mode. X of a cause of a clause's header is the union of the open entries (DEDUCED, log 6). -/
def enterHandler (s : State) (r : UnitRef) (slot : Nat) (p : PendTrap) (pc : Nat) : State :=
  let s := dropProbes (freePort s r slot) fun q => q = r
  s.modUnit r fun u =>
    let x := if r.grp.isNone then 1
      else if p.level = 0 then p.f
      else if p.level = 1 && p.rep.instr.isSome then u.xOf slot
      else if p.level = 1 && p.cause = 3 && p.f ≠ 0 then p.f          -- the lanes CALLI refused (R116)
      else u.union
    let th := u.thread slot
    let u := (u.modThread slot fun t => { t with run := false }).dropAhead.setAside p.rep
    { u with
      handler := some { th := Thread.at pc th.lastIssue, x := x, trap := p, slot := slot }
      region := { u.region with bmask := if p.level = 1 && p.cause = 3 && p.rep.instr.isNone && p.f ≠ 0 then 0 else u.region.bmask }
      net := if p.cause = 0x12 then none else u.net          -- a failure that it reports is cleared (R52)
      tinfo := tinfoOf r.grp.isNone p
      taddr := p.addr
      tpc := tpcOf p.rep.pc p.rep.idx
      tmask := if r.grp.isNone then 0 else if p.level = 0 then p.f else x }

/-- Take a cause now (R120): the one exception entry of the model. In handler mode it is fatal; a table entry of 0 or
one that cannot be read is fatal; a table entry on a moving page delays delivery. -/
def takeTrap (s : State) (r : UnitRef) (slot : Nat) (p : PendTrap) : State :=
  match s.unit? r with
  | none => s
  | some u =>
    let tpc := tpcOf p.rep.pc p.rep.idx
    if u.exited then s.modUnit r fun u => { u with override := none }      -- it takes no trap (R323)
    else if u.handler.isSome then fatal s r p.cause tpc p.f
    else
      match readHtab s r p.cause with
      | (.entry pc, s) => enterHandler s r slot p pc
      | (.zero, s) => fatal s r p.cause tpc p.f
      | (.refused a, s) =>
        let c := match s.team? r.team with | some t => t.ctx | none => 0
        fatal ((s.noteBit c 199).noteAddr c a) r p.cause tpc p.f
      | (.delay, s) =>
        let s := freePort s r slot
        s.modUnit r fun u =>
          let u := u.modThread slot fun t => { t with run := false, park := if t.park = .none then .trap else t.park }
          { u with pending := p :: u.pending }

/-- A cause raised by the executing instruction before it acts (R119 group level, or a caller trap). -/
def raiseHere (c : Ctx) (cause : Byte) (info : W64 := 0) (addr : W64 := 0) (s : State) : State :=
  takeTrap s c.u c.slot
    { cause := cause, level := if c.caller then 3 else 1, f := if c.caller then 0 else c.em, addr := addr, info := info
      rep := if c.again then c.rep else { c.rep with acc := none } }

/-- The lowest lane of a mask; 64 for an empty one. -/
def lowLane (m : W64) : Nat := (lanesOf 64 m).headD 64

/-- A lane-level fault (R121): kept until the next clause boundary. One that arises in handler mode is fatal (R120, R135). An
instruction that the handler issued, and whose fault arises after its TRET, is the unit's own from then on. The caller takes it
as a caller trap at the instruction. -/
def addPending (s : State) (r : UnitRef) (p : PendTrap) : State :=
  match s.unit? r with
  | none => s
  | some u =>
    -- a lane that has exited takes no trap: what its access was to return is discarded (R323)
    let f := if r.grp.isSome && p.level = 0 then p.f &&& u.live else p.f
    if u.exited || (p.f ≠ 0 && f = 0) then s
    else if u.handler.isSome then fatal s r p.cause (tpcOf p.rep.pc p.rep.idx) f
    else
      let p : PendTrap := { p with f := f }
      let p : PendTrap := if 5 ≤ p.rep.slot then { p with rep := { p.rep with slot := 0 } } else p
      -- lanes of one instruction that fail with one cause are one trap (R129)
      let same (q : PendTrap) : Bool := q.cause = p.cause && q.rep.acc = p.rep.acc && q.rep.acc.isSome && q.level = p.level
      if u.pending.any same then
        let join (q : PendTrap) : PendTrap :=
          { q with f := q.f ||| p.f, addr := if lowLane p.f < lowLane q.f then p.addr else q.addr
                   rep := { q.rep with em := q.rep.em ||| p.f, steps := p.rep.steps.foldl (fun t e => tput t e.1 e.2) q.rep.steps } }
        s.modUnit r fun u => { u with pending := lmodFirst same join u.pending }
      else s.modUnit r fun u => { u with pending := u.pending ++ [{ p with rep := { p.rep with em := p.f } }] }

/-- A team-level cause (R119, R120): it waits at every group and the caller of the team. In handler mode a cause other
than 0x0D is fatal. -/
def raiseTeam (s : State) (team : Nat) (cause : Byte) (info : W64) : State :=
  match s.team? team with
  | none => s
  | some t =>
    (t.refs team).foldl (fun s r =>
      match s.unit? r with
      | none => s
      | some u =>
        let th := u.thread (if u.handler.isSome then 5 else 0)
        let rep : Replay := { instr := none, pc := th.pc, idx := 1, slot := 0, em := 0, acc := none, dst := none, regs := 0 }
        if u.exited then s
        else if u.handler.isSome && cause ≠ 0x0D then fatal s r cause (tpcOf th.pc (max 1 th.idx)) 0
        else s.modUnit r fun u => { u with pending := u.pending ++ [{ cause, level := 2, f := 0, addr := 0, info, rep }] }) s

/-! ## Returning from an exception (R122) -/

/-- Destinations of an access are marked full when nothing of it is outstanding any more (R121, R122). -/
def settleFull (s : State) (r : UnitRef) (acc : Option Nat) (dst : Option Nat) (regs : Nat) : State :=
  match dst, s.unit? r with
  | some d, some u =>
    let open1 := s.inflight.any fun a => a.u = r && a.rep.acc = acc
    let open2 := u.pending.any fun p => p.rep.acc = acc
    let open3 := u.replays.any fun p => p.acc = acc
    let open4 := match u.override with | some p => p.acc = acc | none => false
    let open5 := match u.handler with | some h => h.trap.rep.acc = acc | none => false
    if acc.isSome && (open1 || open2 || open3 || open4 || open5) then s else s.modUnit r fun u => u.mark d regs false
  | _, _ => s

/-- A CFORM that is not issued again leaves its group's registers full (R225); its group is kept with it. -/
def settleForm (s : State) (r : UnitRef) (rep : Replay) : State :=
  match rep.instr with
  | some (.cform _) =>
    s.modUnit ⟨r.team, some (tget 0 rep.steps 0)⟩ fun u => ((u.mark 0 3 false).mark 0x101 1 false).mark 0x102 1 false
  | _ => s

/-- The split table without a region: EMASK, RESID and BMASK are 0. -/
def Region.cleared (g : Region) : Region :=
  { g with isOpen := false, byHandler := false, emask := 0, resid := 0, bmask := 0, subs := [] }

/-- The final rejoin of a region (R115, R116): X is EMASK, and the stream continues at the join. Refused lanes of a CALLI then
take cause 0x03. -/
def rejoin (s : State) (r : UnitRef) : State :=
  match s.unit? r with
  | none => s
  | some u =>
    let g := u.region
    let u1 : UnitState :=
      if g.byHandler then { u with handler := u.handler.map fun h => { h with x := g.emask, th := Thread.at g.join h.th.lastIssue } }
      else { u with x := g.emask, main := Thread.at g.join u.main.lastIssue }
    let s := s.setUnit r { u1 with region := { g.cleared with bmask := g.bmask } }
    if g.kind && g.bmask ≠ 0 then
      takeTrap s r (if g.byHandler then 5 else 0)
        { cause := 0x03, level := 1, f := g.bmask, addr := 0, info := 0
          rep := { instr := none, pc := g.join, idx := 1, slot := if g.byHandler then 5 else 0, em := g.emask, acc := none, dst := none, regs := 0 } }
    else s

/-- Every valid entry has arrived (R115): the residue runs the SPLIT or CALLI again, with X = RESID, or the unit rejoins. -/
def finishRegion (s : State) (r : UnitRef) : State :=
  match s.unit? r with
  | none => s
  | some u =>
    let g := u.region
    if !g.isOpen || g.subs.any (fun e => !e.arr) then s
    else if g.resid = 0 then rejoin s r
    else
      let slot := if g.byHandler then 5 else 0
      let th := u.thread slot
      let i := decodeInstr th.header.cls (th.words.getD th.idx 0) none
      let u1 : UnitState :=
        if g.byHandler then { u with handler := u.handler.map fun h => { h with x := g.resid } } else { u with x := g.resid }
      s.setUnit r { u1 with
        region := { g with isOpen := false, subs := [] }
        override := some { instr := some i, pc := th.pc, idx := th.idx, slot := slot, em := g.resid, acc := none, dst := none, regs := 0 } }

/-- A sub-group arrives at the join (R115). -/
def arrive (s : State) (r : UnitRef) (slot : Nat) : State :=
  let s := freePort s r slot
  let arrived (l : List SubGroup) : List SubGroup :=
    match l[subIdx slot]? with
    | some g => l.set (subIdx slot) { g with arr := true, th := { g.th with run := false } }
    | none => l
  finishRegion (s.modUnit r fun u => { u with region := { u.region with subs := arrived u.region.subs } }) r

/-- An instruction that is not issued again counts as performed: a SPLIT or CALLI of the residue rejoins (R115), a CALLI goes on at
its return point, and another instruction at the next; the words after an unassigned opcode never act (R297). DEDUCED (log 73). -/
def passOver (s : State) (r : UnitRef) (slot : Nat) (rep : Replay) : State :=
  match s.unit? r with
  | none => s
  | some u =>
    let residue := !u.region.isOpen && !u.region.byHandler && u.region.emask ≠ 0 && slot = 0 &&
      (match rep.instr with | some (.split _) | some (.calli _) => true | _ => false)
    if residue then rejoin (s.modUnit r fun u => { u with override := none }) r
    else if u.override.isSome && (match rep.instr with | some (.calli _) => false | _ => true) then
      s.modUnit r fun u => { u with override := none }
    else
      s.modUnit r fun u => { u with override := none }.modThread slot fun th =>
        let last := match rep.instr with | some (.unassignedOpcode _ _) => true | _ => false
        let n := if takesLiteral th.header.cls (th.words.getD th.idx 0) then 2 else 1
        if !last && th.idx + n < th.words.length then { th with idx := th.idx + n, park := .none }
        else Thread.at th.nextPc th.lastIssue

/-- An instruction that a trap stopped after its issue is issued again, in issue order among those that are to be (R121, R122). -/
def UnitState.putBack (u : UnitState) (rep : Replay) : UnitState :=
  let earlier (o : Replay) : Bool := match o.acc, rep.acc with | some a, some b => decide (a < b) | _, _ => false
  if u.replays.any earlier then { u with replays := insertReplay rep u.replays } else { u with override := some rep }

/-- The end of handler mode (R122), with the operand P. A lane-level trap issues the instruction again for F ∧ P; a
group- or team-level trap resumes at the trapped instruction, or after it when SKIP is set or the cause is 0x14. The
unit's fault entries close (R136), and a region that the handler opened and left is gone (log 73). -/
def trapReturn (s : State) (r : UnitRef) (p : W64) : State :=
  match s.unit? r with
  | none => s
  | some u =>
    match u.handler with
    | none => s
    | some h =>
      let t := h.trap
      let skip := u.tinfo.getLsbD 15
      let s := s.modUnit r fun u =>
        { u with handler := none, region := if u.region.byHandler then u.region.cleared else u.region
                 override := u.override.filter fun o => o.slot < 5 }
      let s := closeFaults s fun e => e.assignee = r
      if (r.grp.isNone || t.level = 1) && t.rep.acc.isSome then
        -- an instruction whose cause came after its issue (R227, R183)
        if skip then settleForm (settleFull s r t.rep.acc t.rep.dst t.rep.regs) r t.rep
        else s.modUnit r fun u => u.putBack t.rep
      else if t.level = 0 && r.grp.isSome then
        let em := t.f &&& p
        -- CALLI has not acted for any lane (R321)
        let calli := match t.rep.instr with | some (.calli _) => true | _ => false
        let em := if calli then em ||| (t.rep.em &&& ~~~t.f) else em
        if em = 0 && calli then passOver s r h.slot t.rep
        else if em = 0 then settleFull s r t.rep.acc t.rep.dst t.rep.regs
        else if t.rep.instr.isNone then s          -- a clause fetch is made again by the stream itself
        else s.modUnit r fun u => { u with override := some { t.rep with em := em } }
      else if (skip || t.cause = 0x14) && t.rep.instr.isSome then
        -- an MWAIT that is skipped leaves the operation stopped (R215)
        let mwait := match t.rep.instr with | some (.mwait _) => true | _ => false
        let s := if mwait then
            s.modCore u.core fun k => { k with matq := k.matq.map fun m => if m.team = r.team then { m with raised := false } else m }
          else s
        passOver s r h.slot t.rep
      else s

end Sys2Proof.Machine
end

