-- ==== Sys2Proof/Machine/Operands.lean ====
section
/-! DEFINITION. Operands: register specifiers and special operands (R284 to R287), operand types (R307), and the issue
steps every instruction passes before its own effect (R283, R288, R298). -/

namespace Sys2Proof.Machine

/-! ## Specifiers (R284, R287) -/

/-- Which specifiers a field accepts. -/
inductive OpClass where
  | vec                          -- a vector register
  | reg                          -- a scalar or caller register
  | sca                          -- a scalar or caller register, or a special
  | any                          -- any of these
  deriving DecidableEq, Repr, Inhabited

/-- How a field uses its registers (R117, R288). -/
inductive Role where
  | src (fe : Bool)              -- read, with its FE bit
  | imp                          -- read with the effect of FE 0: D as a source, MASK, implicit registers
  | dst                          -- written
  | both                         -- read through D and written
  deriving DecidableEq, Repr, Inhabited

/-- One field's registers: a specifier, how many vector registers it spans, what it accepts and how it is used. -/
structure Use where
  spec : BitVec 9
  n : Nat
  cls : OpClass
  role : Role
  deriving DecidableEq, Repr, Inhabited

def Role.writes : Role → Bool
  | .dst | .both => true
  | _ => false

/-- Step 1 of R283 for one field: its range in the stream, its alignment, and no write to a special (R284 to R287). -/
def Use.legal (caller : Bool) (u : Use) : Bool :=
  let v := u.spec.toNat
  if v < 0x100 then
    !caller && (u.cls = .vec || u.cls = .any) && (u.n ≠ 2 || v % 2 = 0) && (u.n ≠ 4 || v % 4 = 0) && decide (v + u.n ≤ 256)
  else if v < 0x140 then u.cls ≠ .vec
  else if v < 0x180 then !caller && u.cls ≠ .vec
  else if v < 0x18E || 0x1C0 ≤ v then (u.cls = .sca || u.cls = .any) && !u.role.writes
  else false

/-- Step 2 of R283 for one field: every register it names lies within the allocation (R118). -/
def Use.allocated (caller : Bool) (b : Budget) (u : Use) : Bool :=
  let v := u.spec.toNat
  if v < 0x100 then decide (v + u.n ≤ b.vregs)
  else if v < 0x180 then decide (v - 0x100 < if caller then b.cregs else b.sregs)
  else true

/-! ## What an entry requires of a word -/

/-- The requirements of an entry (R282, R283, R298): its fields' own conditions, the streams it may issue in, handler
mode, its registers, its MASK and its scope. -/
structure Enc where
  ok : Bool
  grp : Bool := true
  cal : Bool := true
  hdl : Bool := false
  uses : List Use
  mask : BitVec 7
  scope : Option Nat := none
  len : Nat := 1
  minW : Nat := 1                -- the narrowest group the entry accepts (R358, R361)
  whole : Bool := false          -- in handler mode it acts whatever its mask (R323)
  deriving DecidableEq, Repr, Inhabited

/-- Outcome of the issue steps of R283 before the checks of the entry. -/
inductive Gate where
  | illegal                      -- cause 0x01
  | budget                       -- cause 0x03
  | skip                         -- EM is zero (R112)
  | wait                         -- an empty register (R117, R118)
  | empty                        -- cause 0x04
  | scope                        -- cause 0x0F
  | bad                          -- a source register holds uncorrectable data (R30)
  | go
  deriving DecidableEq, Repr, Inhabited

/-- Step 1 of R283. -/
def encLegal (c : Ctx) (e : Enc) : Bool :=
  e.ok && (if c.caller then e.cal && e.mask = 0 else e.grp) && (!e.hdl || c.inHandler) && decide (e.minW ≤ c.w) && e.uses.all (·.legal c.caller)

/-- The unit as an instruction that is issued again finds it: its own destinations are empty since its issue, and a source among them
is as readable as it was then (R122, R372). -/
def gateUnit (c : Ctx) : UnitState :=
  match c.rep.dst with
  | some d => if c.again then c.us.mark d c.rep.regs false else c.us
  | none => c.us

/-- The first field of a list that is empty decides: a wait, or cause 0x04 (R288). A replayed instruction does not wait
for its own destinations, which are empty since its issue (R122). -/
def emptyGate (us : UnitState) (again : Bool) : List Use → Gate
  | [] => .go
  | u :: l =>
    if us.isEmpty u.spec.toNat u.n then
      match u.role with
      | .src true => .empty
      | .src false | .imp => .wait
      | .dst | .both => if again then emptyGate us again l else .wait
    else emptyGate us again l

def Role.reads : Role → Bool
  | .dst => false
  | _ => true

/-- Lanes of EM for which a source register holds uncorrectable data (R30): a scalar register's concern every lane. -/
def badLanes (c : Ctx) (e : Enc) : W64 :=
  let named (b : Nat × Nat) : Bool :=
    (e.mask ≠ 0 && decide (b.1 = 0x100 + e.mask.toNat)) ||
    e.uses.any fun u => u.role.reads && decide (u.spec.toNat ≤ b.1) && decide (b.1 < u.spec.toNat + if u.spec.toNat < 0x100 then u.n else 1)
  (c.us.badRegs.filter named).foldl (fun m b => m ||| if b.1 < 0x100 then c.em &&& (1#64 <<< b.2) else c.em) 0

/-- The steps of R283 up to the checks of the entry. -/
def gate (c : Ctx) (e : Enc) : Gate :=
  if !encLegal c e then .illegal
  else if !(e.uses.all (·.allocated c.caller c.launch.budget) &&
            (e.mask = 0 || decide (e.mask.toNat < c.launch.budget.sregs))) then .budget
  else if e.mask ≠ 0 && !c.again && c.us.sEmpty.getLsbD e.mask.toNat then .wait
  else if c.em = 0 && !(e.whole && c.inHandler) then .skip
  else
    match emptyGate (gateUnit c) c.again e.uses with
    | .go =>
      match e.scope with
      | some id => if !scopeValid c.team.wins id then .scope else if badLanes c e = 0 then .go else .bad
      | none => if badLanes c e = 0 then .go else .bad
    | g => g

/-- The state in which an entry acts: where it reads $cycles, a free number of cycles has passed (R285; log 20). -/
def entryState (c : Ctx) (e : Enc) (s : State) : State :=
  if e.uses.any (fun u => u.spec = 0x18B) then s.passCycles c.core else s

/-- Long-latency producers (R117). -/
def longLatency : Instr → Bool
  | .ld _ | .lds _ | .ldc _ | .lda _ | .ldk _ | .sld _ | .sldk _ | .tex _ | .tfetch _ | .trace _ | .hgath _ | .atom _ | .satom _
  | .qpop _ | .pcnt _ | .cform _ | .nfetchRd _ | .nfetchAdd _ | .nfetchCas _ => true
  | _ => false

/-- The destinations of a long-latency producer, which stay empty until its last lane has written back (R117, R121). -/
def lateDst (r : Replay) (e : Enc) : Option (Nat × Nat) :=
  match r.instr with
  | some i => if longLatency i then (e.uses.find? fun u => u.role.writes).map fun u => (u.spec.toNat, u.n) else none
  | none => none

/-- The instruction has been performed, not parked or trapped: its stream has moved on, or its reissue is over. -/
def hasActed (c : Ctx) (s : State) : Bool :=
  match s.unit? c.u with
  | none => false
  | some u =>
    if c.again then u.override.isNone && u.handler.isSome = c.us.handler.isSome
    else
      let a := c.us.thread c.slot
      let b := u.thread c.slot
      a.pc ≠ b.pc || a.idx ≠ b.idx || a.words ≠ b.words

/-- A source register's data are uncorrectable (R30, R121): cause 0x0A for the lanes concerned, in issue order among the unit's faults,
while the others perform the instruction; a caller trap in the caller stream. -/
def issueBad (c : Ctx) (e : Enc) (s : State) (body : Ctx → State → State) : State :=
  let f := badLanes c e
  if c.caller then raiseHere c 0x0A 0 0 s
  else
    let (id, s) := s.fresh
    let rep : Replay := { c.rep with acc := some (c.rep.acc.getD id) }
    let late : Replay := match lateDst rep e with | some d => { rep with dst := some d.1, regs := d.2 } | none => rep
    let em := c.em &&& ~~~f
    let s := if em = 0 then advance c e.len s else body { c with em := em, rep := { rep with em := em } } (entryState c e s)
    if hasActed c s then addPending s c.u { cause := 0x0A, level := 0, f := f, addr := 0, info := 0, rep := late } else s

/-- What the issue steps of R283 make of an instruction whose entry does `body`. -/
def issueAct (c : Ctx) (e : Enc) (s : State) (body : Ctx → State → State) : State :=
  match gate c e with
  | .illegal => raiseHere c 0x01 0 0 s
  | .budget => raiseHere c 0x03 0 0 s
  | .skip => advance c e.len s
  | .wait => parkAt c .retry s
  | .empty => raiseHere c 0x04 0 0 s
  | .scope => raiseHere c 0x0F 0 0 s
  | .bad => issueBad c e s body
  | .go => body c (entryState c e s)

/-- Issue of an instruction (R283): the issue steps, and then `body`, the checks and the effect of its entry. -/
def issue (i : Instr) (e : Enc) (s : State) (body : Ctx → State → State) : Host.Outcome State Fault Refusal :=
  match mkCtx s i e.mask with
  | none => .fault .noUnit
  | some c => .next (issueAct c e s body)

/-! ## Special operands (R105, R285, R286) -/

/-- The 64-bit value of a special operand for a lane. -/
def special (s : State) (c : Ctx) (spec : BitVec 9) (lane : Nat) : W64 :=
  let v := spec.toNat
  if 0x1C0 ≤ v then BitVec.ofNat 64 (v - 0x1C0)
  else
    match v with
    | 0x181 => 1
    | 0x182 => BitVec.ofNat 64 lane
    | 0x183 => BitVec.ofNat 64 (c.u.grp.getD 0)
    | 0x184 => BitVec.ofNat 64 c.team.index
    | 0x185 => BitVec.ofNat 64 c.core
    | 0x186 => BitVec.ofNat 64 (c.core / 32)
    | 0x187 => BitVec.ofNat 64 (c.team.index / c.launch.setsz)
    | 0x188 => BitVec.ofNat 64 (c.team.index % c.launch.setsz)
    | 0x189 => BitVec.ofNat 64 c.launch.count
    | 0x18A => BitVec.ofNat 64 c.launch.width
    | 0x18B => (s.core c.core).cycles
    | 0x18C => BitVec.ofNat 64 c.team.ctx
    | 0x18D => if c.secure then 1 else 0
    | _ => 0

/-- A scalar or caller register, or a special, read whole; $lane reads 0 (R286, R313). -/
def sval (s : State) (c : Ctx) (spec : BitVec 9) : W64 :=
  let v := spec.toNat
  if 0x100 ≤ v ∧ v < 0x180 then c.us.sreg (v - 0x100) else special s c spec 0

/-- As `sval`, with the literal that may stand for the field (R281). -/
def svalLit (s : State) (c : Ctx) (spec : BitVec 9) (lit : Option W64) : W64 := lit.getD (sval s c spec)

/-! ## Operand types (R307) -/

/-- An operand type: width of an element, elements per register, signedness of an integer, element format of a float. -/
structure OpTy where
  w : Nat
  els : Nat
  sgn : Bool
  fmt : Option Fmt
  deriving DecidableEq, Repr, Inhabited

/-- TYPE codes (R307). -/
def tyOf (code : Nat) : Option OpTy :=
  match code with
  | 0x0 => some ⟨32, 1, true, none⟩
  | 0x1 => some ⟨32, 1, false, none⟩
  | 0x2 => some ⟨64, 1, true, none⟩
  | 0x3 => some ⟨64, 1, false, none⟩
  | 0x4 => some ⟨16, 1, true, none⟩
  | 0x5 => some ⟨16, 1, false, none⟩
  | 0x6 => some ⟨8, 1, true, none⟩
  | 0x7 => some ⟨8, 1, false, none⟩
  | 0x8 => some ⟨32, 1, true, some .f32⟩
  | 0x9 => some ⟨16, 1, true, some .f16⟩
  | 0xA => some ⟨16, 1, true, some .bf16⟩
  | 0xB => some ⟨16, 2, true, some .f16⟩
  | 0xC => some ⟨16, 2, true, some .bf16⟩
  | _ => none

/-- Bits of an operand of the type. -/
def OpTy.bits (t : OpTy) : Nat := t.w * t.els

/-- Registers of a vector operand of the type (R287). -/
def OpTy.regs (t : OpTy) : Nat := if t.w = 64 then 2 else 1

/-- The code that a special gives as a floating-point operand: +0, 1.0 or n, in each element; any other special its low
bits (R286). -/
def specialFloat (s : State) (c : Ctx) (spec : BitVec 9) (lane : Nat) (f : Fmt) (els : Nat) : Nat :=
  let v := spec.toNat
  let k := if v = 0x180 then some 0 else if v = 0x181 then some 1 else if 0x1C0 ≤ v then some (v - 0x1C0) else none
  match k with
  | some n =>
    let e := roundTo f (Num.ofInt n) .rne
    if els = 2 then e + e * 2 ^ 16 else e
  | none => (special s c spec lane).toNat % 2 ^ (f.width * els)

/-- The value of a field for a lane, as a code of the type (R286, R287). -/
def opnd (s : State) (c : Ctx) (spec : BitVec 9) (t : OpTy) (lane : Nat) : Nat :=
  let v := spec.toNat
  if v < 0x100 then
    if t.w = 64 then (c.us.vreg v lane).toNat + (c.us.vreg (v + 1) lane).toNat * 2 ^ 32
    else (c.us.vreg v lane).toNat % 2 ^ t.bits
  else if v < 0x180 then (c.us.sreg (v - 0x100)).toNat % 2 ^ t.bits
  else
    match t.fmt with
    | some f => specialFloat s c spec lane f t.els
    | none => (special s c spec lane).toNat % 2 ^ t.bits

/-- As `opnd`, with the literal that may stand for the field (R281). -/
def opndLit (s : State) (c : Ctx) (spec : BitVec 9) (lit : Option W64) (t : OpTy) (lane : Nat) : Nat :=
  match lit with
  | some v => v.toNat % 2 ^ t.bits
  | none => opnd s c spec t lane

/-- Consecutive words of a vector source, or a special's low bits, for a lane (R287, R370). -/
def dataWords (s : State) (c : Ctx) (spec : BitVec 9) (n lane : Nat) : List W32 :=
  let v := spec.toNat
  if v < 0x100 then (List.range n).map fun k => c.us.vreg (v + k) lane
  else
    let x := if v < 0x180 then c.us.sreg (v - 0x100) else special s c spec lane
    words32 n x.toNat

/-- An integer code of a type as the integer it stands for (R175). -/
def OpTy.int (t : OpTy) (v : Nat) : Int := if t.sgn then signed t.w v else v

/-! ## Writing results -/

/-- A result of one word per lane of EM (R111). -/
def writeV (c : Ctx) (d : BitVec 9) (f : Nat → W32) (s : State) : State :=
  s.modUnit c.u fun u => c.lanes.foldl (fun u l => u.setVreg d.toNat l (f l)) u

/-- A result of several consecutive words per lane of EM (R287). -/
def writeVs (c : Ctx) (d : BitVec 9) (f : Nat → List W32) (s : State) : State :=
  s.modUnit c.u fun u => c.lanes.foldl (fun u l => u.setVwords d.toNat l (f l)) u

/-- A scalar or caller register written at once. -/
def writeS (c : Ctx) (d : BitVec 9) (v : W64) (s : State) : State :=
  s.modUnit c.u fun u => u.setSreg (d.toNat - 0x100) v

/-- A per-lane mask result written whole, or one value per lane: see the entries of R349, R350. -/
def writeMask (c : Ctx) (d : BitVec 9) (f : Nat → Bool) (s : State) : State :=
  if d.toNat < 0x100 then writeV c d (fun l => if f l then 1 else 0) s
  else writeS c d (maskOf (c.lanes.filter f)) s

/-! ## Shorthands for fields -/

def Use.dst (spec : BitVec 9) (n : Nat := 1) (cls : OpClass := .vec) : Use := ⟨spec, n, cls, .dst⟩
def Use.src (spec : BitVec 9) (fe : Bool) (n : Nat := 1) (cls : OpClass := .any) : Use := ⟨spec, n, cls, .src fe⟩
def Use.imp (spec : BitVec 9) (n : Nat := 1) (cls : OpClass := .any) : Use := ⟨spec, n, cls, .imp⟩

/-- B as a source, or the literal in its place with B and FEB zero (R281). -/
def useB (f : RForm) (n : Nat := 1) (cls : OpClass := .any) : List Use :=
  if f.lit.isSome then [] else [Use.src f.b f.feb n cls]

/-- The literal replaces B: B and FEB are then zero (R281). -/
def litOk (f : RForm) : Bool := f.lit.isNone || (f.b = 0 && !f.feb)

/-- The literal replaces IMM: IMM18 is then zero (R281). -/
def litOkI (f : IForm) : Bool := f.lit.isNone || f.imm = 0

/-- Words an instruction takes with its literal (R281). -/
def lenOf (lit : Option W64) : Nat := if lit.isSome then 2 else 1

/-- IMM18 sign-extended, or the literal (R277, R281). -/
def immS (f : IForm) : W64 := f.lit.getD (f.imm.signExtend 64)

/-- IMM18 zero-extended, or the literal (R277, R281). -/
def immZ (f : IForm) : W64 := f.lit.getD (f.imm.setWidth 64)

/-- TYPE, RM and SAT of the R form (R306). -/
def mType (m : BitVec 8) : Nat := bits m 0 4
def mRm (m : BitVec 8) : Nat := bits m 4 2
def mSat (m : BitVec 8) : Bool := m.getLsbD 6

end Sys2Proof.Machine
end

