-- ==== Sys2Proof/Machine/Stores.lean ====
section
/-! DEFINITION. The typed stores of a core (R146), the words that name their images (R207 to R210, R395, R397), and the
writes that no MOPF orders before a matrix operation (R169). -/

namespace Sys2Proof.Machine

/-! ## Operand and control words (R206 to R208, R395, R397) -/

/-- Elements of a slab by format code (R206); none where the code is no operand format. -/
def slabElems (fmt : Nat) : Option Nat :=
  if fmt = 0x0F then some 8
  else if fmt = 0x06 || fmt = 0x10 || (decide (0x20 ≤ fmt) && decide (fmt < 0x3C)) then some 4
  else if fmt = 0x09 || fmt = 0x0A then some 2
  else none

/-- Formats with a scale image (R208). -/
def scaledFmt (fmt : Nat) : Bool := fmt = 0x0F || fmt = 0x10

def owFmt (w : W64) : Nat := bits w 0 6
def owDir (w : W64) : Bool := w.getLsbD 6
def owAddr (w : W64) : Nat := bits w 9 48 * 512
def owOk (w : W64) : Bool := bits w 7 2 = 0 && bits w 57 7 = 0 && (slabElems (owFmt w)).isSome

def cwSlot (w : W64) : Nat := bits w 0 5
def cwKc (w : W64) : Nat := bits w 6 7
def cwK (w : W64) : Nat := 64 * cwKc w
def cwSca (w : W64) : Nat := bits w 13 11 * 128
def cwScb (w : W64) : Nat := bits w 24 11 * 128
def cwBmx (w : W64) : Nat := bits w 35 13 * 512

/-- Slabs of an image (R207). -/
def slabs (cw w : W64) : Nat := cwK cw / (slabElems (owFmt w)).getD 4

/-! ## The stores (R146) -/

/-- Bytes of store 0 (activation), 1 (weight) or 2 (scale). -/
def storeSize (k : Nat) : Nat := if k = 2 then 2 ^ 18 else 2 ^ 22

def Core.store (c : Core) (k : Nat) : Table Byte := if k = 0 then c.act else if k = 1 then c.weight else c.scale

def Core.setStore (c : Core) (k : Nat) (t : Table Byte) : Core :=
  if k = 0 then { c with act := t } else if k = 1 then { c with weight := t } else { c with scale := t }

def storeRead (s : State) (core k off n : Nat) : Bytes :=
  let t := (s.core core).store k
  (List.range n).map fun i => tget 0 t (off + i)

/-- Rows and columns of a product's result that a byte of a store bears on (R169). -/
def MatOp.taint (op : MatOp) (k off : Nat) : MatOp :=
  match op.kind with
  | .mma sparse cw aw bw _ =>
    let inA := !owDir aw && k = 0 && decide (owAddr aw ≤ off) && decide (off < owAddr aw + 512 * slabs cw aw)
    let inB := !owDir bw && k = 1 && decide (owAddr bw ≤ off) && decide (off < owAddr bw + 512 * slabs cw bw)
    let scA := scaledFmt (owFmt aw) && k = 2 && decide (cwSca cw ≤ off) && decide (off < cwSca cw + 4 * cwK cw)
    let scB := scaledFmt (owFmt bw) && k = 2 && decide (cwScb cw ≤ off) && decide (off < cwScb cw + 4 * cwK cw)
    let n := ceilDiv (slabs cw aw) 8
    let bm := sparse && !op.started && k = 0 && decide (cwBmx cw ≤ off) && decide (off < cwBmx cw + 512) &&
      decide ((off - cwBmx cw) % 256 < n)
    let r := if inA then setBit op.taintR ((off - owAddr aw) % 512 / 4) true else op.taintR
    let r := if scA then setBit r ((off - cwSca cw) % 128) true else r
    let c := if inB then setBit op.taintC ((off - owAddr bw) % 512 / 4) true else op.taintC
    let c := if scB then setBit c ((off - cwScb cw) % 128) true else c
    { op with taintR := if bm then BitVec.allOnes 128 else r, taintC := c }
  | _ => op

/-- Key of a store byte in the table of stamps. -/
def stampKey (k off : Nat) : Nat := 2 ^ 22 * k + off

/-- A word that is written whole holds correct data again (R30). -/
def repaired (l : List (Nat × Nat)) (k off n : Nat) : List (Nat × Nat) :=
  l.filter fun b => !(b.1 = k && decide (off ≤ 8 * b.2) && decide (8 * b.2 + 8 ≤ off + n))

/-- Whether bytes of a core's store, or of its scratchpad as store 3, have uncorrectable data (R30). -/
def wordsBad (s : State) (core k off n : Nat) : Bool :=
  (s.core core).badWords.any fun b => b.1 = k && decide (8 * b.2 < off + n) && decide (off < 8 * b.2 + 8)

/-! ## Happens-before among writes to the stores (R157, R169; log 74) -/

/-- The writes that happen before a point. -/
def State.known (s : State) (p : SyncPt) : List Nat :=
  match s.order.know.find? fun q => q.1 = p with
  | some q => q.2
  | none => []

/-- These writes happen before the point too. -/
def State.learn (s : State) (p : SyncPt) (ids : List Nat) : State :=
  let new := ids.filter fun i => !(s.known p).contains i
  if new = [] then s
  else { s with order := { s.order with know := (p, s.known p ++ new) :: s.order.know.filter fun q => q.1 ≠ p } }

/-- Every write that happens before the first point happens before the second. -/
def State.pass (s : State) (p q : SyncPt) : State := s.learn q (s.known p)

/-- Points that nothing will reach any more. -/
def State.forget (s : State) (old : SyncPt → Bool) : State :=
  { s with order := { s.order with know := s.order.know.filter fun q => !old q.1 } }

/-- A read of bytes meets the bytes left at an address: it reads some of them, and what it reads of them is what was left. -/
def readsFrom (addr : Nat) (bs : Bytes) (a : Nat) (left : Bytes) : Bool :=
  decide (a < addr + bs.length) && decide (addr < a + left.length) &&
    (List.range left.length).all fun i => a + i < addr || addr + bs.length ≤ a + i || bs.getD (a + i - addr) 0 = left.getD i 0

/-- A release by a unit on core `k`, or by an engine, lies in the scope of an acquire on `core` (R157, R167). -/
def inScope (cs : List Nat) (core : Nat) (k : Option Nat) : Bool :=
  match k with
  | some k => decide (k ∈ cs)
  | none => !scopeLocal cs core

/-- A unit has read bytes at an address (R157): an acquire over the cores `acq` synchronises with the releases that left them; a plain
load may do so at a later acquire fence (R164). -/
def readSync (s : State) (u : UnitRef) (core : Nat) (acq : Option (List Nat)) (addr : Nat) (bs : Bytes) : State :=
  s.order.know.foldl (fun s q =>
    match q.1 with
    | .word k a left =>
      if !readsFrom addr bs a left then s
      else match acq with
        | none => s.learn (.seen u k) q.2
        | some cs => if inScope cs core k then s.learn (.unit u) q.2 else s
    | _ => s) s

/-- The point is bytes that a release left at an address that this write overlaps. -/
def overwritten (addr n : Nat) : SyncPt → Bool
  | .word _ a left => decide (a < addr + n) && decide (addr < a + left.length)
  | _ => false

/-- A write of bytes in memory, or at the key of a place, by what `who` names: numbered, and met by the engine reads in flight that it
is not ordered after (R247, R251). -/
def writeMark (s : State) (who : SyncPt) (a n : Nat) : State :=
  let o := s.order
  let before := s.known who
  let met := o.reads.filter fun r => decide (r.addr < a + n) && decide (a < r.addr + r.len) &&
    (match s.access? r.access with | some x => decide (who ≠ .unit x.u) | none => false)
  let kept := o.mem.filter fun m => !(decide (a ≤ m.1) && decide (m.1 + m.2.1 ≤ a + n) && before.contains m.2.2)
  let s : State := { s with order := { o with
    writes := o.writes + 1, mem := kept ++ [(a, n, o.writes)], raced := o.raced ++ met.map fun r => (r.access, r.lane, r.part) } }
  s.learn who [o.writes]

/-- A write to one of the bytes does not happen before the unit's next instruction (R158). -/
def State.racy (s : State) (u : UnitRef) (a n : Nat) : Bool :=
  s.order.mem.any fun m => decide (m.1 < a + n) && decide (a < m.1 + m.2.1) && !(s.known (.unit u)).contains m.2.2

/-- An engine has read bytes for a part of a lane of an access. -/
def noteRead (s : State) (u : UnitRef) (r : EngineRead) : State :=
  { s with order := { s.order with
      reads := s.order.reads ++ [r], raced := if s.racy u r.addr r.len then s.order.raced ++ [(r.access, r.lane, r.part)] else s.order.raced } }

/-- What an unordered write has met (R247, R251). -/
def State.isRaced (s : State) (access lane part : Nat) : Bool := s.order.raced.contains (access, lane, part)

/-- An access has ended. -/
def endReads (s : State) (id : Nat) : State :=
  { s with order := { s.order with
      reads := s.order.reads.filter fun r => r.access ≠ id, raced := s.order.raced.filter fun r => r.1 ≠ id } }

/-- Bytes written at an address by a unit on core `k`, or by an engine, with what its release carries. -/
def writeSync (s : State) (k : Option Nat) (addr : Nat) (bs : Bytes) (ids : List Nat) : State :=
  (s.forget (overwritten addr bs.length)).learn (.word k addr bs) ids

/-- A returning atomic has read and written bytes at an address (R157): an acquire and a release, and what it writes stands for the
releases that left what it read. -/
def atomSync (s : State) (u : UnitRef) (core : Nat) (cs : List Nat) (addr : Nat) (old new : Bytes) (wrote : Bool) : State :=
  let s := readSync s u core (some cs) addr old
  if !wrote then s
  else
    let s := writeMark s (.unit u) addr new.length
    let kept := s.order.know.filterMap fun q => match q.1 with
      | .word k a left => if readsFrom addr old a left then some (k, q.2) else none
      | _ => none
    kept.foldl (fun s q => s.learn (.word q.1 addr new) q.2) (writeSync s (some core) addr new (s.known (.unit u)))

/-- Bytes written to a store by what `who` names: numbered as one write, and noted by the products in flight (R169). A byte depends on
its last write, and on those before it that do not happen before that one. -/
def storeWrite (s : State) (core k off : Nat) (who : SyncPt) (bs : Bytes) : State :=
  let id := s.order.writes
  let before := s.known who
  let s : State := { s with order := { s.order with writes := id + 1 } }
  (s.learn who [id]).modCore core fun c =>
    (List.range bs.length).foldl (fun c i =>
      let c := c.setStore k (tset 0 (c.store k) (off + i) (bs.getD i 0))
      let key := stampKey k (off + i)
      { c with stamps := tput c.stamps key (((tget [] c.stamps key).filter fun w => !before.contains w) ++ [id])
               matq := c.matq.map fun op => op.taint k (off + i) })
      { c with badWords := repaired c.badWords k off bs.length }

end Sys2Proof.Machine
end

