-- ==== Sys2Proof/Machine/Access.lean ====
section
/-! DEFINITION. Accesses: what a unit's loads, stores, atomics and reductions do at issue and at their home (R129 to R139,
R141 to R143, R156 to R166, R368 to R380), and what a unit waits for. -/

namespace Sys2Proof.Machine

/-! ## What a unit still has outstanding (R117, R160, R273) -/

def AccKind.isLoad : AccKind → Bool
  | .store _ | .red _ _ | .scatter _ _ | .probe | .place true _ => false
  | _ => true

def AccKind.isStore : AccKind → Bool
  | .store _ | .red _ _ | .scatter _ _ | .place true _ => true
  | _ => false

/-- A copy of the unit's causes that wait, or of its instructions to be issued again (R121). -/
def UnitState.faultedOps (u : UnitState) : List Replay :=
  (u.pending.filter fun p => p.level = 0 || p.rep.acc.isSome).map (·.rep) ++ u.replays ++
  (match u.handler with | some h => if h.trap.level = 0 then [h.trap.rep] else [] | none => [])

/-- Instructions that store: one that faulted counts as unacknowledged until its replay completes (R121). -/
def storeInstr : Instr → Bool
  | .st _ | .sts _ | .stc _ | .sta _ | .sst _ | .red _ | .imst _ | .hscat _ | .nstore _ => true
  | _ => false

/-- What is to be issued again is a store. -/
def Replay.stores (p : Replay) : Bool := p.acc.isSome && (match p.instr with | some i => storeInstr i | none => false)

/-- Every earlier store and RED of the unit is performed (R121, R160, R273). In handler mode the accesses that trapped do
not count (log 24). -/
def storesDone (s : State) (r : UnitRef) : Bool :=
  !(s.inflight.any fun a => a.u = r && a.kind.isStore) &&
  (match s.unit? r with
   | some u => u.handler.isSome || !(u.faultedOps.any (·.stores))
   | none => true)

/-- Every earlier long-latency producer of the unit has written back (R117, R273). -/
def loadsDone (s : State) (r : UnitRef) : Bool :=
  !(s.inflight.any fun a => a.u = r && a.kind.isLoad) &&
  (match s.team? r.team with | some t => !(t.pops.any fun p => p.1 = r) | none => true) &&
  (match s.unit? r with
   | some u => u.handler.isSome || !(u.faultedOps.any fun p => p.dst.isSome)
   | none => true)

/-- Every earlier load of the unit has returned, as a release needs (R160): a pop that no push answers is none. -/
def loadsReturned (s : State) (r : UnitRef) : Bool :=
  !(s.inflight.any fun a => a.u = r && a.kind.isLoad) &&
  (match s.unit? r with
   | some u => u.handler.isSome || !(u.faultedOps.any fun p => p.dst.isSome)
   | none => true)

/-- The unit whose operation a packet carries. -/
def NetOwner.unit? : NetOwner → Option UnitRef
  | .store u _ | .fetch u _ _ _ _ | .signal u _ => some u
  | _ => none

/-- Network operations of a unit that are neither acknowledged nor failed (R164). -/
def netBusy (s : State) (r : UnitRef) : Bool :=
  s.conns.any fun p => p.2.outstanding.any (fun q => q.owner.unit? = some r) || p.2.waiting.any fun q => q.2.unit? = some r

/-- The access acts as an acquire (R156). -/
def AccKind.acquires : AccKind → Bool
  | .load q | .place false q => q
  | .atom _ _ _ | .request => true
  | _ => false

/-- An instruction whose accesses act as acquires (R156). -/
def acquireInstr : Instr → Bool
  | .ld f | .sld f | .lds f | .ldc f | .lda f => bits f.mod 3 2 ≠ 0
  | .atom _ | .satom _ => true
  | _ => false

/-- An earlier acquire of the unit whose access has not returned (R161). -/
def acquireOpen (s : State) (r : UnitRef) : Bool := s.inflight.any fun a => a.u = r && a.kind.acquires

/-- An earlier acquire of the unit whose steps are not complete, so that no later access is performed (R110, R161, R374): one in flight,
one whose faulted lanes are still to be issued again, or a pop that no entry has answered. A handler and an instruction that is
issued again do not wait for the last two (log 24, log 96). -/
def acquiring (s : State) (r : UnitRef) : Bool :=
  acquireOpen s r ||
  (match s.team? r.team, s.unit? r with
   | some t, some u => u.handler.isNone && u.override.isNone &&
      (t.pops.any (fun p => p.1 = r) || u.faultedOps.any fun p => match p.instr with | some i => p.acc.isSome && acquireInstr i | none => false)
   | _, _ => false)

/-- Whether the bytes of a new access meet an earlier access of the unit that is still to be performed, one of them a
write (R156). -/
def overlaps (s : State) (r : UnitRef) (isWrite : Bool) (l : List (Nat × Nat)) : Bool :=
  s.inflight.any fun a => a.u = r && (match a.kind with | .load _ => isWrite | .probe => false | _ => true) &&
    a.lanes.any fun x => x.open && l.any fun p => decide (p.1 < x.ia + x.size) && decide (x.ia < p.1 + p.2)

/-- An earlier access of the unit to one of the bytes is still to be performed: a unit's accesses to one byte take effect in issue
order, two loads as any others (R156, R159). `id` is the access that asks. -/
def olderOpen (s : State) (r : UnitRef) (id ia n : Nat) : Bool :=
  s.inflight.any fun a => a.u = r && decide (a.id < id) && a.kind ≠ .probe &&
    a.lanes.any fun x => x.open && decide (ia < x.ia + x.size) && decide (x.ia < ia + n)

/-! ## Lanes and their addresses (R369) -/

/-- One lane of an instruction: its address, data and comparand. -/
structure LaneReq where
  lane : Nat
  va : Int
  data : List W32
  cmp : List W32
  deriving DecidableEq, Repr, Inhabited

/-- The mask a lane's cause is delivered to: every lane of EM for a uniform access (R317, R372). -/
def faultMask (c : Ctx) (uni : Bool) (lane : Nat) : W64 := if uni then c.em else 1#64 <<< lane

/-- Lane addresses of a global or set-scratch access: (A + offset) mod 2^64. A scalar or a special gives one value, $lane reading 0
(R278, R286, R369; log 95). -/
def globalAddr (s : State) (c : Ctx) (a : BitVec 9) (off : Int) (lane : Nat) : Int :=
  let base : Nat :=
    if a.toNat < 0x100 then (c.us.vreg a.toNat lane).toNat + (c.us.vreg (a.toNat + 1) lane).toNat * 2 ^ 32
    else (sval s c a).toNat
  ((base : Int) + off) % 2 ^ 64

/-- Lane offsets of the other spaces: the exact sum (R369), of a uniform value as in `globalAddr`. -/
def offsetAddr (s : State) (c : Ctx) (a : BitVec 9) (off : Int) (lane : Nat) : Int :=
  let base : Nat :=
    if a.toNat < 0x100 then (c.us.vreg a.toNat lane).toNat
    else (sval s c a).toNat
  (base : Int) + off

/-- Whether A gives one address for all lanes. -/
def uniformAddr (a : BitVec 9) : Bool := decide (0x100 ≤ a.toNat)

/-- The lanes that perform: all of EM, or one for a uniform access that is performed once. -/
def reqLanes (c : Ctx) (once : Bool) : List Nat := if once then [c.lanes.headD 0] else c.lanes

/-! ## Causes by lane (R119, R121, R129) -/

/-- ATISSUE (R337). -/
def atIssue : W64 := 1#64 <<< 13

/-- Causes that lanes met, delivered one after another in ascending code, each with its own lanes (R129); `mask` and
`addr` of the lowest lane. The caller takes the first as a caller trap at the instruction (R317). -/
def raiseLanes (c : Ctx) (rep : Replay) (errs : List (Byte × W64 × Nat × W64)) (s : State) : State :=
  let causes := (List.range 256).filter fun k => errs.any fun e => e.1.toNat = k
  causes.foldl (fun s k =>
    let mine := errs.filter fun e => e.1.toNat = k
    match mine with
    | [] => s
    | e :: _ =>
      let f := mine.foldl (fun m x => m ||| x.2.1) 0
      if c.caller then takeTrap s c.u c.slot { cause := e.1, level := 3, f := 0, addr := BitVec.ofNat 64 e.2.2.1, info := e.2.2.2, rep := c.rep }
      else addPending s c.u { cause := e.1, level := 0, f := f, addr := BitVec.ofNat 64 e.2.2.1, info := e.2.2.2, rep := rep }) s

/-- Translation at issue (R129, R130): the lanes that pass with their intermediate addresses, and the causes of the
others. -/
def translateLanes (c : Ctx) (kind : Kind) (size : Nat) (uni : Bool) :
    List LaneReq → List (LaneReq × Nat) × List (Byte × W64 × Nat × W64)
  | [] => ([], [])
  | l :: ls =>
    let (ok, bad) := translateLanes c kind size uni ls
    let va := l.va.toNat
    match translate c.team.wins c.secure kind va size with
    | .error k => (ok, (k, faultMask c uni l.lane, va, atIssue) :: bad)
    | .ok ia =>
      if (homeSlice ia).isNone then (ok, (0x06, faultMask c uni l.lane, va, atIssue) :: bad)
      else ((l, ia) :: ok, bad)

/-- The unit continues after an access, unless a cause ended or trapped it (R120, R123). -/
def finishAccess (c : Ctx) (len : Nat) (trapped : Bool) (s : State) : State :=
  if trapped && c.caller then s
  else
    match s.unit? c.u with
    | some u => if u.exited then s else advance c len s
    | none => s

/-! ## At the home (R134, R135, R139) -/

/-- Where an access is parked. -/
inductive ParkPlace where
  | moving
  | entry (page : Nat)
  | full
  deriving DecidableEq, Repr, Inhabited

/-- What the home answers to one lane. -/
inductive HomeAns where
  | ok
  | fault (cause : Byte) (pstate : Nat)
  | park (w : ParkPlace)
  deriving DecidableEq, Repr, Inhabited

/-- Owner tag of a unit's requests (R100). -/
def unitTag (s : State) (r : UnitRef) : Nat := match s.unit? r with | some u => s.coreTag u.core | none => 0

/-- The check at the home of an access by a unit (R134, R135), with the fault entry it opens: each coordinator has 256. -/
def homeCheck (s : State) (r : UnitRef) (secure write : Bool) (ia : Nat) : HomeAns × State :=
  let page := pageOf ia
  let tag := unitTag s r
  let s := countXlat (noteInvalid s ia) ia tag
  let refused (s : State) : State := s.countHome ia tag 0x07
  let parked (s : State) : State := s.countHome ia tag 0x08
  match verdict s secure write ia with
  | .ok => (.ok, s)
  | .moving => (.park .moving, parked s)
  | .refuse k st =>
    if k = 0x06 || k = 0x09 then
      match s.mem.faults.find? fun e => e.page = page with
      | some e => if e.assignee = r then (.fault k st, refused s) else (.park (.entry page), parked s)
      | none =>
        if 256 ≤ (s.mem.faults.filter fun e => coordOf e.page = coordOf page).length then (.park .full, parked s)
        else (.fault k st, refused { s with mem := { s.mem with faults := s.mem.faults ++ [⟨page, r, []⟩] } })
    else (.fault k st, refused s)

/-- An access lane parked at its place. -/
def parkLane (s : State) (w : ParkPlace) (id lane : Nat) : State :=
  match w with
  | .moving => { s with mem := { s.mem with movePark := s.mem.movePark ++ [(id, lane)] } }
  | .full => { s with mem := { s.mem with faultWait := s.mem.faultWait ++ [(id, lane)] } }
  | .entry page =>
    { s with mem := { s.mem with faults := s.mem.faults.map fun e =>
        if e.page = page then { e with parked := e.parked ++ [(id, lane)] } else e } }

/-- Replays of one page keep the order in which they were parked (R136, R139): whether it is the lane's turn. -/
def replayTurn (s : State) (id lane page : Nat) : Bool :=
  let on (p : Nat × Nat) : Bool :=
    match s.access? p.1 with
    | some a => match a.lane? p.2 with | some l => decide (pageOf l.ia = page) | none => false
    | none => false
  !((id, lane) ∈ s.mem.replayQ) || (s.mem.replayQ.find? on) = some (id, lane)

/-- A lane leaves the list of replays. -/
def replayDone (s : State) (id lane : Nat) : State :=
  { s with mem := { s.mem with replayQ := s.mem.replayQ.erase (id, lane) } }

/-! ## Scalar accesses at their home (R135, R136, R317) -/

/-- A unit's parked access on behalf of an instruction or a clause that it will read again: a lane for each address. -/
def probeFor (s : State) (r : UnitRef) (rep : Replay) : Option Access :=
  s.inflight.find? fun a => a.u = r && a.kind = .probe && a.rep.pc = rep.pc && a.rep.idx = rep.idx && a.rep.slot = rep.slot

/-- A lane of such an access takes its place among the parked ones. -/
def standProbe (s : State) (r : UnitRef) (core : Nat) (rep : Replay) (w : ParkPlace) (l : LaneAcc) : State :=
  match probeFor s r rep with
  | some a => parkLane (s.modAccess a.id fun a => { a with lanes := a.lanes.filter (fun x => x.lane ≠ l.lane) ++ [l] }) w a.id l.lane
  | none =>
    let (id, s) := s.fresh
    parkLane { s with inflight := s.inflight ++ [
      { id := id, u := r, core := core, kind := .probe, dst := none, regs := 0, scope := 0, hint := 0, pol := 0, rep := rep
        lanes := [l], uni := true }] } w id l.lane

/-- The access has been made. -/
def endProbe (s : State) (r : UnitRef) (rep : Replay) : State :=
  match probeFor s r rep with
  | some a => { s with inflight := s.inflight.filter fun x => x.id ≠ a.id }
  | none => s

/-- What a word of code that is read as a load with kind fetch gives (R116, R272). -/
inductive WordAns where
  | word (w : W64)
  | wait
  | fault (cause : Byte) (info : W64) (addr : Nat)
  deriving DecidableEq, Repr, Inhabited

/-- A word of code (R272): one whose page makes it wait is parked as any access (R135), and is read when it is released and its turn
has come (R136). -/
def codeWord (s : State) (r : UnitRef) (t : Team) (core : Nat) (rep : Replay) (lane va : Nat) : WordAns × State :=
  let secure := s.coreSecure core
  match translate t.wins secure .fetch va 8 with
  | .error k => (.fault k atIssue va, s)
  | .ok ia =>
    let read (s : State) : WordAns × State :=
      match homeCheck s r secure false ia with
      | (.park w, s) => (.wait, standProbe s r core rep w ⟨lane, va, ia, 8, [], [], .parked⟩)
      | (.fault k st, s) => (.fault k (BitVec.ofNat 64 (st * 1024)) va, s)
      | (.ok, s) =>
        let s := dropBadLine s core (lineOf ia)
        if loadBad s core ia 8 then (.fault 0x0A 1024 va, s)
        else
          let (bs, s) := coreRead s core ia 8 0
          let w := wordOfBytes bs
          (.word w, match probeFor s r rep with
            | some a => s.modAccess a.id fun a => a.setLane lane (.done (words32 2 w.toNat))
            | none => s)
    if (homeSlice ia).isNone then (.fault 0x06 atIssue va, s)
    else if redAhead s core ia s.nextId then (.wait, s)
    else
      match probeFor s r rep with
      | none => read s
      | some a =>
        match a.lane? lane with
        | none => read s
        | some l =>
          match l.st with
          | .done v => (.word (BitVec.ofNat 64 (ofWords32 v)), s)
          | .waiting => if replayTurn s a.id lane (pageOf ia) then read (replayDone s a.id lane) else (.wait, s)
          | .parked | .faulted => (.wait, s)

/-- What the home answers to a scalar access: the state in which it goes on, is refused, or its unit has been parked. -/
inductive ScalarAns where
  | ok (s : State)
  | fault (cause : Byte) (pstate : Nat) (s : State)
  | parked (s : State)

/-- The parked scalar access that an instruction waits for. -/
def probeOf (s : State) (c : Ctx) : Option Access := probeFor s c.u c.rep

/-- The check at the home of a scalar access (R134, R135). One that is parked takes its place among the parked accesses, and its
instruction is issued again until the access is released and its turn has come (R136). -/
def scalarHome (c : Ctx) (write : Bool) (ia va size : Nat) (s : State) : ScalarAns :=
  let enter (s : State) : ScalarAns :=
    match homeCheck s c.u c.secure write ia with
    | (.ok, s) => .ok s
    | (.fault k st, s) => .fault k st s
    | (.park w, s) => .parked (parkAt c .retry (standProbe s c.u c.core c.rep w ⟨0, va, ia, size, [], [], .parked⟩))
  match probeOf s c with
  | none => enter s
  | some a =>
    if a.lanes.any (fun l => l.st = .waiting && replayTurn s a.id 0 (pageOf l.ia)) then
      enter { (replayDone s a.id 0) with inflight := s.inflight.filter fun x => x.id ≠ a.id }
    else .parked (parkAt c .retry s)

/-! ## Loads -/

/-- The words of a load's result: `n` bytes zero-extended into `regs` words (R370). -/
def loadWords (bs : Bytes) (regs : Nat) : List W32 := words32 regs (natOf bs)

/-- Bytes that an acquire which is not local reads (R161, R374): at the home, under the core's dirty bytes, after marks in
its set are promoted (R162). -/
def acquireRead (s : State) (core ia n : Nat) (cs : List Nat) : Bytes × State :=
  let s := promoteFor (dropBadLine s core (lineOf ia)) (lineOf ia) cs (some core)
  let s := recallLine s (lineOf ia) (some core)
  let s := mscFill (s.countHome ia (s.coreTag core) 0x01) ia 0 (s.coreTag core)
  ((List.range n).map fun i =>
    let a := ia + i
    readOf s a (match s.l1? core (lineOf a) with
    | some l => if l.dirty.getLsbD (a % 128) || l.owned then (if l1Has l (a % 128) then lineByte l.data (a % 128) else homeByte s a) else homeByte s a
    | none => homeByte s a), s)

/-! ## Stores -/

/-- A store of one lane that its home has admitted (R141, R160 to R162): into L1; a local release marks its line, and a
release that is not local writes the line back. -/
def storeLane (s : State) (core ia hint : Nat) (bs : Bytes) (release isLocal : Bool) : State :=
  let line := lineOf ia
  if !release then coreWrite s core ia hint bs
  else if isLocal then
    let others := (s.mem.dir.filter fun e => e.line = line && !e.own && e.core ≠ core).map (·.core)
    let s := others.foldl (fun s k => promoteCore s k) s
    let s := coreWrite s core ia (if hint = 3 then 0 else hint) bs
    let s := dirAdd s ⟨line, false, core⟩
    match s.l1? core line with
    | some l => s.setL1 core line { l with lrel := true }
    | none => s
  else writebackLine (coreWrite s core ia hint bs) core line

/-! ## Atomics (R165, R311, R377, R378) -/

/-- TYPE of the A form (R311). -/
def aType (n : Nat) : Option OpTy :=
  match n with
  | 0 => some ⟨32, 1, true, none⟩
  | 1 => some ⟨32, 1, false, none⟩
  | 2 => some ⟨64, 1, true, none⟩
  | 3 => some ⟨64, 1, false, none⟩
  | 4 => some ⟨32, 1, true, some .f32⟩
  | 5 => some ⟨16, 2, true, some .f16⟩
  | 6 => some ⟨16, 2, true, some .bf16⟩
  | _ => none

def aTy (n : Nat) : OpTy := (aType n).getD default

/-- Bytes of an atomic of the type. -/
def OpTy.bytes (t : OpTy) : Nat := t.w * t.els / 8

/-- The AOP and TYPE pairs of R311. -/
def aopAccepts (aop ty : Nat) (red : Bool) : Bool :=
  match aop with
  | 0 | 1 | 2 => decide (ty < 7)
  | 3 | 4 | 5 => decide (ty < 4)
  | 6 => !red && decide (ty < 7)
  | 7 => !red && decide (ty < 4)
  | 8 | 9 => !red && (ty = 1 || ty = 3)
  | _ => false

/-- Element `i` of a packed code and the packing of elements (R176). -/
def elemOf (t : OpTy) (i v : Nat) : Nat := v / 2 ^ (t.w * i) % 2 ^ t.w
def joinElems (t : OpTy) (es : List Nat) : Nat := es.foldr (fun e acc => e + acc * 2 ^ t.w) 0

/-- Minimum or maximum of two codes of a format (R354): a copy, or the canonical NaN of two NaNs. -/
def minMaxBits (isMax : Bool) (f : Fmt) (a b : Nat) : Nat :=
  match valueOf f a, valueOf f b with
  | .nan, .nan => nanCode f
  | .nan, _ => b
  | _, .nan => a
  | x, y =>
    let lt (p q : Num) : Bool := match p.cmp q with
      | some .lt => true
      | some .eq => p.isNeg && !q.isNeg
      | _ => false
    if isMax then (if lt x y then b else a) else if lt y x then b else a

/-- The operation of R311 and R377 on the old value and the operand, before the policy. -/
def aopApply (aop : Nat) (t : OpTy) (old b d : Nat) : Nat :=
  let each (g : Fmt → Nat → Nat → Nat) : Nat :=
    joinElems t ((List.range t.els).map fun i => g (t.fmt.getD .f32) (elemOf t i old) (elemOf t i b))
  match aop with
  | 0 =>
    if t.fmt.isSome then each fun f x y => roundTo f ((valueOf f x).add .rne (valueOf f y)) .rne
    else (old + b) % 2 ^ t.w
  | 1 => if t.fmt.isSome then each (minMaxBits false) else if t.int old ≤ t.int b then old else b
  | 2 => if t.fmt.isSome then each (minMaxBits true) else if t.int old ≤ t.int b then b else old
  | 3 => old &&& b
  | 4 => old ||| b
  | 5 => old ^^^ b
  | 7 => if old = d then b else old
  | 8 => if b ≤ old then 0 else old + 1
  | 9 => if old = 0 || b < old then b else old - 1
  | _ => b

/-- The new value of an atomic or a reduction under the policy of R184, and whether it sets the non-finite note: every element of a
floating-point type, whatever the operation (R378; log 41). -/
def aopResult (pol aop : Nat) (t : OpTy) (old b d : Nat) : Nat × Bool :=
  let v := aopApply aop t old b d
  match t.fmt with
  | some f =>
    (joinElems t ((List.range t.els).map fun i => policy (if pol = 2 then 0 else pol) f (elemOf t i v)),
     pol = 2 && (List.range t.els).any fun i => nonFinite f (elemOf t i v))
  | none => (v, false)

/-- Ownership of a line for atomics in the core's L1 (R143, R165): other owners are recalled, marks in the set promoted,
and the line's sector is present. That a local atomic has written it holds until it leaves the core: the atomics that follow
synchronise for it (R157, R162). -/
def ownLine (s : State) (core ia : Nat) (isLocal : Bool) (cs : List Nat) : State :=
  let line := lineOf ia
  let s := dropBadLine s core line
  let s := if isLocal then s else promoteFor s line cs (some core)
  let s := recallLine s line (some core)
  let s := if (match s.l1? core line with | some l => l.owned | none => false) then s
    else
      -- clean bytes of the line are read anew from the home
      match s.l1? core line with
      | some l => s.setL1 core line { l with valid := 0 }
      | none => s
  let s := if l1Hit s core (ia - ia % 32) 32 then s else l1Fill s core ia 0
  let s := l1Alloc s core line 0
  let s := dirAdd s ⟨line, true, core⟩
  match s.l1? core line with
  | some l => s.setL1 core line { l with owned := true, localAtom := l.localAtom || isLocal }
  | none => s

/-- One returning atomic at its place (R165, R377): the old value, and the state with the new one. -/
def atomAt (s : State) (core ia aop ty pol ctx : Nat) (isLocal : Bool) (cs : List Nat) (b d : Nat) : Nat × State :=
  let t := aTy ty
  let s := ownLine s core ia isLocal cs
  let old := natOf ((List.range t.bytes).map fun i => readOf s (ia + i) (coreByte s core (ia + i)))
  let (v, note) := aopResult pol aop t old b d
  let s := if note then s.noteBit ctx 193 else s
  (old, if aop = 7 && old ≠ d then s else coreWrite s core ia 0 (bytesOf t.bytes v))

/-! ## Reductions (R166, R379, R380) -/

/-- One reduction at the home slice's ALU. -/
def redAt (s : State) (ia aop ty pol ctx tag v : Nat) : State :=
  let t := aTy ty
  let (bs, s) := aluRead s ia t.bytes tag
  let (v, note) := aopResult pol aop t (natOf bs) v 0
  let s := if note then s.noteBit ctx 193 else s
  mscWrite s ia tag (bytesOf t.bytes v)

/-- Before a RED leaves, the issuing core's dirty bytes of its sector are written back and the sector is invalidated
(R166). -/
def flushSector (s : State) (core ia : Nat) : State :=
  let line := lineOf ia
  let s := writebackLine s core line
  match s.l1? core line with
  | some l => s.setL1 core line { l with valid := setBit l.valid (ia % 128 / 32) false }
  | none => s

/-! ## Spaces without a cache (R146, R148 to R150, R163) -/

/-- Where an access to such a space lands: a core, which of its stores, and the offset there. -/
inductive Place where
  | scratch (core off : Nat)
  | act (core off : Nat)
  | consts (off : Nat)
  deriving DecidableEq, Repr, Inhabited

/-- The scratchpad (R148). -/
def scratchPlace (c : Ctx) (off : Int) (n : Nat) : Except Byte Place :=
  if off < 0 then .error 0x07
  else if off.toNat % n ≠ 0 then .error 0x05
  else if c.launch.budget.scr ≤ off.toNat then .error 0x07
  else .ok (.scratch c.team.home (c.team.scratch + off.toNat))

/-- The activation store of the unit's core (R146). -/
def actPlace (c : Ctx) (off : Int) (n : Nat) : Except Byte Place :=
  if off < 0 then .error 0x07
  else if off.toNat % n ≠ 0 then .error 0x05
  else if 4 * 2 ^ 20 ≤ off.toNat then .error 0x07
  else .ok (.act c.core off.toNat)

/-- The kernel constants (R150). -/
def constPlace (c : Ctx) (off : Int) (n : Nat) : Except Byte Place :=
  if off < 0 then .error 0x07
  else if off.toNat % n ≠ 0 then .error 0x05
  else if c.launch.args.length < off.toNat + n then .error 0x07
  else .ok (.consts off.toNat)

/-- The members of a team's set, by their place in it (R149). -/
def setMember (s : State) (c : Ctx) (m : Nat) : Option Team :=
  ((s.teams.find? fun p => p.2.launch = c.team.launch && p.2.index = c.team.index - c.team.index % c.launch.setsz + m)).map (·.2)

/-- Set scratch (R149). -/
def setPlace (s : State) (c : Ctx) (va : Int) (n : Nat) : Except Byte Place :=
  let a := BitVec.ofInt 64 va
  let off := bits a 0 20
  if off % n ≠ 0 then .error 0x05
  else if bits a 20 12 ≠ 0 || bits a 35 29 ≠ 0 || decide (c.launch.setsz ≤ bits a 32 3) || decide (c.launch.budget.scr ≤ off) then .error 0x07
  else
    match setMember s c (bits a 32 3) with
    | some t => .ok (.scratch t.home (t.scratch + off))
    | none => .error 0x07

/-- The offset of a place in the scratchpad of a core, or in its activation store. -/
def scratchOff (k : Nat) : Except Byte Place → Option Nat
  | .ok (.scratch j o) => if j = k then some o else none
  | _ => none

def actOff (k : Nat) : Except Byte Place → Option Nat
  | .ok (.act j o) => if j = k then some o else none
  | _ => none

/-- Bytes at a place of a core. -/
def storeBytes (s : State) (p : Place) (n : Nat) : Bytes :=
  match p with
  | .scratch k o => (List.range n).map fun i => tget 0 (s.core k).scratch (o + i)
  | .act k o => (List.range n).map fun i => tget 0 (s.core k).act (o + i)
  | .consts _ => []

/-- Bytes at a place. -/
def placeRead (s : State) (c : Ctx) (p : Place) (n : Nat) : Bytes :=
  match p with
  | .consts o => (List.range n).map fun i => c.launch.args.getD (o + i) 0
  | p => storeBytes s p n

/-- A number for each byte of these places, apart from every intermediate address, under which an access to them waits. -/
def placeKey : Place → Nat
  | .scratch k o => 2 ^ 64 + 2 ^ 32 * k + o
  | .act k o => 2 ^ 65 + 2 ^ 32 * k + o
  | .consts o => 2 ^ 66 + o

/-- The place of such a number. -/
def placeOfKey (n : Nat) : Place :=
  if n < 2 ^ 65 then .scratch ((n - 2 ^ 64) / 2 ^ 32) (n % 2 ^ 32) else .act ((n - 2 ^ 65) / 2 ^ 32) (n % 2 ^ 32)

def tsetBytes (t : Table Byte) (o : Nat) : Bytes → Table Byte
  | [] => t
  | b :: bs => tsetBytes (tset 0 t o b) (o + 1) bs

/-- Bytes written at a place; the kernel constants are read-only. -/
def placeWrite (s : State) (r : UnitRef) (p : Place) (bs : Bytes) : State :=
  match p with
  | .scratch k o => s.modCore k fun x => { x with scratch := tsetBytes x.scratch o bs, badWords := repaired x.badWords 3 o bs.length }
  | .act k o => storeWrite s k 0 o (.unit r) bs
  | .consts _ => s

/-- Whether the bytes at a place have uncorrectable data (R30). -/
def placeBad (s : State) (p : Place) (n : Nat) : Bool :=
  match p with
  | .scratch k o => wordsBad s k 3 o n
  | .act k o => wordsBad s k 0 o n
  | .consts _ => false

/-! ## Ordered instructions (R156, R374) -/


/-- The cores of a scope, for the executing unit. -/
def ctxScope (s : State) (c : Ctx) (id : Nat) : List Nat := scopeCores s c.team.wins c.team.cores c.core id

/-- What a barrier, ticket or queue instruction that is a release waits for: earlier accesses that acquire, and the unit's earlier accesses
(R160, R161). Such an instruction is no access, and waits for no pop (DEDUCED, log 96). -/
def syncWait (s : State) (c : Ctx) : Bool := acquireOpen s c.u || !(storesDone s c.u && loadsReturned s c.u)

/-- What an instruction waits for before its accesses: earlier acquires (R161), and for its release part the unit's
earlier accesses (R160). -/
def orderWait (s : State) (c : Ctx) (rel : Bool) : Bool :=
  acquiring s c.u || (rel && !(storesDone s c.u && loadsReturned s c.u))

/-- The L1 steps of a release that is no access to a line (a fence, or a store to a space without a cache): at a local scope
there is no line to mark, and the dirty bytes are written back so that an acquire by another core synchronises (R157, R160,
R164; log 98). -/
def releaseAll (s : State) (c : Ctx) : State := writebackAll s c.core

/-- The L1 steps of a release part at a scope (R160), of an access whose own line is marked when the scope is local (R162). -/
def releaseL1 (s : State) (c : Ctx) (scope : Nat) : State :=
  if scopeLocal (ctxScope s c scope) c.core then s else writebackAll s c.core

/-- The L1 steps of an acquire part at a scope (R161). -/
def acquirePart (s : State) (c : Ctx) (scope : Nat) : State :=
  if scopeLocal (ctxScope s c scope) c.core then s else acquireL1 s c.core

/-- A unit's store of bytes at an address of any space, or at the key of a place: a release at `rel`, or a plain store, which carries what
an earlier release fence of the unit does (R157, R164). -/
def storeSync (s : State) (u : UnitRef) (core : Nat) (rel : Option SyncPt) (addr : Nat) (bs : Bytes) : State :=
  writeMark (writeSync s (some core) addr bs (s.known (rel.getD (.fence u)))) (.unit u) addr bs.length

/-- A reduction has changed bytes: no returning atomic, so that what a release left there is gone (R157, R166). -/
def redSync (s : State) (u : UnitRef) (addr n : Nat) : State := writeMark (s.forget (overwritten addr n)) (.unit u) addr n

/-- An acquire fence of a unit over these cores (R164): its earlier plain loads synchronise as acquires would have. -/
def fenceSync (s : State) (u : UnitRef) (core : Nat) (cs : List Nat) : State :=
  s.order.know.foldl (fun s q =>
    match q.1 with
    | .seen v k => if v = u && inScope cs core k then s.learn (.unit u) q.2 else s
    | _ => s) s

end Sys2Proof.Machine
end

