-- ==== Sys2Proof/Machine/LoadStore.lean ====
section
/-! DEFINITION. Loads and stores of every space (R316, R317, R368 to R375). -/

namespace Sys2Proof.Machine

/-! ## Fields of the M form (R278) -/

def mSize (f : MForm) : Nat := bits f.mod 0 3
def mOrder (f : MForm) : Nat := bits f.mod 3 2
def mHint (f : MForm) : Nat := bits f.mod 5 2
/-- Bytes per lane. -/
def mBytes (f : MForm) : Nat := 2 ^ mSize f
/-- Data registers of a lane. -/
def mRegs (f : MForm) : Nat := if mSize f = 4 then 4 else if mSize f = 3 then 2 else 1
/-- SCOPE in the low bits of the offset field when ORDER is not 0. -/
def mScope (f : MForm) : Nat := bits f.off 0 5
/-- OFF18, or OFF13 when ORDER is not 0. -/
def mOff (f : MForm) : Int := if mOrder f = 0 then f.off.toInt else (f.off.extractLsb' 5 13).toInt

/-- SCOPE when it applies. -/
def mScopeOpt (f : MForm) : Option Nat := if mOrder f = 0 then none else some (mScope f)

/-- The requirements of a vector load or store (R373): `wide` for 64-bit addresses, the greatest ORDER, whether hints are
accepted. -/
def encMem (f : MForm) (wide isStore orders hints : Bool) : Enc :=
  { ok := decide (mSize f < 5) && (orders || mOrder f = 0) && (hints || mHint f = 0) && !f.mod.getLsbD 7 && !f.feb && !f.fec &&
          (!isStore || mSize f ≠ 4 || decide (f.d.toNat < 0x100)) && (!isStore || decide (f.d.toNat < 0x100) || decide (0x180 ≤ f.d.toNat))
    cal := false
    uses := [if isStore then Use.imp f.d (mRegs f) .any else Use.dst f.d (mRegs f), Use.src f.a f.fea (if wide then 2 else 1)]
    mask := f.mask, scope := mScopeOpt f }

/-- The requirements of a scalar load or store (R316). -/
def encScalarMem (f : MForm) (isStore orders : Bool) : Enc :=
  { ok := decide (mSize f < 4) && (orders || (mOrder f = 0 && mHint f = 0)) && !f.mod.getLsbD 7 && !f.feb && !f.fec
    uses := [if isStore then Use.imp f.d 1 .sca else Use.dst f.d 1 .reg, Use.src f.a f.fea 1 .sca]
    mask := f.mask, scope := mScopeOpt f }

/-! ## Global memory -/

/-- The instruction's own entry for its replay: the access it belongs to and its destinations (R122). -/
def repFor (c : Ctx) (id : Nat) (dst : Option Nat) (regs : Nat) : Replay :=
  { c.rep with acc := some (c.rep.acc.getD id), dst := dst, regs := regs }

/-- A load of the caller is checked at its home in the issuing step, so that a refusal is a caller trap at the
instruction (R317; log 25). -/
def callerLoad (c : Ctx) (d : BitVec 9) (n hint len : Nat) (acq : Option Nat) (q : LaneReq × Nat) (s : State) : State :=
  if redAhead s c.core q.2 s.nextId then parkAt c .retry s
  else
  match scalarHome c false q.2 q.1.va.toNat n s with
  | .parked s => s
  | .fault k st s => raiseHere c k (BitVec.ofNat 64 (st * 1024)) (BitVec.ofNat 64 q.1.va.toNat) s
  | .ok s =>
    let nonlocal := match acq with | some sc => !scopeLocal (ctxScope s c sc) c.core | none => false
    if (if nonlocal then acquireBad s c.core q.2 n else loadBad s c.core q.2 n) then
      raiseHere c 0x0A 1024 (BitVec.ofNat 64 q.1.va.toNat) s
    else
      let (bs, s) := if nonlocal then acquireRead s c.core q.2 n (ctxScope s c (acq.getD 0)) else coreRead s c.core q.2 n hint
      let s := readSync s c.u c.core (acq.map (ctxScope s c)) q.2 bs
      let (id, s) := s.fresh
      let a : Access :=
        { id := id, u := c.u, core := c.core, kind := .load acq.isSome, dst := some d.toNat, regs := 1, scope := acq.getD 0
          hint := hint, pol := c.launch.nfpol, rep := repFor c id (some d.toNat) 1
          lanes := [⟨0, q.1.va.toNat, q.2, n, [], [], .done (loadWords bs 2)⟩], uni := true }
      let s := { s with inflight := s.inflight ++ [a] }
      advance c len (s.modUnit c.u fun u => u.mark d.toNat 1 true)

/-- A load from global memory (R129, R371, R372), an acquire with any ORDER but 0 (R156): lanes that fail leave it; a lane that hits is
read at once, and the others go to their home, as does an ordered lane of 128 bits, which is two events (R375). -/
def globalLoad (c : Ctx) (d a : BitVec 9) (off : Int) (n regs hint len : Nat) (order scope : Nat) (scalar : Bool)
    (s : State) : State :=
  let uni := uniformAddr a || scalar
  let reqs : List LaneReq := (reqLanes c uni).map fun l => ⟨l, globalAddr s c a off l, [], []⟩
  let (good, bad) := translateLanes c .read n uni reqs
  let acq := decide (order ≠ 0)
  if orderWait s c false || (!c.again && overlaps s c.u false (good.map fun q => (q.2, n))) then parkAt c .retry s
  else
    if c.caller then
      match bad, good with
      | e :: _, _ => raiseHere c e.1 e.2.2.2 (BitVec.ofNat 64 e.2.2.1) s
      | _, q :: _ => callerLoad c d n hint len (if acq then some scope else none) q s
      | _, _ => s
    else
      let (id, s) := s.fresh
      let rep := repFor c id (some d.toNat) regs
      let nonlocal := acq && !scopeLocal (ctxScope s c scope) c.core
      let (lanes, s) := good.foldl (fun (p : List LaneAcc × State) q =>
        let s := dropBadLine p.2 c.core (lineOf q.2)
        let hit := !nonlocal && !(acq && n = 16) && l1Hit s c.core q.2 n && !loadBad s c.core q.2 n && !redAhead s c.core q.2 id && !olderOpen s c.u id q.2 n
        let (st, s) := if hit then
            let (bs, s) := coreRead s c.core q.2 n hint
            (LaneStatus.done (loadWords bs (max regs 2)), readSync s c.u c.core (if acq then some (ctxScope s c scope) else none) q.2 bs)
          else (.waiting, s)
        (p.1 ++ [⟨q.1.lane, q.1.va.toNat, q.2, n, [], [], st⟩], s)) ([], s)
      let s := if lanes = [] then s
        else { s with inflight := s.inflight ++ [
          { id := id, u := c.u, core := c.core, kind := .load acq, dst := some d.toNat, regs := regs, scope := scope, hint := hint
            pol := c.launch.nfpol, rep := rep, lanes := lanes, uni := uni }] }
      let s := s.modUnit c.u fun u => u.mark d.toNat regs true
      finishAccess c len false (raiseLanes c rep bad s)

/-- The lanes of a group's store that passed issue (R134, R371, R372): each is performed, parked or refused at its home;
then the lanes' causes, and the move to the next instruction. Of an ordered lane of 128 bits the lower half is performed, and the
upper half waits (R375). -/
def storeLanes (c : Ctx) (uni : Bool) (n hint : Nat) (rel : Bool) (scope : Nat) (len : Nat)
    (good : List (LaneReq × Nat)) (bad : List (Byte × W64 × Nat × W64)) (s : State) : State :=
  let loc := scopeLocal (ctxScope s c scope) c.core
  let (id, s) := s.fresh
  let rep := repFor c id none 0
  let store (s : State) (a : Nat) (bs : Bytes) : State :=
    storeSync (storeLane s c.core a hint bs rel loc) c.u c.core (if rel then some (.unit c.u) else none) a bs
  let (parked, errs, s) := good.foldl (fun (p : List LaneAcc × List (Byte × W64 × Nat × W64) × State) q =>
    match homeCheck p.2.2 c.u c.secure true q.2 with
    | (.ok, s) =>
      if rel && n = 16 then
        (p.1 ++ [⟨q.1.lane, q.1.va.toNat + 8, q.2 + 8, 8, q.1.data.drop 2, [], .waiting⟩], p.2.1,
          store s q.2 (bytesOf 8 (ofWords32 (q.1.data.take 2))))
      else (p.1, p.2.1, store s q.2 (bytesOf n (ofWords32 q.1.data)))
    | (.fault k st, s) => (p.1, p.2.1 ++ [(k, faultMask c uni q.1.lane, q.1.va.toNat, BitVec.ofNat 64 (st * 1024))], s)
    | (.park w, s) =>
      (p.1 ++ [⟨q.1.lane, q.1.va.toNat, q.2, n, q.1.data, [], .parked⟩], p.2.1, parkLane s w id q.1.lane)) ([], [], s)
  let s := if rel && parked ≠ [] then s.pass (.unit c.u) (.issued id) else s
  let s := if parked = [] then s
    else { s with inflight := s.inflight ++ [
      { id := id, u := c.u, core := c.core, kind := .store rel, dst := none, regs := 0, scope := scope, hint := hint
        pol := c.launch.nfpol, rep := rep, lanes := parked, uni := uni }] }
  finishAccess c len false (raiseLanes c rep (bad ++ errs) s)

/-- A store to global memory (R129, R141, R160, R371), a release with any ORDER but 0 (R156): lanes are performed in ascending order; one that its home parks
stays outstanding, and one that it refuses is a fault of that lane. -/
def globalStore (c : Ctx) (a : BitVec 9) (off : Int) (n hint len : Nat) (order scope : Nat) (scalar : Bool)
    (data : Nat → List W32) (s : State) : State :=
  let uni := uniformAddr a || scalar
  let reqs : List LaneReq := (reqLanes c scalar).map fun l => ⟨l, globalAddr s c a off l, data l, []⟩
  let (good, bad) := translateLanes c .write n uni reqs
  let rel := decide (order ≠ 0)
  if orderWait s c rel || (!c.again && overlaps s c.u true (good.map fun q => (q.2, n))) then parkAt c .retry s
  else
    let loc := scopeLocal (ctxScope s c scope) c.core
    let store (s : State) (q : LaneReq × Nat) : State :=
      let bs := bytesOf n (ofWords32 q.1.data)
      storeSync (storeLane s c.core q.2 hint bs rel loc) c.u c.core (if rel then some (.unit c.u) else none) q.2 bs
    if c.caller then
      match bad, good with
      | e :: _, _ => raiseHere c e.1 e.2.2.2 (BitVec.ofNat 64 e.2.2.1) s
      | _, q :: _ =>
        match scalarHome c true q.2 q.1.va.toNat n s with
        | .parked s => s
        | .fault k st s => raiseHere c k (BitVec.ofNat 64 (st * 1024)) (BitVec.ofNat 64 q.1.va.toNat) s
        | .ok s =>
          advance c len (store (if rel then releaseL1 s c scope else s) q)
      | _, _ => s
    else
      storeLanes c uni n hint rel scope len good bad (if rel then releaseL1 s c scope else s)

/-- Data words of a store for a lane, with zeros above (R370). -/
def storeData (s : State) (c : Ctx) (d : BitVec 9) (regs lane : Nat) : List W32 :=
  if d.toNat < 0x100 then dataWords s c d regs lane else words32 4 ((if d.toNat < 0x180 then c.us.sreg (d.toNat - 0x100) else special s c d lane)).toNat

/-- LD (R373): global virtual memory. -/
def execLd (f : MForm) (s : State) : Host.Outcome State Fault Refusal :=
  issue (.ld f) (encMem f true false true true) s fun c s =>
    globalLoad c f.d f.a (mOff f) (mBytes f) (mRegs f) (mHint f) 1 (mOrder f) (mScope f) false s

/-- ST (R373): global virtual memory. -/
def execSt (f : MForm) (s : State) : Host.Outcome State Fault Refusal :=
  issue (.st f) (encMem f true true true true) s fun c s =>
    globalStore c f.a (mOff f) (mBytes f) (mHint f) 1 (mOrder f) (mScope f) false (storeData s c f.d (mRegs f)) s

/-! ## Spaces with a single copy (R163) -/

/-- A load from a space with a single copy: read at issue, delivered at write-back; an ordered lane of 128 bits reads its upper half
later (R375). Data that are uncorrectable give cause 0x0A (R30). -/
def placeLoad (c : Ctx) (d a : BitVec 9) (n regs len : Nat) (order scope : Nat) (scalar : Bool) (addr : Nat → Int)
    (place : Int → Except Byte Place) (s : State) : State :=
  let uni := uniformAddr a || scalar
  let acq := decide (order ≠ 0)
  let half := acq && n = 16
  let keys := (reqLanes c uni).filterMap fun l => match place (addr l) with | .ok p => some (placeKey p, n) | .error _ => none
  if orderWait s c false || (!c.again && overlaps s c.u false keys) then parkAt c .retry s
  else
    let rs := (reqLanes c uni).map fun l => (l, addr l, place (addr l))
    let lanes : List LaneAcc := rs.filterMap fun q =>
      match q.2.2 with
      | .ok p =>
        if placeBad s p n then none
        else if half then some ⟨q.1, q.2.1.toNat, placeKey p + 8, 8, loadWords (placeRead s c p 8) 2, [], .waiting⟩
        else some ⟨q.1, q.2.1.toNat, 0, n, [], [], .done (loadWords (placeRead s c p n) (max regs 2))⟩
      | .error _ => none
    let errs := rs.filterMap fun q =>
      match q.2.2 with
      | .ok p => if placeBad s p n then some (0x0A, faultMask c uni q.1, q.2.1.toNat, 0) else none
      | .error k => some (k, faultMask c uni q.1, (q.2.1 % 2 ^ 64).toNat, atIssue)
    if c.caller && errs ≠ [] then raiseLanes c c.rep errs s
    else
      let (id, s) := s.fresh
      let rep := repFor c id (some d.toNat) regs
      let s := if lanes = [] then s
        else { s with inflight := s.inflight ++ [
          { id := id, u := c.u, core := c.core, kind := if half then .place false acq else .load acq, dst := some d.toNat, regs := regs
            scope := scope, hint := 0, pol := c.launch.nfpol, rep := rep, lanes := lanes, uni := uni }] }
      let s := rs.foldl (fun s q =>
        match q.2.2 with
        | .ok p =>
          if placeBad s p n then s
          else readSync s c.u c.core (if acq then some (ctxScope s c scope) else none) (placeKey p) (placeRead s c p (if half then 8 else n))
        | .error _ => s) s
      let s := s.modUnit c.u fun u => u.mark d.toNat regs true
      finishAccess c len false (raiseLanes c rep errs s)

/-- A store to a space with a single copy, in ascending lane order; an ordered lane of 128 bits writes its upper half later (R375). -/
def placeStore (c : Ctx) (a : BitVec 9) (n len : Nat) (order scope : Nat) (addr : Nat → Int)
    (place : Int → Except Byte Place) (data : Nat → List W32) (s : State) : State :=
  let uni := uniformAddr a
  let rel := decide (order ≠ 0)
  let half := rel && n = 16
  let keys := c.lanes.filterMap fun l => match place (addr l) with | .ok p => some (placeKey p, n) | .error _ => none
  if orderWait s c rel || (!c.again && overlaps s c.u true keys) then parkAt c .retry s
  else
    let s := if rel then releaseAll s c else s
    let (errs, s) := c.lanes.foldl (fun (p : List (Byte × W64 × Nat × W64) × State) l =>
      match place (addr l) with
      | .ok q =>
        let bs := (bytesOf n (ofWords32 (data l))).take (if half then 8 else n)
        (p.1, storeSync (placeWrite p.2 c.u q bs) c.u c.core (if rel then some (.unit c.u) else none) (placeKey q) bs)
      | .error k => (p.1 ++ [(k, faultMask c uni l, (addr l % 2 ^ 64).toNat, atIssue)], p.2)) ([], s)
    let (id, s) := s.fresh
    let rep := repFor c id none 0
    let upper : List LaneAcc := c.lanes.filterMap fun l =>
      match place (addr l) with
      | .ok q => some ⟨l, (addr l).toNat, placeKey q + 8, 8, (data l).drop 2, [], .waiting⟩
      | .error _ => none
    let s := if half && upper ≠ [] then s.pass (.unit c.u) (.issued id) else s
    let s := if !half || upper = [] then s
      else { s with inflight := s.inflight ++ [
        { id := id, u := c.u, core := c.core, kind := .place true false, dst := none, regs := 0, scope := scope, hint := 0
          pol := c.launch.nfpol, rep := rep, lanes := upper, uni := uni }] }
    finishAccess c len false (raiseLanes c rep errs s)

/-- LDS (R373): scratchpad. -/
def execLds (f : MForm) (s : State) : Host.Outcome State Fault Refusal :=
  issue (.lds f) (encMem f false false true false) s fun c s =>
    placeLoad c f.d f.a (mBytes f) (mRegs f) 1 (mOrder f) (mScope f) false (offsetAddr s c f.a (mOff f))
      (fun x => scratchPlace c x (mBytes f)) s

/-- STS (R373). -/
def execSts (f : MForm) (s : State) : Host.Outcome State Fault Refusal :=
  issue (.sts f) (encMem f false true true false) s fun c s =>
    placeStore c f.a (mBytes f) 1 (mOrder f) (mScope f) (offsetAddr s c f.a (mOff f)) (fun x => scratchPlace c x (mBytes f))
      (storeData s c f.d (mRegs f)) s

/-- LDC (R373): set scratch. -/
def execLdc (f : MForm) (s : State) : Host.Outcome State Fault Refusal :=
  issue (.ldc f) (encMem f true false true false) s fun c s =>
    placeLoad c f.d f.a (mBytes f) (mRegs f) 1 (mOrder f) (mScope f) false (globalAddr s c f.a (mOff f))
      (fun x => setPlace s c x (mBytes f)) s

/-- STC (R373). -/
def execStc (f : MForm) (s : State) : Host.Outcome State Fault Refusal :=
  issue (.stc f) (encMem f true true true false) s fun c s =>
    placeStore c f.a (mBytes f) 1 (mOrder f) (mScope f) (globalAddr s c f.a (mOff f)) (fun x => setPlace s c x (mBytes f))
      (storeData s c f.d (mRegs f)) s

/-- LDA (R373): activation store. -/
def execLda (f : MForm) (s : State) : Host.Outcome State Fault Refusal :=
  issue (.lda f) (encMem f false false true false) s fun c s =>
    placeLoad c f.d f.a (mBytes f) (mRegs f) 1 (mOrder f) (mScope f) false (offsetAddr s c f.a (mOff f))
      (fun x => actPlace c x (mBytes f)) s

/-- STA (R373). -/
def execSta (f : MForm) (s : State) : Host.Outcome State Fault Refusal :=
  issue (.sta f) (encMem f false true true false) s fun c s =>
    placeStore c f.a (mBytes f) 1 (mOrder f) (mScope f) (offsetAddr s c f.a (mOff f)) (fun x => actPlace c x (mBytes f))
      (storeData s c f.d (mRegs f)) s

/-- LDK (R373): kernel constants; no ORDER. -/
def execLdk (f : MForm) (s : State) : Host.Outcome State Fault Refusal :=
  issue (.ldk f) (encMem f false false false false) s fun c s =>
    placeLoad c f.d f.a (mBytes f) (mRegs f) 1 0 0 false (offsetAddr s c f.a f.off.toInt) (fun x => constPlace c x (mBytes f)) s

/-! ## Scalar accesses (R316, R317) -/

/-- SLDK (R316). -/
def execSldk (f : MForm) (s : State) : Host.Outcome State Fault Refusal :=
  issue (.sldk f) (encScalarMem f false false) s fun c s =>
    placeLoad c f.d f.a (mBytes f) 1 1 0 0 true (fun _ => ((sval s c f.a).toNat : Int) + f.off.toInt)
      (fun x => constPlace c x (mBytes f)) s

/-- SLD (R316): as a one-lane LD. -/
def execSld (f : MForm) (s : State) : Host.Outcome State Fault Refusal :=
  issue (.sld f) (encScalarMem f false true) s fun c s =>
    globalLoad c f.d f.a (mOff f) (mBytes f) 1 (mHint f) 1 (mOrder f) (mScope f) true s

/-- SST (R316): as a one-lane ST. -/
def execSst (f : MForm) (s : State) : Host.Outcome State Fault Refusal :=
  issue (.sst f) (encScalarMem f true true) s fun c s =>
    globalStore c f.a (mOff f) (mBytes f) (mHint f) 1 (mOrder f) (mScope f) true
      (fun _ => words32 2 (sval s c f.d).toNat) s

end Sys2Proof.Machine
end

