-- ==== Sys2Proof/Machine/Atomic.lean ====
section
/-! DEFINITION. Atomics, reductions, fences and cache control (R164 to R166, R311, R318, R376 to R383). -/

namespace Sys2Proof.Machine

/-! ## Fields of the A form (R279, R311) -/

def atType (f : AForm) : Nat := bits f.mod 0 3
def atAop (f : AForm) : Nat := f.aop.toNat
/-- MOD bits above TYPE are zero but for LIT, and a literal leaves B and FEB zero (R281, R282). -/
def atModOk (f : AForm) : Bool :=
  bits f.mod 3 4 = 0 && !f.fec && (f.lit.isNone || (f.b = 0 && !f.feb)) && (!f.mod.getLsbD 7 || f.lit.isSome)
/-- Registers of a vector operand. -/
def atRegs (f : AForm) : Nat := if (aTy (atType f)).w = 64 then 2 else 1
def atUseB (f : AForm) (n : Nat) (cls : OpClass) : List Use := if f.lit.isSome then [] else [Use.src f.b f.feb n cls]

/-- The scratch aperture (R376): offset of an address whose bits 63:60 are all one; none where bits 59:20 are not zero. -/
def aperture (va : Nat) : Option (Option Nat) :=
  if va / 2 ^ 60 = 15 then some (if va % 2 ^ 60 < 2 ^ 20 then some (va % 2 ^ 20) else none) else none

/-- Lanes of an ATOM or RED by where they go (R376): aperture lanes with their place, global lanes with their address, and
the causes of the rest. -/
def splitLanes (c : Ctx) (n : Nat) (uni : Bool) (reqs : List LaneReq) :
    List (LaneReq × Place) × List (LaneReq × Nat) × List (Byte × W64 × Nat × W64) :=
  let ap := reqs.filter fun q => (aperture q.va.toNat).isSome
  let gl := reqs.filter fun q => (aperture q.va.toNat).isNone
  let (good, bad) := translateLanes c .rw n uni gl
  let place (q : LaneReq) : Except Byte Place :=
    match aperture q.va.toNat with
    | some (some o) => scratchPlace c o n
    | _ => .error (if q.va.toNat % n ≠ 0 then 0x05 else 0x07)
  (ap.filterMap fun q => match place q with | .ok p => some (q, p) | .error _ => none,
   good,
   bad ++ ap.filterMap fun q => match place q with
     | .ok _ => none
     | .error k => some (k, faultMask c uni q.lane, q.va.toNat, atIssue))

/-- Lanes whose scratchpad bytes have uncorrectable data do not act (R30): the others, and the causes. -/
def soundLanes (s : State) (c : Ctx) (n : Nat) (uni : Bool) (ap : List (LaneReq × Place)) : List (LaneReq × Place) × List (Byte × W64 × Nat × W64) :=
  (ap.filter fun q => !placeBad s q.2 n, (ap.filter fun q => placeBad s q.2 n).map fun q => (0x0A, faultMask c uni q.1.lane, q.1.va.toNat, 0))

/-- One atomic at the scratchpad ALU (R378): the old value, and the state with the new one. -/
def placeAtom (s : State) (c : Ctx) (p : Place) (aop ty pol b d : Nat) : Nat × State :=
  let t := aTy ty
  let old := natOf (placeRead s c p t.bytes)
  let (v, note) := aopResult pol aop t old b d
  let s := if note then s.noteBit c.team.ctx 193 else s
  (old, if aop = 7 && old ≠ d then s else placeWrite s c.u p (bytesOf t.bytes v))

/-- The operand of an atomic's lane: a code of its type. -/
def atomOperand (s : State) (c : Ctx) (b : BitVec 9) (lit : Option W64) (t : OpTy) (lane : Nat) : Nat :=
  opndLit s c b lit t lane

/-- The requirements of ATOM (R282, R283). -/
def encAtom (f : AForm) : Enc :=
  let n := atRegs f
  let cas := atAop f = 7
  { ok := atModOk f && aopAccepts (atAop f) (atType f) false, cal := false
    uses := [⟨f.d, n, .vec, if cas then .both else .dst⟩, Use.src f.a f.fea 2] ++ atUseB f n .any
    mask := f.mask, scope := some f.scope.toNat, len := lenOf f.lit }

/-- ATOM (R376 to R378): a returning atomic per lane, an acquire and a release at SCOPE. -/
def execAtom (f : AForm) (s : State) : Host.Outcome State Fault Refusal :=
  let t := aTy (atType f)
  let n := atRegs f
  let cas := atAop f = 7
  let e := encAtom f
  issue (.atom f) e s fun c s =>
    let uni := uniformAddr f.a
    let reqs : List LaneReq := c.lanes.map fun l =>
      ⟨l, globalAddr s c f.a 0 l, words32 2 (atomOperand s c f.b f.lit t l), if cas then words32 2 (opnd s c f.d t l) else []⟩
    let (ap, good, errs) := splitLanes c t.bytes uni reqs
    if orderWait s c true || (!c.again && overlaps s c.u true (good.map fun q => (q.2, t.bytes))) then parkAt c .retry s
    else
      let (ap, worn) := soundLanes s c t.bytes uni ap
      let errs := errs ++ worn
      let s := if ap = [] then releaseL1 s c f.scope.toNat else releaseAll s c
      let loc := scopeLocal (ctxScope s c f.scope.toNat) c.core
      let (id, s) := s.fresh
      let rep := repFor c id (some f.d.toNat) n
      let (done, s) := ap.foldl (fun (p : List LaneAcc × State) q =>
        let (old, s) := placeAtom p.2 c q.2 (atAop f) (atType f) c.launch.nfpol (ofWords32 q.1.data) (ofWords32 q.1.cmp)
        let s := atomSync s c.u c.core (ctxScope s c f.scope.toNat) (placeKey q.2) (bytesOf t.bytes old) (placeRead s c q.2 t.bytes)
          (!cas || old = ofWords32 q.1.cmp)
        (p.1 ++ [⟨q.1.lane, q.1.va.toNat, 0, 0, [], [], .done (words32 2 old)⟩], s)) ([], s)
      let lanes := done ++ good.map fun q => ⟨q.1.lane, q.1.va.toNat, q.2, t.bytes, q.1.data, q.1.cmp, .waiting⟩
      let s := if lanes = [] then s
        else { s with inflight := s.inflight ++ [
          { id := id, u := c.u, core := c.core, kind := .atom (atAop f) (atType f) loc, dst := some f.d.toNat, regs := n
            scope := f.scope.toNat, hint := 0, pol := c.launch.nfpol, rep := rep, lanes := lanes, uni := false }] }
      let s := s.modUnit c.u fun u => u.mark f.d.toNat n true
      finishAccess c e.len false (raiseLanes c rep errs s)

/-- The requirements of SATOM (R282, R283). -/
def encSatom (f : AForm) : Enc :=
  let cas := atAop f = 7
  let tyOk := ((atType f = 2 || atType f = 3) && aopAccepts (atAop f) (atType f) false) ||
              (atType f = 4 && (decide (atAop f < 3) || atAop f = 6))
  { ok := atModOk f && tyOk
    uses := [⟨f.d, 1, .reg, if cas then .both else .dst⟩, Use.src f.a f.fea 1 .sca] ++ atUseB f 1 .sca
    mask := f.mask, scope := some f.scope.toNat, len := lenOf f.lit }

/-- SATOM (R318): one returning atomic in a scalar or caller register, performed in the issuing step (log 25). -/
def execSatom (f : AForm) (s : State) : Host.Outcome State Fault Refusal :=
  let t := aTy (atType f)
  let cas := atAop f = 7
  let e := encSatom f
  issue (.satom f) e s fun c s =>
    let va := (sval s c f.a).toNat
    let b := opndLit s c f.b f.lit t 0
    let d := opnd s c f.d t 0
    let (good, bad) := translateLanes c .rw t.bytes true [⟨c.lanes.headD 0, va, [], []⟩]
    if orderWait s c true || (!c.again && overlaps s c.u true (good.map fun q => (q.2, t.bytes))) then parkAt c .retry s
    else
      let (id, s) := s.fresh
      let rep := repFor c id (some f.d.toNat) 1
      let refuse (k : Byte) (info : W64) (s : State) : State :=
        let s := if c.caller then s else s.modUnit c.u fun u => u.mark f.d.toNat 1 true
        finishAccess c e.len true (raiseLanes c rep [(k, c.em, va, info)] s)
      match bad, good with
      | x :: _, _ => refuse x.1 x.2.2.2 s
      | _, q :: _ =>
        if redAhead s c.core q.2 s.nextId then parkAt c .retry s
        else
        match scalarHome c true q.2 va t.bytes s with
        | .parked s => s
        | .fault k st s => refuse k (BitVec.ofNat 64 (st * 1024)) s
        | .ok s =>
          if loadBad s c.core q.2 t.bytes then refuse 0x0A 1024 s
          else
            let cs := ctxScope s c f.scope.toNat
            let loc := scopeLocal cs c.core
            let s := releaseL1 s c f.scope.toNat
            let s1 := ownLine s c.core q.2 loc cs
            let old := natOf ((List.range t.bytes).map fun i => readOf s1 (q.2 + i) (coreByte s1 c.core (q.2 + i)))
            let (v, note) := aopResult c.launch.nfpol (atAop f) t old b d
            if note then raiseHere c 0x10 0 0 s1
            else
              let s := if cas && old ≠ d then s1 else coreWrite s1 c.core q.2 0 (bytesOf t.bytes v)
              let s := atomSync s c.u c.core cs q.2 (bytesOf t.bytes old) (bytesOf t.bytes v) (!(cas && old ≠ d))
              let s : State := { s with inflight := s.inflight ++ [
                { id := id, u := c.u, core := c.core, kind := .atom (atAop f) (atType f) loc, dst := some f.d.toNat, regs := 1
                  scope := f.scope.toNat, hint := 0, pol := c.launch.nfpol, rep := rep
                  lanes := [⟨0, va, q.2, t.bytes, [], [], .done (words32 2 old)⟩], uni := true }] }
              advance c e.len (s.modUnit c.u fun u => u.mark f.d.toNat 1 true)
      | _, _ => s

/-! ## Reductions (R379, R380) -/

/-- One reduction to be sent: the lowest lane, the mask of the lanes that contribute, and the combined value. -/
structure RedGroup (α : Type) where
  lane : Nat
  va : Nat
  mask : W64
  at_ : α
  v : Nat

/-- The combiner (R166, R379): one reduction for each distinct address, in the order of the lowest lane that names it. -/
def redGroups {α : Type} (aop pol : Nat) (t : OpTy) (l : List (LaneReq × α)) : List (RedGroup α) :=
  let firsts := l.foldl (fun (acc : List (LaneReq × α)) q => if acc.any (fun p => p.1.va = q.1.va) then acc else acc ++ [q]) []
  firsts.map fun q =>
    let mine := l.filter fun p => p.1.va = q.1.va
    let f (a b : Nat) : Nat := (aopResult (if pol = 1 then 1 else 0) aop t a b 0).1
    { lane := q.1.lane, va := q.1.va.toNat, mask := maskOf (mine.map fun p => p.1.lane), at_ := q.2
      v := (combine f mine.length (mine.map fun p => ofWords32 p.1.data)).headD 0 }

/-- A value of a floating-point type that policy 2 does not send (R184). -/
def redTraps (pol : Nat) (t : OpTy) (v : Nat) : Bool :=
  pol = 2 && t.fmt.isSome && (List.range t.els).any fun i => nonFinite (t.fmt.getD .f32) (elemOf t i v)

/-- REDs to global memory leave the core (R166, R379): they are outstanding until their slice performs them. -/
def sendReds (c : Ctx) (aop ty : Nat) (gs : List (RedGroup Nat)) (id : Nat) (rep : Replay) (s : State) : State :=
  let s := gs.foldl (fun s g => flushSector s c.core g.at_) s
  if gs.isEmpty then s
  else { s with inflight := s.inflight ++ [
    { id := id, u := c.u, core := c.core, kind := .red aop ty, dst := none, regs := 0, scope := 0, hint := 0
      pol := c.launch.nfpol, rep := rep, uni := false
      lanes := gs.map fun g => ⟨g.lane, g.va, g.at_, (aTy ty).bytes, words32 2 g.v, words32 2 g.mask.toNat, .waiting⟩ }] }

/-- The requirements of RED (R282, R283). -/
def encRed (f : AForm) : Enc :=
  let n := atRegs f
  { ok := atModOk f && aopAccepts (atAop f) (atType f) true && f.d = 0 && f.scope = 0, cal := false
    uses := Use.src f.a f.fea 2 :: atUseB f n .any, mask := f.mask, len := lenOf f.lit }

/-- RED (R379). -/
def execRed (f : AForm) (s : State) : Host.Outcome State Fault Refusal :=
  let t := aTy (atType f)
  let e := encRed f
  issue (.red f) e s fun c s =>
    let uni := uniformAddr f.a
    let pol := c.launch.nfpol
    let reqs : List LaneReq := c.lanes.map fun l => ⟨l, globalAddr s c f.a 0 l, words32 2 (atomOperand s c f.b f.lit t l), []⟩
    let (ap, good, errs) := splitLanes c t.bytes uni reqs
    if orderWait s c false || (!c.again && overlaps s c.u true (good.map fun q => (q.2, t.bytes))) then parkAt c .retry s
    else
      let (ap, worn) := soundLanes s c t.bytes uni ap
      let errs := errs ++ worn
      let ga := redGroups (atAop f) pol t ap
      let gg := redGroups (atAop f) pol t good
      if ga.any (fun g => redTraps pol t g.v) || gg.any (fun g => redTraps pol t g.v) then raiseHere c 0x10 0 0 s
      else
        let s := ga.foldl (fun s g => (placeAtom s c g.at_ (atAop f) (atType f) pol g.v 0).2) s
        let s := ga.foldl (fun s g => redSync s c.u (placeKey g.at_) t.bytes) s
        let (id, s) := s.fresh
        let rep := repFor c id none 0
        let s := sendReds c (atAop f) (atType f) gg id rep s
        finishAccess c e.len false (raiseLanes c rep errs s)

/-! ## Fences (R164, R381) -/

/-- Cause 0x12 from the group's sticky status (R52), which is cleared when the trap is delivered (`enterHandler`). -/
def raiseNet (c : Ctx) (p : BitVec 10 × BitVec 3) (s : State) : State :=
  raiseHere c 0x12 (BitVec.ofNat 64 (p.2.toNat * 2 ^ 42 + p.1.toNat * 2 ^ 45)) 0 s

/-- The requirements of FENCE (R282, R283). -/
def encFence (f : MForm) : Enc :=
  { ok := f.a = 0x180 && !f.fea && !f.feb && !f.fec && f.d = 0 && mSize f = 0 && mHint f = 0 && !f.mod.getLsbD 7 &&
          (if mOrder f = 0 then f.off = 0 else mOff f = 0)
    cal := false, uses := [], mask := f.mask, scope := mScopeOpt f }

/-- FENCE (R164, R173, R381): at scope 4 the network status is tested before the fence acts, and for a release part again after
its wait. -/
def execFence (f : MForm) (s : State) : Host.Outcome State Fault Refusal :=
  issue (.fence f) (encFence f) s fun c s =>
    let o := if mOrder f = 0 then 3 else mOrder f
    let sc := if mOrder f = 0 then 0 else mScope f
    let acq := o = 1 || o = 3
    let rel := o = 2 || o = 3
    let waiting := acquiring s c.u || (rel && !(storesDone s c.u && loadsReturned s c.u)) || (acq && !loadsReturned s c.u) ||
      (rel && sc = 4 && netBusy s c.u)
    let begun := rel && sc = 4 && (c.us.thread c.slot).park = .fence
    match (if sc = 4 && !(begun && waiting) then c.us.net else none) with
    | some p => raiseNet c p (s.modUnit c.u fun u => u.modThread c.slot fun th => { th with park := .none })
    | none =>
      if waiting then parkAt c (if rel && sc = 4 then .fence else .retry) s
      else
        let s := if rel then (releaseAll s c).pass (.unit c.u) (.fence c.u) else s
        let s := if acq then fenceSync (acquirePart s c sc) c.u c.core (ctxScope s c sc) else s
        advance c 1 s

/-! ## Prefetch and cache control (R382, R383) -/

/-- The requirements of PREF (R282, R283). -/
def encPref (f : MForm) : Enc :=
  { ok := (f.d = 0x1C0 || f.d = 0x1C1) && mSize f = 0 && mOrder f = 0 && !f.mod.getLsbD 7 && !f.feb && !f.fec, cal := false
    uses := [Use.src f.a f.fea 2], mask := f.mask }

/-- PREF (R382): the lines that pass every check are filled; nothing faults, parks or is waited for. -/
def execPref (f : MForm) (s : State) : Host.Outcome State Fault Refusal :=
  issue (.pref f) (encPref f) s fun c s =>
    advance c 1 (c.lanes.foldl (fun s l =>
      match translate c.team.wins c.secure .read (globalAddr s c f.a f.off.toInt l).toNat 1 with
      | .error _ => s
      | .ok ia =>
        if (homeSlice ia).isNone then s
        else if verdict s c.secure false ia ≠ .ok then noteInvalid s ia
        else (List.range 4).foldl (fun s k =>
          let a := ia - ia % 128 + 32 * k
          if redAhead s c.core a s.nextId || (List.range 32).any (fun i => homeBad s (a + i)) then s
          else if f.d = 0x1C0 then (if l1Hit s c.core a 32 then l1Alloc s c.core (lineOf a) (mHint f) else l1Fill s c.core a (mHint f))
          else mscFill (recallLine s (lineOf a) none) a (mHint f) (s.coreTag c.core)) s) s)

/-- The requirements of CCTL (R282, R283). -/
def encCctl (f : MForm) (code : Bool) : Enc :=
  { ok := code && mSize f = 0 && mOrder f = 0 && mHint f = 0 && !f.mod.getLsbD 7 && !f.feb && !f.fec, cal := false
    uses := [Use.src f.a f.fea 2], mask := f.mask }

/-- The shape of CCTL (R383): the address is checked with kind read, and the operation acts on its line. -/
def cctl (i : Instr) (f : MForm) (code : Bool) (act : State → Nat → Nat → State) (s : State) :
    Host.Outcome State Fault Refusal :=
  issue i (encCctl f code) s fun c s =>
    let uni := uniformAddr f.a
    let reqs : List LaneReq := (reqLanes c uni).map fun l => ⟨l, globalAddr s c f.a f.off.toInt l, [], []⟩
    let (good, bad) := translateLanes c .read 1 uni reqs
    if acquiring s c.u || (!c.again && overlaps s c.u true (good.map fun q => (q.2 - q.2 % 128, 128))) then parkAt c .retry s
    else
      let s := good.foldl (fun s q => act s c.core (lineOf q.2)) s
      let (id, s) := s.fresh
      finishAccess c 1 false (raiseLanes c (repFor c id none 0) bad s)

/-- CCTL_WB (R383). A D outside the three codes raises cause 0x01 here (log 26). -/
def execCctlWb (f : MForm) (s : State) : Host.Outcome State Fault Refusal :=
  cctl (.cctlWb f) f (f.d = 0x1C0) writebackLine s

/-- CCTL_INV (R383): written back and invalidated; ownership is given up. -/
def execCctlInv (f : MForm) (s : State) : Host.Outcome State Fault Refusal :=
  cctl (.cctlInv f) f (f.d = 0x1C1) evictL1 s

/-- CCTL_CLRP (R383): normal priority in L1 and in the home slice. -/
def execCctlClrp (f : MForm) (s : State) : Host.Outcome State Fault Refusal :=
  cctl (.cctlClrp f) f (f.d = 0x1C2) (fun s core line =>
    let s := match s.l1? core line with | some l => s.setL1 core line { l with prio := .normal } | none => s
    match s.msc? line with | some l => s.setMsc line { l with prio := .normal } | none => s) s

end Sys2Proof.Machine
end

