-- ==== Sys2Proof/Machine/Control.lean ====
section
/-! DEFINITION. Control flow (R113 to R116, R319 to R324): branches, calls, the split table, exit. -/

namespace Sys2Proof.Machine

/-! ## Branches, calls and returns (R319, R320) -/

/-- The common requirements of the B form: D, B, C and MASK zero (R280). -/
def bOk (f : IForm) : Bool := f.mask = 0 && !f.feb && !f.fec && f.lit.isNone && !f.mod.getLsbD 7

/-- The requirements of BRA (R282, R283). -/
def encBra (f : IForm) : Enc :=
  { ok := bOk f && f.d = 0 && f.a = 0 && !f.fea && f.mod = 0, uses := [], mask := f.mask }

/-- BRA (R319). -/
def execBra (f : IForm) (s : State) : Host.Outcome State Fault Refusal :=
  issue (.bra f) (encBra f) s fun c s => jump c ((c.us.thread c.slot).target f.imm) (s.countCore c.core 0x03 1)

/-- The requirements of BRZ and BRNZ (R282, R283). -/
def encBranch (f : IForm) : Enc :=
  { ok := bOk f && f.d = 0 && decide (f.mod.toNat < 2), cal := f.mod = 0, uses := [Use.src f.a f.fea 1 .sca], mask := f.mask }

/-- BRZ and BRNZ: the condition is A, or A ∧ X with MOD bit 0 (R319). -/
def branchIf (i : Instr) (f : IForm) (zero : Bool) (s : State) : Host.Outcome State Fault Refusal :=
  issue i (encBranch f) s fun c s =>
    let v := sval s c f.a
    let v := if f.mod = 1 then v &&& c.x else v
    if (v = 0) = zero then jump c ((c.us.thread c.slot).target f.imm) (s.countCore c.core 0x03 1) else advance c 1 s

/-- BRZ (R319). -/
def execBrz (f : IForm) (s : State) : Host.Outcome State Fault Refusal := branchIf (.brz f) f true s
/-- BRNZ (R319). -/
def execBrnz (f : IForm) (s : State) : Host.Outcome State Fault Refusal := branchIf (.brnz f) f false s

/-- A clause address in a register: a scalar, or an even pair. -/
def linkUse (a : BitVec 9) (dst fe : Bool) : Use :=
  let n := if a.toNat < 0x100 then 2 else 1
  let cls := if a.toNat < 0x100 then OpClass.vec else .reg
  if dst then Use.dst a n cls else Use.src a fe n cls

/-- The requirements of CALL (R282, R283). -/
def encCall (f : IForm) : Enc :=
  { ok := bOk f && f.d = 0 && !f.fea && f.mod = 0, uses := [linkUse f.a true false], mask := f.mask }

/-- CALL (R320): the link register A receives the address of the clause after CALL's. -/
def execCall (f : IForm) (s : State) : Host.Outcome State Fault Refusal :=
  issue (.call f) (encCall f) s fun c s =>
    let th := c.us.thread c.slot
    let s := if f.a.toNat < 0x100 then
        s.modUnit c.u fun u => (lanesOf c.w c.x).foldl (fun u l => u.setVwords f.a.toNat l (words32 2 th.nextPc)) u
      else writeS c f.a (BitVec.ofNat 64 th.nextPc) s
    jump c (th.target f.imm) (s.countCore c.core 0x03 1)

/-! ## The split table (R113 to R116) -/

/-- Sub-groups formed from the lanes of `em` by their targets (R114). -/
def formRegion (c : Ctx) (kind : Bool) (em bmask : W64) (join : Nat) (target : Nat → Nat) (s : State) : State :=
  let lanes := lanesOf c.w em
  let ds := lanes.foldl (fun (acc : List Nat) l => if target l ∈ acc then acc else acc ++ [target l]) []
  let subs : List SubGroup := (ds.take 4).map fun d =>
    ⟨Thread.at d (c.us.thread c.slot).lastIssue, false, maskOf (lanes.filter fun l => target l = d)⟩
  let resid := maskOf (lanes.filter fun l => target l ∉ ds.take 4)
  let s := freePort s c.u c.slot
  let s := (s.countCore c.core 0x03 1).modUnit c.u fun u =>
    { u.modThread c.slot fun th => { th with run := false, park := .none } with
      override := none
      region :=
        { isOpen := true, kind := kind, emask := if u.region.emask = 0 then c.x else u.region.emask, resid := resid
          bmask := u.region.bmask ||| bmask, spc := c.rep.pc, join := join, byHandler := c.inHandler, subs := subs } }
  finishRegion s c.u

/-- Whether a region is open (R114). -/
def Ctx.regionOpen (c : Ctx) : Bool := c.us.region.isOpen

/-- SPLIT and CALLI do not nest (R114): a region is open, or the handler meets one that waits for its residue (log 73). -/
def Ctx.nested (c : Ctx) : Bool :=
  c.regionOpen || (c.inHandler && !c.us.region.byHandler && decide (c.us.region.emask ≠ 0))

/-- A sub-group of an open region of a kind executes, not the handler that interrupted it (R115, R116). -/
def Ctx.inSub (c : Ctx) (kind : Bool) : Bool := c.us.inRegion && decide (c.us.region.kind = kind)

/-- A lane's 64-bit value in an even pair. -/
def pairOf (u : UnitState) (r lane : Nat) : Nat := (u.vreg r lane).toNat + (u.vreg (r + 1) lane).toNat * 2 ^ 32

/-- The requirements of SPLIT (R282, R283). -/
def encSplit (f : IForm) : Enc :=
  { ok := f.d = 0 && f.mod = 0 && !f.feb && !f.fec && f.lit.isNone, cal := false
    uses := [Use.src f.a f.fea 2 .vec], mask := f.mask }

/-- SPLIT (R322). A SPLIT in handler mode while the group's region is open raises cause 0x01 as any nested one. -/
def execSplit (f : IForm) (s : State) : Host.Outcome State Fault Refusal :=
  issue (.split f) (encSplit f) s fun c s =>
    if c.nested then raiseHere c 0x01 0 0 s
    else formRegion c false c.em 0 ((c.us.thread c.slot).target f.imm) (pairOf c.us f.a.toNat) s

/-- The requirements of JOIN (R282, R283). -/
def encJoin (f : RForm) : Enc :=
  { ok := f.d = 0 && f.a = 0 && f.b = 0 && f.c = 0 && !f.fea && !f.feb && !f.fec && f.mask = 0 && f.mod = 0 && f.lit.isNone
    cal := false, uses := [], mask := f.mask }

/-- JOIN (R322): the sub-group arrives. -/
def execJoin (f : RForm) (s : State) : Host.Outcome State Fault Refusal :=
  issue (.join f) (encJoin f) s fun c s =>
    if !c.inSub false then raiseHere c 0x01 0 0 s
    else arrive (s.countCore c.core 0x03 1) c.u c.slot

/-- The budget word of a callee, at t - 8, read as a fetch of the lane (R116, R321). -/
def calleeBudget (c : Ctx) (lane t : Nat) (s : State) : WordAns × State :=
  codeWord s c.u c.team c.core c.rep lane ((t + 2 ^ 64 - 8) % 2 ^ 64)

/-- The callee declares more registers than the group's allocation (R116). -/
def overBudget (c : Ctx) (a : WordAns) : Bool :=
  match a with
  | .word w => decide (c.launch.budget.vregs < 8 * bits w 0 6) || decide (c.launch.budget.sregs < 16 * bits w 8 4)
  | _ => false

/-- The budget words of the callees, lane after lane. -/
def calleeBudgets (c : Ctx) (target : Nat → Nat) (s : State) : List (Nat × WordAns) × State :=
  c.lanes.foldl (fun (p : List (Nat × WordAns) × State) l =>
    let (a, s) := calleeBudget c l (target l) p.2
    (p.1 ++ [(l, a)], s)) ([], s)

/-- The requirements of CALLI (R282, R283). -/
def encCalli (f : RForm) : Enc :=
  { ok := f.b = 0 && f.c = 0 && !f.feb && !f.fec && f.mod = 0 && f.lit.isNone, cal := false
    uses := [Use.dst f.d 2, Use.src f.a f.fea 2 .vec], mask := f.mask }

/-- CALLI (R116, R321). -/
def execCalli (f : RForm) (s : State) : Host.Outcome State Fault Refusal :=
  issue (.calli f) (encCalli f) s fun c s =>
    if c.nested then raiseHere c 0x01 0 0 s
    else if acquiring s c.u then parkAt c .retry s
    else
      let target (l : Nat) : Nat := pairOf c.us f.a.toNat l
      let (rs, s) := calleeBudgets c target s
      let errs := rs.filterMap fun p => match p.2 with | .fault k i a => some (k, p.1, a, i) | _ => none
      if rs.any fun p => p.2 = .wait then parkAt c .retry s
      else
        let s := endProbe s c.u c.rep
        -- the lowest cause first, with its lanes, at once
        match (List.range 256).find? fun k => errs.any fun x => x.1.toNat = k with
        | some k =>
          let mine := errs.filter fun x => x.1.toNat = k
          let x := mine.headD default
          takeTrap s c.u c.slot
            { cause := x.1, level := 0, f := maskOf (mine.map fun y => y.2.1), addr := BitVec.ofNat 64 x.2.2.1, info := x.2.2.2
              rep := { c.rep with em := c.em } }
        | none =>
          let bad := maskOf ((rs.filter fun p => overBudget c p.2).map (·.1))
          let s := writeVs c f.d (fun _ => [1, 0]) s
          formRegion c true (c.em &&& ~~~bad) bad (c.us.thread c.slot).nextPc target s

/-- The requirements of RET (R282, R283). -/
def encRet (f : RForm) : Enc :=
  { ok := f.d = 0 && f.b = 0 && f.c = 0 && !f.feb && !f.fec && f.mod = 0 && f.lit.isNone
    uses := [linkUse f.a false f.fea], mask := f.mask }

/-- RET (R320). -/
def execRet (f : RForm) (s : State) : Host.Outcome State Fault Refusal :=
  issue (.ret f) (encRet f) s fun c s =>
    let vec := decide (f.a.toNat < 0x100)
    let ls := lanesOf c.w c.x
    let v := if vec then pairOf c.us f.a.toNat (ls.headD 0) else (sval s c f.a).toNat
    if vec && ls.any (fun l => pairOf c.us f.a.toNat l ≠ v) then raiseHere c 0x01 0 0 s
    else if v = 1 && c.inSub true then arrive (s.countCore c.core 0x03 1) c.u c.slot
    else jump c v (s.countCore c.core 0x03 1)

/-! ## Exit (R323) -/

/-- A unit has exited: it takes no trap, its pending pops are gone, and the pages assigned to it are no longer. -/
def exitUnit (s : State) (r : UnitRef) : State :=
  let s := dropProbes (allSlots.foldl (fun s k => freePort s r k) s) fun q => q = r
  let s := s.modUnit r fun u =>
    { u with exited := true, x := 0, handler := none, pending := [], replays := [], override := none, region := u.region.cleared }
  let s := s.modTeam r.team fun t => { t with pops := t.pops.filter fun p => p.1 ≠ r }
  closeFaults s fun e => e.assignee = r

/-- Lanes leave a group's masks (R323), and its causes that wait. -/
def exitLanes (u : UnitState) (em : W64) : UnitState :=
  { u with
    x := u.x &&& ~~~em
    region := { u.region with
      emask := u.region.emask &&& ~~~em, resid := u.region.resid &&& ~~~em, bmask := u.region.bmask &&& ~~~em
      subs := u.region.subs.map fun g => { g with xmask := g.xmask &&& ~~~em, arr := g.arr || (g.xmask &&& ~~~em) = 0 } }
    pending := (u.pending.map fun p => if p.level = 0 then { p with f := p.f &&& ~~~em, rep := { p.rep with em := p.rep.em &&& ~~~em } } else p).filter
      fun p => !(p.level = 0 && p.f = 0) }

/-- The requirements of EXIT (R282, R283). -/
def encExit (f : RForm) : Enc :=
  { ok := f.d = 0 && f.a = 0 && f.b = 0 && f.c = 0 && !f.fea && !f.feb && !f.fec && f.mod = 0 && f.lit.isNone
    uses := [], mask := f.mask, whole := true }

/-- EXIT (R323): in handler mode the whole group exits, whatever its mask, one that leaves no lane among them (log 93). -/
def execExit (f : RForm) (s : State) : Host.Outcome State Fault Refusal :=
  issue (.exit f) (encExit f) s fun c s =>
    let counted (s : State) : State := s.countCore c.core 0x03 1
    if c.caller || c.inHandler then exitUnit (counted s) c.u
    else
      let gone := c.us.pending.filter fun p => p.level = 0 && (p.f &&& ~~~c.em) = 0
      let s := s.modUnit c.u fun u => exitLanes u c.em
      let s := gone.foldl (fun s p => settleFull s c.u p.rep.acc p.rep.dst p.rep.regs) s
      match s.unit? c.u with
      | none => s
      | some u =>
        if u.live = 0 then exitUnit (counted s) c.u
        else if c.us.region.isOpen && u.xOf c.slot = 0 then arrive (counted s) c.u c.slot
        else advance c 1 s

/-! ## YIELD, NOP and WAITFE (R324) -/

/-- Every field zero. -/
def allZero (f : RForm) : Bool :=
  f.d = 0 && f.a = 0 && f.b = 0 && f.c = 0 && !f.fea && !f.feb && !f.fec && f.mask = 0 && f.mod = 0 && f.lit.isNone

/-- The requirements of YIELD (R282, R283). -/
def encYield (f : RForm) : Enc := { ok := allZero f, uses := [], mask := f.mask }

/-- YIELD (R324): its clause ends, and a switch is allowed after it. -/
def execYield (f : RForm) (s : State) : Host.Outcome State Fault Refusal :=
  issue (.yield f) (encYield f) s fun c s =>
    let s := if c.caller then s else s.modPort c.core (portOf c.u c.us) fun p => { p with lastYield := true }
    advance c 1 s

/-- The requirements of NOP (R282, R283). -/
def encNop (f : RForm) : Enc := { ok := allZero f, uses := [], mask := f.mask }

/-- NOP (R324). -/
def execNop (f : RForm) (s : State) : Host.Outcome State Fault Refusal :=
  issue (.nop f) (encNop f) s fun c s => advance c 1 s

/-- The requirements of WAITFE (R282, R283). -/
def encWaitfe (f : RForm) : Enc :=
  { ok := f.d = 0 && f.mod = 0 && f.lit.isNone
    uses := [Use.src f.a f.fea, Use.src f.b f.feb, Use.src f.c f.fec], mask := f.mask }

/-- WAITFE (R324): the registers named in A, B and C are waited for under R288. -/
def execWaitfe (f : RForm) (s : State) : Host.Outcome State Fault Refusal :=
  issue (.waitfe f) (encWaitfe f) s fun c s => advance c 1 s

end Sys2Proof.Machine
end

