-- ==== Sys2Proof/Machine/Flags.lean ====
section
/-! DEFINITION. Conditions and clamps: the part has no flags register, so what a comparison or a saturation computes is
a value (R314, R315, R346, R349): condition codes, saturation, and the reduction of an exact result to a width. -/

namespace Sys2Proof.Machine

/-- Condition codes of integer comparisons (R315, R349): 0 EQ, 1 NE, 2 LT, 3 LE, 4 GT, 5 GE. -/
def ccInt (cc : Nat) (a b : Int) : Bool :=
  match cc with
  | 0 => a = b
  | 1 => a ≠ b
  | 2 => a < b
  | 3 => a ≤ b
  | 4 => b < a
  | _ => b ≤ a

/-- Bounds of an integer type (R175). -/
def OpTy.minInt (t : OpTy) : Int := if t.sgn then -(2 ^ (t.w - 1)) else 0
def OpTy.maxInt (t : OpTy) : Int := if t.sgn then 2 ^ (t.w - 1) - 1 else 2 ^ t.w - 1

/-- An exact result clamped to the type's range (R314, R346). -/
def OpTy.clamp (t : OpTy) (r : Int) : Int := max t.minInt (min t.maxInt r)

/-- An exact result reduced to the type's width: saturated, or modulo 2^w (R314, R346). -/
def OpTy.reduce (t : OpTy) (sat : Bool) (r : Int) : Nat :=
  ((if sat then t.clamp r else r) % 2 ^ t.w).toNat

/-- A code extended to 64 bits: I32 by its sign, every other type with zeros (R314). -/
def OpTy.extend (t : OpTy) (v : Nat) : W64 :=
  if t.sgn then BitVec.ofInt 64 (signed t.w v) else BitVec.ofNat 64 v

/-- A code extended to the 32 bits of a vector register: signed types by their sign, others with zeros. -/
def OpTy.extend32 (t : OpTy) (v : Nat) : W32 :=
  if t.sgn then BitVec.ofInt 32 (signed t.w v) else BitVec.ofNat 32 v

end Sys2Proof.Machine
end

