-- ==== Sys2Proof/Machine/VectorInt.lean ====
section
/-! DEFINITION. Vector integer arithmetic, bit operations, comparison, selection, address arithmetic and moves
(R342 to R351, R365). -/

namespace Sys2Proof.Machine

/-! ## Shared shapes -/

/-- MOD bit 7 without a literal is a bit the entry does not use (R282). -/
def modLit (f : RForm) : Bool := litOk f && (!f.mod.getLsbD 7 || f.lit.isSome)

/-- B and FEB zero, C and FEC zero (R282). -/
def noB (f : RForm) : Bool := f.b = 0 && !f.feb && f.lit.isNone
def noC (f : RForm) : Bool := f.c = 0 && !f.fec

/-- The type named by TYPE of the R form; TYPE is checked before it is used. -/
def rType (f : RForm) : OpTy := (tyOf (mType f.mod)).getD default

/-- An operand whose width TYPE does not set: one vector register, or the low 32 bits of anything else (R343). -/
def n32 : OpTy := ⟨32, 1, false, none⟩

/-- The words a result occupies (R344). -/
def resultWords (t : OpTy) (v : Nat) : List W32 :=
  if t.w = 64 then words32 2 v else if t.fmt.isSome then [BitVec.ofNat 32 v] else [t.extend32 v]

/-- The requirements of a vector instruction with D and A of TYPE: `tys` the accepted TYPE codes, `nd` the registers of D
and what it accepts, the uses of B and C. -/
def encVec (f : RForm) (tys : List Nat) (ok : Bool) (d : Use) (rest : List Use) : Enc :=
  { ok := mType f.mod ∈ tys && modLit f && ok, cal := false
    uses := d :: Use.src f.a f.fea (rType f).regs :: rest, mask := f.mask, len := lenOf f.lit }

/-- D of TYPE's registers. -/
def dstTy (f : RForm) : Use := Use.dst f.d (rType f).regs

/-- B of TYPE's registers. -/
def srcB (f : RForm) : List Use := useB f (rType f).regs

/-- C of TYPE's registers. -/
def srcC (f : RForm) : Use := Use.src f.c f.fec (rType f).regs

/-- An integer instruction: each lane's result from its operand codes a, b and c, written under R344. -/
def vecInt (i : Instr) (f : RForm) (e : Enc) (r : OpTy → Nat → Nat → Nat → Nat) (s : State) :
    Host.Outcome State Fault Refusal :=
  issue i e s fun c s =>
    let t := rType f
    advance c e.len (writeVs c f.d (fun l =>
      resultWords t (r t (opnd s c f.a t l) (opndLit s c f.b f.lit t l) (opnd s c f.c t l))) s)

/-! ## Integer arithmetic (R346) -/

def rmZero (f : RForm) : Bool := mRm f.mod = 0
def satZero (f : RForm) : Bool := !mSat f.mod

/-- The requirements of R346's table. -/
def encArith (f : RForm) (tys : List Nat) (hasB hasC hasSat : Bool) : Enc :=
  encVec f tys (rmZero f && (hasSat || satZero f) && (hasB || noB f) && (hasC || noC f)) (dstTy f)
    ((if hasB then srcB f else []) ++ (if hasC then [srcC f] else []))

/-- The exact result r reduced under SAT (R346). -/
def arith (i : Instr) (f : RForm) (e : Enc) (r : OpTy → Int → Int → Int → Int) (s : State) :
    Host.Outcome State Fault Refusal :=
  vecInt i f e (fun t a b c => t.reduce (mSat f.mod) (r t (t.int a) (t.int b) (t.int c))) s

def allInt : List Nat := [0, 1, 2, 3, 4, 5, 6, 7]
def wordInt : List Nat := [0, 1, 2, 3]

/-- IADD (R346): a + b. -/
def execIadd (f : RForm) (s : State) : Host.Outcome State Fault Refusal :=
  arith (.iadd f) f (encArith f allInt true false true) (fun _ a b _ => a + b) s

/-- ISUB (R346): a - b. -/
def execIsub (f : RForm) (s : State) : Host.Outcome State Fault Refusal :=
  arith (.isub f) f (encArith f allInt true false true) (fun _ a b _ => a - b) s

/-- IMUL (R346): a × b. -/
def execImul (f : RForm) (s : State) : Host.Outcome State Fault Refusal :=
  arith (.imul f) f (encArith f allInt true false true) (fun _ a b _ => a * b) s

/-- IMULHI (R346): floor(a × b / 2^w). -/
def execImulhi (f : RForm) (s : State) : Host.Outcome State Fault Refusal :=
  arith (.imulhi f) f (encArith f wordInt true false false) (fun t a b _ => a * b / 2 ^ t.w) s

/-- IMAD (R346): a × b + c. -/
def execImad (f : RForm) (s : State) : Host.Outcome State Fault Refusal :=
  arith (.imad f) f (encArith f allInt true true true) (fun _ a b c => a * b + c) s

/-- IMIN (R346). -/
def execImin (f : RForm) (s : State) : Host.Outcome State Fault Refusal :=
  arith (.imin f) f (encArith f allInt true false false) (fun _ a b _ => min a b) s

/-- IMAX (R346). -/
def execImax (f : RForm) (s : State) : Host.Outcome State Fault Refusal :=
  arith (.imax f) f (encArith f allInt true false false) (fun _ a b _ => max a b) s

/-- IABS (R346): abs(a); the most negative value wraps to itself, or saturates. -/
def execIabs (f : RForm) (s : State) : Host.Outcome State Fault Refusal :=
  arith (.iabs f) f (encArith f [0, 2, 4, 6] false false true) (fun _ a _ _ => if a < 0 then -a else a) s

/-! ## Bit operations (R347, R348) -/

/-- The requirements of a bit operation: B of TYPE's registers, or one register where it is a count or position. -/
def encBit (f : RForm) (hasB : Bool) (countB : Bool) : Enc :=
  encVec f wordInt (rmZero f && satZero f && (hasB || noB f) && noC f) (dstTy f)
    (if hasB then (if countB then useB f else srcB f) else [])

/-- AND (R347). -/
def execAndV (f : RForm) (s : State) : Host.Outcome State Fault Refusal :=
  vecInt (.andV f) f (encBit f true false) (fun _ a b _ => a &&& b) s

/-- OR (R347). -/
def execOrV (f : RForm) (s : State) : Host.Outcome State Fault Refusal :=
  vecInt (.orV f) f (encBit f true false) (fun _ a b _ => a ||| b) s

/-- XOR (R347). -/
def execXorV (f : RForm) (s : State) : Host.Outcome State Fault Refusal :=
  vecInt (.xorV f) f (encBit f true false) (fun _ a b _ => a ^^^ b) s

/-- NOT (R347). -/
def execNotV (f : RForm) (s : State) : Host.Outcome State Fault Refusal :=
  vecInt (.notV f) f (encBit f false false) (fun t a _ _ => 2 ^ t.w - 1 - a) s

/-- An operation whose B is a count or position in one register (R347, R348). -/
def vecCount (i : Instr) (f : RForm) (e : Enc) (r : OpTy → Nat → Nat → Nat) (s : State) :
    Host.Outcome State Fault Refusal :=
  issue i e s fun c s =>
    let t := rType f
    advance c e.len (writeVs c f.d (fun l =>
      resultWords t (r t (opnd s c f.a t l) (opndLit s c f.b f.lit n32 l))) s)

/-- SHL (R347): (a × 2^n) mod 2^w, 0 when n reaches w. -/
def execShl (f : RForm) (s : State) : Host.Outcome State Fault Refusal :=
  vecCount (.shl f) f (encBit f true true) (fun t a b => if t.w ≤ b % 256 then 0 else a * 2 ^ (b % 256) % 2 ^ t.w) s

/-- SHR (R347): a as unsigned, floored. -/
def execShr (f : RForm) (s : State) : Host.Outcome State Fault Refusal :=
  vecCount (.shr f) f (encBit f true true) (fun _ a b => a / 2 ^ (b % 256)) s

/-- SAR (R347): a as signed, floored. -/
def execSar (f : RForm) (s : State) : Host.Outcome State Fault Refusal :=
  vecCount (.sar f) f (encBit f true true) (fun t a b => (signed t.w a / 2 ^ (b % 256) % 2 ^ t.w).toNat) s

/-- The field of R348: L bits from p of the extended value, extended from its top bit for I types. -/
def bitField (t : OpTy) (a p n : Nat) : Nat :=
  if n = 0 then 0
  else
    let v := (t.int a / 2 ^ p) % 2 ^ n
    let v := if t.sgn && 2 ^ (n - 1) ≤ v then v - 2 ^ n else v
    (v % 2 ^ t.w).toNat

/-- BFE (R348): p in bits 7:0 of B, L in bits 15:8. -/
def execBfe (f : RForm) (s : State) : Host.Outcome State Fault Refusal :=
  vecCount (.bfe f) f (encBit f true true) (fun t a b => bitField t a (b % 256) (b / 256 % 256)) s

/-- BFI's result (R348): bits p to min(p + L, w) - 1 of a replaced by the low bits of b. -/
def bitInsert (w a b p n : Nat) : Nat :=
  let k := min (p + n) w - p
  if w ≤ p then a else a - a / 2 ^ p % 2 ^ k * 2 ^ p + b % 2 ^ k * 2 ^ p

/-- The requirements of BFI (R282, R283). -/
def encBfi (f : RForm) : Enc :=
  encVec f wordInt (rmZero f && satZero f) (dstTy f) (srcB f ++ [Use.src f.c f.fec])

/-- BFI (R348): p in bits 7:0 of C, L in bits 15:8. -/
def execBfi (f : RForm) (s : State) : Host.Outcome State Fault Refusal :=
  let e := encBfi f
  issue (.bfi f) e s fun c s =>
    let t := rType f
    advance c e.len (writeVs c f.d (fun l =>
      let p := opnd s c f.c n32 l
      resultWords t (bitInsert t.w (opnd s c f.a t l) (opndLit s c f.b f.lit t l) (p % 256) (p / 256 % 256))) s)

/-- The requirements of POPC and CLZ (R282, R283). -/
def encCountOf (f : RForm) : Enc :=
  encVec f wordInt (rmZero f && satZero f && noB f && noC f) (Use.dst f.d) []

/-- POPC and CLZ: a single N32 result whatever TYPE is (R347). -/
def vecCountOf (i : Instr) (f : RForm) (r : Nat → Nat → Nat) (s : State) : Host.Outcome State Fault Refusal :=
  let e := encCountOf f
  issue i e s fun c s =>
    let t := rType f
    advance c e.len (writeV c f.d (fun l => BitVec.ofNat 32 (r t.w (opnd s c f.a t l))) s)

/-- POPC (R347). -/
def execPopc (f : RForm) (s : State) : Host.Outcome State Fault Refusal :=
  vecCountOf (.popc f) f (fun w a => (List.range w).countP fun k => a.testBit k) s

/-- CLZ (R347): zero bits above the highest 1 bit; w for 0. -/
def execClz (f : RForm) (s : State) : Host.Outcome State Fault Refusal :=
  vecCountOf (.clz f) f (fun w a => if a = 0 then w else w - 1 - a.log2) s

/-- Bit j moved to bit w - 1 - j (R347). -/
def bitReverse (w a : Nat) : Nat := (List.range w).foldl (fun r j => 2 * r + (if a.testBit j then 1 else 0)) 0

/-- BREV (R347). -/
def execBrev (f : RForm) (s : State) : Host.Outcome State Fault Refusal :=
  vecInt (.brev f) f (encBit f false false) (fun t a _ _ => bitReverse t.w a) s

/-! ## Comparison and selection (R349, R350) -/

/-- The requirements of ICMP (R282, R283). -/
def encIcmp (f : RForm) : Enc :=
  encVec f allInt (decide (bits f.mod 4 3 < 6) && noC f) (Use.dst f.d 1 .any) (srcB f)

/-- ICMP (R349): CC in MOD 6:4; a mask in a scalar D, 1 or 0 per lane in a vector D. -/
def execIcmp (f : RForm) (s : State) : Host.Outcome State Fault Refusal :=
  let e := encIcmp f
  issue (.icmp f) e s fun c s =>
    let t := rType f
    advance c e.len (writeMask c f.d (fun l =>
      ccInt (bits f.mod 4 3) (t.int (opnd s c f.a t l)) (t.int (opndLit s c f.b f.lit t l))) s)

/-- The width of an entry whose TYPE sets the width only: a pair for I64 and N64, else one whole register (R350). A
floating-point TYPE still gives specials their values (R286). -/
def widthType (t : OpTy) : OpTy := if t.w * t.els < 32 && t.fmt.isNone then { t with w := 32 } else t

/-- The words a copied operand supplies for a lane (R344, R350). -/
def copyWords (s : State) (c : Ctx) (spec : BitVec 9) (lit : Option W64) (t : OpTy) (lane : Nat) : List W32 :=
  match lit with
  | some v => words32 t.regs v.toNat
  | none =>
    if spec.toNat < 0x180 then dataWords s c spec t.regs lane
    else words32 t.regs (opnd s c spec (widthType t) lane)

/-- The requirements of SEL (R282, R283). -/
def encSel (f : RForm) : Enc :=
  encVec f (List.range 13) (rmZero f && satZero f) (dstTy f) (srcB f ++ [Use.src f.c f.fec])

/-- SEL (R350): a where bit l of a scalar C, or the lane's C, selects it; b elsewhere. -/
def execSel (f : RForm) (s : State) : Host.Outcome State Fault Refusal :=
  let e := encSel f
  issue (.sel f) e s fun c s =>
    let t := rType f
    advance c e.len (writeVs c f.d (fun l =>
      let pick := if f.c.toNat < 0x100 then c.us.vreg f.c.toNat l ≠ 0
        else if f.c.toNat < 0x180 then (c.us.sreg (f.c.toNat - 0x100)).getLsbD l
        else (special s c f.c l).getLsbD l
      if pick then copyWords s c f.a none t l else copyWords s c f.b f.lit t l) s)

/-- The requirements of LEA (R282, R283). -/
def encLea (f : RForm) : Enc :=
  { ok := decide (mType f.mod < 2) && rmZero f && satZero f && modLit f, cal := false
    uses := [Use.dst f.d 2, Use.src f.a f.fea 2] ++ useB f ++ [Use.src f.c f.fec], mask := f.mask, len := lenOf f.lit }

/-- LEA (R351): a + idx × 2^s modulo 2^64. -/
def execLea (f : RForm) (s : State) : Host.Outcome State Fault Refusal :=
  let e := encLea f
  issue (.lea f) e s fun c s =>
    let n64 : OpTy := ⟨64, 1, false, none⟩
    advance c e.len (writeVs c f.d (fun l =>
      let a := opnd s c f.a n64 l
      let idx := (rType f).int (opndLit s c f.b f.lit n32 l)
      let k := opnd s c f.c n32 l % 64
      words32 2 (((a : Int) + idx * 2 ^ k) % 2 ^ 64).toNat) s)

/-! ## Moves (R365) -/

/-- MOV (R365): bit-exact. -/
def execMov (f : RForm) (s : State) : Host.Outcome State Fault Refusal :=
  vecInt (.mov f) f (encBit f false false) (fun _ a _ _ => a) s

/-- The requirements of MOVI (R282, R283). -/
def encMovi (f : IForm) : Enc :=
  let n := if mType f.mod = 2 || mType f.mod = 3 then 2 else 1
  { ok := mType f.mod ∈ [0, 1, 2, 3, 8] && mRm f.mod = 0 && !mSat f.mod && litOkI f && f.a = 0 && !f.fea && !f.feb && !f.fec
    cal := false, uses := [Use.dst f.d n], mask := f.mask, len := lenOf f.lit }

/-- MOVI (R365): IMM18 sign-extended, or the literal's low bits. -/
def execMovi (f : IForm) (s : State) : Host.Outcome State Fault Refusal :=
  let n := if mType f.mod = 2 || mType f.mod = 3 then 2 else 1
  let e := encMovi f
  issue (.movi f) e s fun c s =>
    advance c e.len (writeVs c f.d (fun _ => words32 n (immS f).toNat) s)

/-- The requirements of MOVS (R282, R283). -/
def encMovs (f : RForm) : Enc :=
  let toScalar := decide (0x100 ≤ f.d.toNat)
  let n := (rType f).regs
  { ok := mType f.mod ∈ wordInt && rmZero f && satZero f && modLit f && noB f && noC f, cal := false
    uses := if toScalar then [Use.dst f.d 1 .reg, Use.src f.a f.fea n .vec] else [Use.dst f.d n, Use.src f.a f.fea 1 .sca]
    mask := f.mask }

/-- MOVS (R365): a scalar or special to every lane, or the lowest lane of EM to a scalar. -/
def execMovs (f : RForm) (s : State) : Host.Outcome State Fault Refusal :=
  let toScalar := decide (0x100 ≤ f.d.toNat)
  let n := (rType f).regs
  issue (.movs f) (encMovs f) s fun c s =>
    let t := rType f
    if toScalar then advance c 1 (writeS c f.d (t.extend (opnd s c f.a t (c.lanes.headD 0))) s)
    else advance c 1 (writeVs c f.d (fun l => words32 n (opnd s c f.a t l)) s)

end Sys2Proof.Machine
end

