-- ==== Sys2Proof/Machine/VectorFloat.lean ====
section
/-! DEFINITION. Vector floating-point instructions (R349, R350, R352 to R354, R359) and the policy on their results
(R183, R344). -/

namespace Sys2Proof.Machine

/-! ## Elements and results -/

def floatTypes : List Nat := [8, 9, 10]
def floatPacked : List Nat := [8, 9, 10, 11, 12]

/-- The format of a floating-point TYPE. -/
def OpTy.ff (t : OpTy) : Fmt := t.fmt.getD .f32

/-- Element `i` of an operand code. -/
def OpTy.elem (t : OpTy) (i v : Nat) : Nat := v / 2 ^ (t.w * i) % 2 ^ t.w

/-- Elements joined into one code. -/
def OpTy.join (t : OpTy) (es : List Nat) : Nat := es.foldr (fun e acc => e + acc * 2 ^ t.w) 0


/-- A floating-point result of every lane of EM: policy 2 is checked over all lanes before anything is written (R183,
R344). `codes l` gives the lane's results after RoundTo; `words` places the cleaned codes. -/
def finishFloat (c : Ctx) (e : Enc) (d : BitVec 9) (codes : Nat → List (Fmt × Nat)) (words : Nat → List Nat → List W32)
    (s : State) : State :=
  let pol := c.launch.nfpol
  let all := c.lanes.map fun l => (l, codes l)
  if all.any fun p => p.2.any fun q => traps pol q.1 q.2 then raiseHere c 0x10 0 0 s
  else
    let cleaned : Table (List Nat) := all.map fun p => (p.1, p.2.map fun q => policy pol q.1 q.2)
    advance c e.len (writeVs c d (fun l => words l (tget [] cleaned l)) s)

/-- An instruction on each element of its operands (R352): the result of each element, rounded under the mode. -/
def vecFloat (i : Instr) (f : RForm) (e : Enc) (r : Mode → Fmt → Num → Num → Num → Num) (s : State) :
    Host.Outcome State Fault Refusal :=
  issue i e s fun c s =>
    let t := rType f
    let m := modeOf (mRm f.mod)
    finishFloat c e f.d (fun l =>
      let a := opnd s c f.a t l
      let b := opndLit s c f.b f.lit t l
      let k := opnd s c f.c t l
      (List.range t.els).map fun j =>
        let v (x : Nat) : Num := valueOf t.ff (t.elem j x)
        (t.ff, roundTo t.ff (r m t.ff (v a) (v b) (v k)) m))
      (fun _ es => [BitVec.ofNat 32 (t.join es)]) s

/-- The requirements of R352's table. -/
def encFloat (f : RForm) (tys : List Nat) (hasB hasC hasRm : Bool) : Enc :=
  encVec f tys ((hasRm || rmZero f) && satZero f && (hasB || noB f) && (hasC || noC f)) (dstTy f)
    ((if hasB then srcB f else []) ++ (if hasC then [srcC f] else []))

/-- FADD (R352): RoundTo(t, a + b, m). -/
def execFadd (f : RForm) (s : State) : Host.Outcome State Fault Refusal :=
  vecFloat (.fadd f) f (encFloat f floatPacked true false true) (fun m _ a b _ => a.add m b) s

/-- FSUB (R352). -/
def execFsub (f : RForm) (s : State) : Host.Outcome State Fault Refusal :=
  vecFloat (.fsub f) f (encFloat f floatPacked true false true) (fun m _ a b _ => a.add m b.neg) s

/-- FMUL (R352). -/
def execFmul (f : RForm) (s : State) : Host.Outcome State Fault Refusal :=
  vecFloat (.fmul f) f (encFloat f floatPacked true false true) (fun _ _ a b _ => a.mul b) s

/-- FFMA (R352): one rounding of the exact a × b + c. -/
def execFfma (f : RForm) (s : State) : Host.Outcome State Fault Refusal :=
  vecFloat (.ffma f) f (encFloat f floatPacked true true true) (fun m _ a b k => (a.mul b).add m k) s

/-- FRND (R353): rounded to an integer with quantum 1; a zero keeps the sign of a, and an infinity stays. -/
def roundIntegral (m : Mode) (a : Num) : Num :=
  match a with
  | .fin n q =>
    let neg := (Num.fin n q).isNeg
    let mag : Rat := if q < 0 then -q else q
    let k := mkRat (roundInt mag m neg) 1
    .fin neg (if neg then -k else k)
  | x => x

/-- FRND (R353). -/
def execFrnd (f : RForm) (s : State) : Host.Outcome State Fault Refusal :=
  vecFloat (.frnd f) f (encFloat f floatPacked false false true) (fun m _ a _ _ => roundIntegral m a) s

/-! ## Minimum and maximum (R354) -/

/-- The order of R354: -0 lies below +0. -/
def numLt (a b : Num) : Bool :=
  match a.cmp b with
  | some .lt => true
  | some .eq => a.isNeg && !b.isNeg
  | _ => false

/-- FMIN and FMAX of two codes (R354): the code copied, and whether it is a result (the canonical NaN of two NaNs). -/
def minMaxCode (isMax : Bool) (f : Fmt) (a b : Nat) : Nat × Bool :=
  match valueOf f a, valueOf f b with
  | .nan, .nan => (nanCode f, true)
  | .nan, _ => (b, false)
  | _, .nan => (a, false)
  | x, y =>
    let less := numLt y x           -- b lies below a
    (if isMax then (if numLt x y then b else a) else (if less then b else a), false)

/-- FMIN and FMAX: copied operand bits, but for the NaN of two NaNs (R344, R354). -/
def vecMinMax (i : Instr) (f : RForm) (isMax : Bool) (s : State) : Host.Outcome State Fault Refusal :=
  let e := encFloat f floatPacked true false false
  issue i e s fun c s =>
    let t := rType f
    let pol := c.launch.nfpol
    let res (l : Nat) : List (Nat × Bool) := (List.range t.els).map fun j =>
      minMaxCode isMax t.ff (t.elem j (opnd s c f.a t l)) (t.elem j (opndLit s c f.b f.lit t l))
    if pol = 2 && c.lanes.any (fun l => (res l).any (·.2)) then raiseHere c 0x10 0 0 s
    else advance c e.len (writeV c f.d (fun l =>
      BitVec.ofNat 32 (t.join ((res l).map fun p => if p.2 then policy pol t.ff p.1 else p.1))) s)

/-- FMIN (R354). -/
def execFmin (f : RForm) (s : State) : Host.Outcome State Fault Refusal := vecMinMax (.fmin f) f false s

/-- FMAX (R354). -/
def execFmax (f : RForm) (s : State) : Host.Outcome State Fault Refusal := vecMinMax (.fmax f) f true s

/-! ## Comparison, classes and selection (R349, R350) -/

/-- The FCMP column of R349. -/
def ccFloat (cc : Nat) (a b : Num) : Bool :=
  match cc, a.cmp b with
  | 0, o => o = some .eq
  | 1, o => o ≠ some .eq
  | 2, o => o = some .lt
  | 3, o => o = some .lt || o = some .eq
  | 4, o => o = some .gt
  | 5, o => o = some .gt || o = some .eq
  | 6, o => o = none
  | _, o => o ≠ none

/-- The requirements of FCMP (R282, R283). -/
def encFcmp (f : RForm) : Enc :=
  encVec f floatTypes (noC f) (Use.dst f.d 1 .any) (srcB f)

/-- FCMP (R349). -/
def execFcmp (f : RForm) (s : State) : Host.Outcome State Fault Refusal :=
  let e := encFcmp f
  issue (.fcmp f) e s fun c s =>
    let t := rType f
    advance c e.len (writeMask c f.d (fun l =>
      ccFloat (bits f.mod 4 3) (valueOf t.ff (opnd s c f.a t l)) (valueOf t.ff (opndLit s c f.b f.lit t l))) s)

/-- The class number of a code (R350): 0 -∞ to 7 +∞ by value, 8 signalling NaN, 9 quiet NaN. -/
def classOf (f : Fmt) (c : Nat) : Nat :=
  match valueOf f c with
  | .nan => if c.testBit (f.prec - 2) then 9 else 8
  | .inf n => if n then 0 else 7
  | .fin n q =>
    let sub := decide (c % 2 ^ (f.width - 1) < 2 ^ (f.prec - 1))
    if q = 0 then (if n then 3 else 4)
    else if q < 0 then (if sub then 2 else 1)
    else if sub then 5 else 6

/-- The requirements of FCLASS (R282, R283). -/
def encFclass (f : RForm) : Enc :=
  encVec f floatTypes (rmZero f && satZero f && noB f && noC f) (Use.dst f.d) []

/-- FCLASS (R350). -/
def execFclass (f : RForm) (s : State) : Host.Outcome State Fault Refusal :=
  let e := encFclass f
  issue (.fclass f) e s fun c s =>
    let t := rType f
    advance c e.len (writeV c f.d (fun l => BitVec.ofNat 32 (2 ^ classOf t.ff (opnd s c f.a t l))) s)

/-- The requirements of FSEL (R282, R283). -/
def encFsel (f : RForm) : Enc :=
  encVec f floatTypes (rmZero f && satZero f && f.lit.isNone) (Use.dst f.d) [Use.src f.b f.feb, Use.src f.c f.fec]

/-- FSEL (R350): b where the class of a is named by bits 9:0 of C, else a; a copy. -/
def execFsel (f : RForm) (s : State) : Host.Outcome State Fault Refusal :=
  let e := encFsel f
  issue (.fsel f) e s fun c s =>
    let t := rType f
    advance c e.len (writeV c f.d (fun l =>
      let a := opnd s c f.a t l
      let pick := (opnd s c f.c n32 l).testBit (classOf t.ff a)
      BitVec.ofNat 32 (if pick then opnd s c f.b t l else a)) s)

/-! ## Short dot product (R359) -/

/-- DOT4 of integers: c + Σ aj × bj over four bytes. -/
def dotInt (sgn : Bool) (a b : Nat) (k : Int) : Int :=
  let byte (x j : Nat) : Int := if sgn then signed 8 (x / 2 ^ (8 * j)) else x / 2 ^ (8 * j) % 256
  (List.range 4).foldl (fun acc j => acc + byte a j * byte b j) k

/-- The requirements of DOT4 (R282, R283). -/
def encDot4 (f : RForm) : Enc :=
  let ty := mType f.mod
  let isInt := decide (ty = 6 ∨ ty = 7)
  { ok := ty ∈ [6, 7, 11, 12] && modLit f && (if isInt then rmZero f else satZero f), cal := false
    uses := [Use.dst f.d, Use.src f.a f.fea] ++ useB f ++ [Use.src f.c f.fec], mask := f.mask, len := lenOf f.lit }

/-- DOT4 (R359): I8 and N8 over four bytes with SAT; F16X2 and BF16X2 over two elements with one rounding. -/
def execDot4 (f : RForm) (s : State) : Host.Outcome State Fault Refusal :=
  let ty := mType f.mod
  let isInt := decide (ty = 6 ∨ ty = 7)
  let e := encDot4 f
  issue (.dot4 f) e s fun c s =>
    if isInt then
      let t : OpTy := ⟨32, 1, decide (ty = 6), none⟩
      advance c e.len (writeV c f.d (fun l =>
        t.extend32 (t.reduce (mSat f.mod)
          (dotInt t.sgn (opnd s c f.a n32 l) (opndLit s c f.b f.lit n32 l) (t.int (opnd s c f.c t l))))) s)
    else
      let t := rType f
      let m := modeOf (mRm f.mod)
      let tf : OpTy := ⟨32, 1, true, some .f32⟩
      finishFloat c e f.d (fun l =>
        let a := opnd s c f.a t l
        let b := opndLit s c f.b f.lit t l
        let v (x j : Nat) : Num := valueOf t.ff (t.elem j x)
        let p0 := (v a 0).mul (v b 0)
        let p1 := (v a 1).mul (v b 1)
        [(.f32, roundTo .f32 (((valueOf .f32 (opnd s c f.c tf l)).add m p0).add m p1) m)])
        (fun _ es => es.map (BitVec.ofNat 32)) s

end Sys2Proof.Machine
end

