-- ==== Sys2Proof/Machine/Convert.lean ====
section
/-! DEFINITION. Conversions between formats: CVT, SRND, PACK, UNPACK, QBLK and DQBLK (R185 to R188, R309, R355 to
R358). -/

namespace Sys2Proof.Machine

/-- What a 6-bit format code of R309 names. -/
inductive FCode where
  | num (f : Fmt)
  | packed (f : Fmt)
  | mxf4
  | mxi8
  deriving DecidableEq, Repr, Inhabited

/-- Format codes (R309). -/
def fmtCode (n : Nat) : Option FCode :=
  if n < 8 then (tyOf n).map fun t => .num (.int t.w t.sgn)
  else if n < 11 then (tyOf n).map fun t => .num t.ff
  else if n < 13 then (tyOf n).map fun t => .packed t.ff
  else if n = 13 then some (.num .e2m1)
  else if n = 14 then some (.num .e8m0)
  else if n = 15 then some .mxf4
  else if n = 16 then some .mxi8
  else if 0x20 ≤ n ∧ n < 0x3C then
    some (.num (.b8 ((n - 0x20) / 4 + 1) (decide ((n - 0x20) / 2 % 2 = 0)) (decide (n % 2 = 1))))
  else none

/-- Destination, source, RM and SAT of R309's layout. -/
def cvDst (f : RForm) : Option FCode := fmtCode (bits f.mod 0 6)
def cvSrc (f : RForm) : Option FCode := fmtCode (bits f.c 0 6)
def cvRm (f : RForm) : Nat := bits f.c 6 2
/-- C bit 45 and FEC zero (R309). -/
def cvC (f : RForm) : Bool := !f.c.getLsbD 8 && !f.fec

/-- How an operand of a format is read (R286, R343). -/
def Fmt.opTy : Fmt → OpTy
  | .int w sgn => ⟨w, 1, sgn, none⟩
  | .f32 => ⟨32, 1, true, some .f32⟩
  | .f16 => ⟨16, 1, true, some .f16⟩
  | .bf16 => ⟨16, 1, true, some .bf16⟩
  | f => ⟨f.width, 1, false, none⟩

/-- The words a code of a format occupies (R344). -/
def Fmt.place (f : Fmt) (v : Nat) : List W32 :=
  match f with
  | .int w sgn => resultWords ⟨w, 1, sgn, none⟩ v
  | _ => [BitVec.ofNat 32 v]

def Fmt.isFloat : Fmt → Bool
  | .int _ _ | .e8m0 => false
  | _ => true

/-- Destinations that accept SAT (R355). -/
def Fmt.takesSat : Fmt → Bool
  | .f32 | .f16 | .bf16 => true
  | .b8 _ _ ext => ext
  | _ => false

/-- The pairs of R185 and R355. -/
def cvtPair (d s : Fmt) : Bool :=
  d ≠ s && ((s.isFloat && (d.isFloat || d.isInt || d = .e8m0)) || (s.isInt && (d.isFloat || d.isInt)) ||
            (s = .e8m0 && d = .f32))

/-- The converted code (R185), with SAT's replacement of an overflow (R355), before the policy. -/
def convert (d s : Fmt) (m : Mode) (sat : Bool) (v : Nat) : Nat :=
  let x := valueOf s v
  if d = .e8m0 then roundE8M0 x m
  else
    let r := roundTo d x m
    match x, valueOf d r with
    | .fin _ _, .inf neg => if sat then cleanInf d neg else r
    | _, _ => r

/-- The requirements of CVT (R282, R283). -/
def encCvt (f : RForm) : Enc :=
  let d := match cvDst f with | some (.num x) => some x | _ => none
  let r := match cvSrc f with | some (.num x) => some x | _ => none
  let df := d.getD .f32
  let sf := r.getD .f32
  { ok := d.isSome && r.isSome && cvtPair df sf && cvC f && noB f && !f.mod.getLsbD 7 && (df.takesSat || !mSat f.mod)
    cal := false
    uses := [Use.dst f.d df.opTy.regs, Use.src f.a f.fea sf.opTy.regs], mask := f.mask }

/-- CVT (R355). -/
def execCvt (f : RForm) (s : State) : Host.Outcome State Fault Refusal :=
  let d := match cvDst f with | some (.num x) => some x | _ => none
  let r := match cvSrc f with | some (.num x) => some x | _ => none
  let df := d.getD .f32
  let sf := r.getD .f32
  let e := encCvt f
  issue (.cvt f) e s fun c s =>
    finishFloat c e f.d (fun l => [(df, convert df sf (modeOf (cvRm f)) (mSat f.mod) (opnd s c f.a sf.opTy l))])
      (fun _ es => df.place (es.headD 0)) s

/-- The lane key of R186 and R356. -/
def laneKey (c : Ctx) (l : Nat) : W32 :=
  BitVec.ofNat 32 (c.team.index * 2048 + c.u.grp.getD 0 * c.w + l)

/-- The requirements of SRND (R282, R283). -/
def encSrnd (f : RForm) : Enc :=
  let dst : Option (Fmt × Nat) :=
    match cvDst f with
    | some (.num .f16) => some (.f16, 1)
    | some (.num .bf16) => some (.bf16, 1)
    | some (.num .e2m1) => some (.e2m1, 1)
    | some (.num (.b8 p g x)) => some (.b8 p g x, 1)
    | some (.packed x) => some (x, 2)
    | _ => none
  let n := (dst.getD (.f16, 1)).2
  { ok := dst.isSome && cvSrc f = some (.num .f32) && cvRm f = 0 && cvC f && !mSat f.mod && modLit f, cal := false
    uses := [Use.dst f.d, Use.src f.a f.fea n] ++ useB f, mask := f.mask, len := lenOf f.lit }

/-- `n` F32 operands of a lane, from one register or an even pair: a special gives each of them its value (R286, R356, R357). -/
def f32Pair (s : State) (c : Ctx) (spec : BitVec 9) (n lane : Nat) : Nat :=
  let lo := opnd s c spec (Fmt.opTy .f32) lane
  if n ≠ 2 then lo
  else if spec.toNat < 0x180 then opnd s c spec ⟨64, 1, false, none⟩ lane
  else lo + lo * 2 ^ 32

/-- The values of a source of PACK (R357): `n` F32 or 32-bit integer operands. -/
def packSource (s : State) (c : Ctx) (sf : Fmt) (spec : BitVec 9) (n lane : Nat) : Nat :=
  if sf = .f32 then f32Pair s c spec n lane else opnd s c spec ⟨32 * n, 1, false, none⟩ lane

/-- The source of UNPACK (R357): a packed pair, in which a special stands for its value in both elements (R286), or four bytes. -/
def unpackSource (s : State) (c : Ctx) (sf : Fmt) (spec : BitVec 9) (n lane : Nat) : Nat :=
  opnd s c spec (if n = 2 then ⟨16, 2, true, some sf⟩ else n32) lane

/-- SRND (R356). -/
def execSrnd (f : RForm) (s : State) : Host.Outcome State Fault Refusal :=
  let dst : Option (Fmt × Nat) :=
    match cvDst f with
    | some (.num .f16) => some (.f16, 1)
    | some (.num .bf16) => some (.bf16, 1)
    | some (.num .e2m1) => some (.e2m1, 1)
    | some (.num (.b8 p g x)) => some (.b8 p g x, 1)
    | some (.packed x) => some (x, 2)
    | _ => none
  let df := (dst.getD (.f16, 1)).1
  let n := (dst.getD (.f16, 1)).2
  let e := encSrnd f
  issue (.srnd f) e s fun c s =>
    finishFloat c e f.d (fun l =>
      let a := f32Pair s c f.a n l
      let k := BitVec.ofNat 32 (opndLit s c f.b f.lit n32 l)
      (List.range n).map fun i => (df, srndTo df (valueOf .f32 (a / 2 ^ (32 * i) % 2 ^ 32)) (srndHash k (laneKey c l) i)))
      (fun _ es => [BitVec.ofNat 32 (es.foldr (fun x acc => x + acc * 2 ^ 16) 0)]) s

/-- The rows of R357 for PACK: element format, source format, elements per operand. -/
def packRow (f : RForm) : Option (Fmt × Fmt × Nat) :=
  match cvDst f, cvSrc f with
  | some (.packed x), some (.num .f32) => if !mSat f.mod || x.takesSat then some (x, .f32, 1) else none
  | some (.num (.b8 p g x)), some (.num .f32) => if !mSat f.mod || x then some (.b8 p g x, .f32, 2) else none
  | some (.num (.int 8 g)), some (.num (.int 32 h)) =>
    if cvRm f = 0 && !mSat f.mod then some (.int 8 g, .int 32 h, 2) else none
  | _, _ => none

/-- The requirements of PACK (R282, R283). -/
def encPack (f : RForm) : Enc :=
  let row := packRow f
  let n := (row.getD default).2.2
  { ok := row.isSome && cvC f && !f.mod.getLsbD 7 && f.lit.isNone, cal := false
    uses := [Use.dst f.d, Use.src f.a f.fea n, Use.src f.b f.feb n], mask := f.mask }

/-- PACK (R357). -/
def execPack (f : RForm) (s : State) : Host.Outcome State Fault Refusal :=
  let row := packRow f
  let df := (row.getD default).1
  let sf := (row.getD default).2.1
  let n := (row.getD default).2.2
  let e := encPack f
  issue (.pack f) e s fun c s =>
    finishFloat c e f.d (fun l =>
      ([f.a, f.b].flatMap fun r =>
        let x := packSource s c sf r n l
        (List.range n).map fun i => x / 2 ^ (32 * i) % 2 ^ 32).map fun x =>
          (df, convert df sf (modeOf (cvRm f)) (mSat f.mod) x))
      (fun _ es => [BitVec.ofNat 32 (es.foldr (fun x acc => x + acc * 2 ^ df.width) 0)]) s

/-- The rows of R357 for UNPACK: destination, element format, elements. -/
def unpackRow (f : RForm) : Option (Fmt × Fmt × Nat) :=
  match cvDst f, cvSrc f with
  | some (.num .f32), some (.packed x) => some (.f32, x, 2)
  | some (.num .f32), some (.num (.b8 p g x)) => some (.f32, .b8 p g x, 4)
  | some (.num (.int 32 true)), some (.num (.int 8 true)) => some (.int 32 true, .int 8 true, 4)
  | some (.num (.int 32 false)), some (.num (.int 8 false)) => some (.int 32 false, .int 8 false, 4)
  | _, _ => none

/-- The requirements of UNPACK (R282, R283). -/
def encUnpack (f : RForm) : Enc :=
  let row := unpackRow f
  let n := (row.getD default).2.2
  { ok := row.isSome && cvC f && cvRm f = 0 && !mSat f.mod && !f.mod.getLsbD 7 && noB f, cal := false
    uses := [Use.dst f.d n, Use.src f.a f.fea], mask := f.mask }

/-- UNPACK (R357). -/
def execUnpack (f : RForm) (s : State) : Host.Outcome State Fault Refusal :=
  let row := unpackRow f
  let df := (row.getD default).1
  let sf := (row.getD default).2.1
  let n := (row.getD default).2.2
  let e := encUnpack f
  issue (.unpack f) e s fun c s =>
    finishFloat c e f.d (fun l =>
      let x := unpackSource s c sf f.a n l
      (List.range n).map fun i => (df, convert df sf .rne false (x / 2 ^ (sf.width * i) % 2 ^ sf.width)))
      (fun _ es => es.map (BitVec.ofNat 32)) s

/-- The block of lanes 32j to 32j + 31 as F32 codes: a lane outside EM supplies +0 (R358). -/
def blockCodes (s : State) (c : Ctx) (spec : BitVec 9) (src : Fmt) (j : Nat) : List W32 :=
  (List.range 32).map fun i =>
    let l := 32 * j + i
    if c.em.getLsbD l then BitVec.ofNat 32 (opnd s c spec src.opTy l * (if src = .bf16 then 2 ^ 16 else 1)) else 0

/-- The requirements of QBLK (R282, R283). -/
def encQblk (f : RForm) : Enc :=
  let mx := cvDst f = some .mxi8
  { ok := (mx || cvDst f = some .mxf4) && (cvSrc f = some (.num .f32) || cvSrc f = some (.num .bf16)) && cvC f &&
          cvRm f = 0 && !mSat f.mod && !f.mod.getLsbD 7 && noB f
    cal := false, uses := [Use.dst f.d 2, Use.src f.a f.fea], mask := f.mask, minW := 32 }

/-- The source format of QBLK (R358). -/
def qblkSource (f : RForm) : Fmt := match cvSrc f with | some (.num .bf16) => .bf16 | _ => .f32

/-- QBLK (R358). -/
def execQblk (f : RForm) (s : State) : Host.Outcome State Fault Refusal :=
  let mx := cvDst f = some .mxi8
  let src := qblkSource f
  issue (.qblk f) (encQblk f) s fun c s =>
    let js := (List.range 2).filter fun j => c.lanes.any fun l => l / 32 = j
    let qs := js.map fun j => (j, quantise c.launch.nfpol mx (blockCodes s c f.a src j))
    if qs.any fun q => q.2.isNone then raiseHere c 0x10 0 0 s
    else
      let get (l : Nat) : Nat × List Nat := ((tget none qs (l / 32)).getD (0, []))
      advance c 1 (writeVs c f.d (fun l =>
        let code := (get l).2.getD (l % 32) 0
        [if mx then BitVec.ofInt 32 (signed 8 code) else BitVec.ofNat 32 code, BitVec.ofNat 32 (get l).1]) s)

/-- The requirements of DQBLK (R282, R283). -/
def encDqblk (f : RForm) : Enc :=
  let mx := cvSrc f = some .mxi8
  let df := match cvDst f with | some (.num x) => x | _ => .e2m1
  { ok := (mx || cvSrc f = some .mxf4) && (df = .f32 || df = .f16 || df = .bf16) && cvC f && !mSat f.mod &&
          !f.mod.getLsbD 7 && f.lit.isNone
    cal := false, uses := [Use.dst f.d, Use.src f.a f.fea, Use.src f.b f.feb], mask := f.mask }

/-- DQBLK (R358). -/
def execDqblk (f : RForm) (s : State) : Host.Outcome State Fault Refusal :=
  let mx := cvSrc f = some .mxi8
  let df := match cvDst f with | some (.num x) => x | _ => .e2m1
  let e := encDqblk f
  issue (.dqblk f) e s fun c s =>
    finishFloat c e f.d (fun l =>
      let x := blockValue mx (opnd s c f.b (Fmt.opTy .e8m0) l) (opnd s c f.a (if mx then Fmt.opTy (.int 8 true) else Fmt.opTy .e2m1) l)
      [(df, roundTo df x (modeOf (cvRm f)))])
      (fun _ es => [BitVec.ofNat 32 (es.headD 0)]) s

end Sys2Proof.Machine
end

