-- ==== Sys2Proof/Machine/Image.lean ====
section
/-! DEFINITION. Images and samplers (R384 to R389): TEX, TFETCH and IMST. -/

namespace Sys2Proof.Machine

/-! ## Reads that an instruction makes at issue -/

/-- Outcome of a read at issue: its bytes, a wait, or a cause with its TINFO bits. -/
inductive ReadAns where
  | ok (bs : Bytes)
  | wait
  | fault (cause : Byte) (info : W64)
  deriving DecidableEq, Repr, Inhabited

/-- A plain load of a unit at issue (R129, R134): `size` bytes, naturally aligned. One that its home parks keeps its place there, and
the unit is parked at the instruction (R136). With `home`, the acquire of a set of cores, it is read at its home (R161), as a
peer-table entry is, where a release has put it (R49; log 46). -/
def readAtIssue (c : Ctx) (va size : Nat) (s : State) (home : Option (List Nat) := none) : ReadAns × State :=
  match translate c.team.wins c.secure .read va size with
  | .error k => (.fault k atIssue, s)
  | .ok ia =>
    if (homeSlice ia).isNone then (.fault 0x06 atIssue, s)
    else if redAhead s c.core ia s.nextId || (!c.again && overlaps s c.u true [(ia, size)]) then (.wait, s)
    else
      match scalarHome c false ia va size s with
      | .parked s => (.wait, s)
      | .fault k st s => (.fault k (BitVec.ofNat 64 (st * 1024)), s)
      | .ok s =>
        let s := dropBadLine s c.core (lineOf ia)
        if (if home.isSome then acquireBad s c.core ia size else loadBad s c.core ia size) then (.fault 0x0A 1024, s)
        else
          let (bs, s) := match home with | some cs => acquireRead s c.core ia size cs | none => coreRead s c.core ia size 0
          (.ok bs, s)

/-- A plain load of one lane by an engine that acts for access `id` (R129, R134, R135): what its home parks keeps the lane waiting, and
not its unit (R117, R393). With `home` it is read at its home, as the acquire of a set of cores (R161). -/
def laneRead (c : Ctx) (id va size : Nat) (s : State) (home : Option (List Nat) := none) :
    ReadAns × Option (Nat × Option ParkPlace) × State :=
  match translate c.team.wins c.secure .read va size with
  | .error k => (.fault k atIssue, none, s)
  | .ok ia =>
    if (homeSlice ia).isNone then (.fault 0x06 atIssue, none, s)
    else if redAhead s c.core ia id || olderOpen s c.u id ia size then (.wait, some (ia, none), s)
    else
      match homeCheck s c.u c.secure false ia with
      | (.park w, s) => (.wait, some (ia, some w), s)
      | (.fault k st, s) => (.fault k (BitVec.ofNat 64 (st * 1024)), none, s)
      | (.ok, s) =>
        let s := dropBadLine s c.core (lineOf ia)
        if (if home.isSome then acquireBad s c.core ia size else loadBad s c.core ia size) then (.fault 0x0A 1024, none, s)
        else
          let (bs, s) := match home with | some cs => acquireRead s c.core ia size cs | none => coreRead s c.core ia size 0
          (.ok bs, some (ia, none), s)

/-- A refused uniform read is a lane-level fault with F = EM (R389, R392), and a caller trap in the caller stream. A long-latency
destination, here with its registers, is empty until the replay writes it back (R121, R317; log 87). -/
def raiseUniform (c : Ctx) (cause : Byte) (info : W64) (va len : Nat) (s : State) (dst : Option (Nat × Nat) := none) : State :=
  if c.caller then takeTrap s c.u c.slot { cause := cause, level := 3, f := 0, addr := BitVec.ofNat 64 va, info := info, rep := c.rep }
  else
    let (id, s) := s.fresh
    let s := match dst with | some (d, n) => s.modUnit c.u fun u => u.mark d n true | none => s
    finishAccess c len true (addPending s c.u
      { cause := cause, level := 0, f := c.em, addr := BitVec.ofNat 64 va, info := info
        rep := repFor c id (dst.map (·.1)) (match dst with | some p => p.2 | none => 0) })

/-! ## Descriptors (R384 to R386) -/

structure ImageDesc where
  base : Nat
  dim : Nat
  w : Nat
  h : Nat
  d : Nat
  levels : Nat
  fmt : Nat
  write : Bool
  deriving DecidableEq, Repr, Inhabited

/-- An image descriptor (R384); none where a reserved bit or an invalid code is set. -/
def imageDesc (x : BitVec 128) : Option ImageDesc :=
  let r : ImageDesc :=
    { base := bits x 0 57, dim := bits x 57 2, w := bits x 64 14 + 1, h := bits x 78 14 + 1, d := bits x 92 11 + 1
      levels := bits x 103 4 + 1, fmt := bits x 107 4, write := x.getLsbD 111 }
  if bits x 59 5 ≠ 0 || bits x 112 16 ≠ 0 || r.dim = 3 || r.base % 256 ≠ 0 || 8 ≤ r.fmt ||
     (r.dim = 0 && r.h ≠ 1) || (r.dim < 2 && r.d ≠ 1) then none
  else some r

/-- Bytes of a texel (R385). -/
def texelBytes (fmt : Nat) : Nat :=
  match fmt with
  | 0 => 1 | 1 => 4 | 2 => 2 | 3 => 8 | 4 => 4 | 5 => 8 | 6 => 16 | _ => 4

def levelDim (n m : Nat) : Nat := max 1 (n / 2 ^ m)

/-- Row pitch of a level (R385). -/
def ImageDesc.pitch (i : ImageDesc) (m : Nat) : Nat := ceilDiv (levelDim i.w m * texelBytes i.fmt) 256 * 256

/-- Size of a level (R385). -/
def ImageDesc.levelSize (i : ImageDesc) (m : Nat) : Nat := i.pitch m * levelDim i.h m * levelDim i.d m

/-- Address of texel (x, y, z) of level m (R385). -/
def ImageDesc.addr (i : ImageDesc) (m x y z : Nat) : Nat :=
  (i.base + ((List.range m).map i.levelSize).foldl (· + ·) 0 + (z * levelDim i.h m + y) * i.pitch m + x * texelBytes i.fmt) % 2 ^ 64

def f32One : W32 := 0x3F800000

/-- An 8-bit UNORM channel as F32. -/
def unormVal (c : Nat) : W32 := f32Round (Num.ofRat (mkRat c 255))

/-- An F16 code as F32, exactly. -/
def halfVal (c : Nat) : W32 := f32Round (valueOf .f16 c)

/-- The value a texel is read as (R385). -/
def texelValue (fmt : Nat) (bs : Bytes) : List W32 :=
  let b (i : Nat) : Nat := (bs.getD i 0).toNat
  let h (i : Nat) : Nat := b (2 * i) + 256 * b (2 * i + 1)
  let w (i : Nat) : W32 := BitVec.ofNat 32 (natOf ((bs.drop (4 * i)).take 4))
  match fmt with
  | 0 => [unormVal (b 0), 0, 0, f32One]
  | 1 => [unormVal (b 0), unormVal (b 1), unormVal (b 2), unormVal (b 3)]
  | 2 => [halfVal (h 0), 0, 0, f32One]
  | 3 => [halfVal (h 0), halfVal (h 1), halfVal (h 2), halfVal (h 3)]
  | 4 => [w 0, 0, 0, f32One]
  | 5 => [w 0, w 1, 0, f32One]
  | 6 => [w 0, w 1, w 2, w 3]
  | _ => [w 0, 0, 0, 0]

structure SamplerDesc where
  magl : Bool
  minl : Bool
  mip : Nat
  modes : List Nat
  border : Nat
  bias : Int
  minlod : Nat
  maxlod : Nat
  deriving DecidableEq, Repr, Inhabited

/-- A sampler descriptor (R386); none where a reserved bit, an invalid code, or MAXLOD below MINLOD is found. -/
def samplerDesc (x : BitVec 128) : Option SamplerDesc :=
  let r : SamplerDesc :=
    { magl := x.getLsbD 0, minl := x.getLsbD 1, mip := bits x 2 2, modes := [bits x 4 2, bits x 6 2, bits x 8 2]
      border := bits x 10 2, bias := signed 16 (bits x 16 16), minlod := bits x 32 16, maxlod := bits x 48 16 }
  if bits x 12 4 ≠ 0 || bits x 64 64 ≠ 0 || r.mip = 3 || r.border = 3 || r.maxlod < r.minlod then none else some r

/-- Index i on an axis of size n under an address mode (R387); none for a border texel. -/
def mapIndex (mode n : Nat) (i : Int) : Option Nat :=
  match mode with
  | 0 => some (min (max i 0) (n - 1)).toNat
  | 1 => some (i % n).toNat
  | 2 =>
    let j := (i % (2 * n)).toNat
    some (if j < n then j else 2 * n - 1 - j)
  | _ => if 0 ≤ i && i < n then some i.toNat else none

/-- The colour of a border texel (R386). -/
def borderValue (code : Nat) : List W32 :=
  match code with
  | 0 => [0, 0, 0, 0]
  | 1 => [0, 0, 0, f32One]
  | _ => [f32One, f32One, f32One, f32One]

/-! ## Reading texels -/

/-- Reads made so far, and what stopped them. Those of a lane are made for access `id`, and wait at a place (none: behind an earlier
access); the others are the unit's. -/
structure TexRun where
  s : State
  stop : Option ReadAns
  addr : Nat
  id : Option Nat := none
  lane : Nat := 0
  part : Nat := 0
  place : Nat × Option ParkPlace := (0, none)

/-- One read, unless an earlier one was stopped. -/
def TexRun.read (c : Ctx) (va size : Nat) (r : TexRun) : Bytes × TexRun :=
  if r.stop.isSome then ([], r)
  else
    match r.id with
    | some id =>
      match laneRead c id va size r.s with
      | (.ok bs, p, s) =>
        let ia := (p.getD (0, none)).1
        (bs, { r with s := noteRead s c.u ⟨id, r.lane, r.part, ia, size⟩ })
      | (k, p, s) => ([], { r with s := s, stop := some k, addr := va, place := p.getD (0, none) })
    | none =>
      match readAtIssue c va size r.s with
      | (.ok bs, s) => (bs, { r with s := s })
      | (k, s) => ([], { r with s := s, stop := some k, addr := va })

/-- One texel of a lane (R389). -/
def readTexel (c : Ctx) (i : ImageDesc) (m x y z : Nat) (r : TexRun) : List W32 × TexRun :=
  let (bs, r) := r.read c (i.addr m x y z) (texelBytes i.fmt)
  (texelValue i.fmt bs, r)

/-- One interpolation step of R387 on a channel: RoundTo(F32, t0 × (1 - f) + t1 × f). -/
def lerp (t0 t1 : W32) (f : Rat) : W32 :=
  f32Round (((f32Val t0).mul (Num.ofRat (1 - f))).add .rne ((f32Val t1).mul (Num.ofRat f)))

def lerp4 (f : Rat) (a b : List W32) : List W32 := (a.zip b).map fun p => lerp p.1 p.2 f

/-- An axis of a sample: the first index, and the fraction, which is 0 for a nearest filter (R387). -/
def axisIndex (linear : Bool) (coord : Rat) (n : Nat) : Int × Rat :=
  if linear then
    let x := coord * mkRat n 1 - mkRat 1 2
    let i0 := x.floor
    let f := x - mkRat i0 1
    (i0, mkRat (roundInt (f * 256) .rne false) 256)
  else ((coord * mkRat n 1).floor, 0)

/-- A sample at a corner of the axes that are left to interpolate, from the last axis to the first: along x first, then y,
then z. Both indices of an axis are read and interpolated, whatever the filter (R387). -/
def sampleAxes (c : Ctx) (i : ImageDesc) (sm : SamplerDesc) (m : Nat) :
    List (Nat × Nat × (Int × Rat)) → List (Option Nat) → TexRun → List W32 × TexRun
  | [], idx, r =>
    match idx.getD 0 (some 0), idx.getD 1 (some 0), idx.getD 2 (some 0) with
    | some x, some y, some z => readTexel c i m x y z r
    | _, _, _ => (borderValue sm.border, r)
  | (mode, n, (i0, f)) :: rest, idx, r =>
    let (a, r) := sampleAxes c i sm m rest (mapIndex mode n i0 :: idx) r
    let (b, r) := sampleAxes c i sm m rest (mapIndex mode n (i0 + 1) :: idx) r
    (lerp4 f a b, r)

/-- A level's sample (R387). -/
def sampleLevel (c : Ctx) (i : ImageDesc) (sm : SamplerDesc) (linear : Bool) (coords : List Rat) (m : Nat) (r : TexRun) :
    List W32 × TexRun :=
  let dims := [levelDim i.w m, levelDim i.h m, levelDim i.d m]
  let axes := (List.range (i.dim + 1)).map fun k => (sm.modes.getD k 0, dims.getD k 1, axisIndex linear (coords.getD k 0) (dims.getD k 1))
  sampleAxes c i sm m axes.reverse [] r

/-- A lane's sample (R387). -/
def sample (c : Ctx) (i : ImageDesc) (sm : SamplerDesc) (coords : List Rat) (lod : Option Rat) (r : TexRun) :
    List W32 × TexRun :=
  let l0 := lod.getD 0 + mkRat sm.bias 256
  let lo : Rat := mkRat sm.minlod 256
  let hi : Rat := mkRat sm.maxlod 256
  let l := if l0 < lo then lo else if hi < l0 then hi else l0
  let linear := if l ≤ 0 then sm.magl else sm.minl
  let l : Rat := if l < 0 then 0 else l
  let k := i.levels
  let m0 := match sm.mip with
    | 0 => 0
    | 1 => min (l + mkRat 1 2).floor.toNat (k - 1)
    | _ => min l.floor.toNat (k - 1)
  let g : Rat := if sm.mip = 2 && m0 ≠ k - 1 then f32Rat (f32Round (Num.ofRat (l - mkRat m0 1))) else 0
  let (a, r) := sampleLevel c i sm linear coords m0 r
  if g = 0 then (a, r)
  else
    let (b, r) := sampleLevel c i sm linear coords (min (m0 + 1) (k - 1)) r
    (lerp4 g a b, r)

/-! ## The instructions -/

/-- Registers A, A + 1, ... that the descriptor's dimension calls for: legal, allocated and full, or the gate that stops
the instruction (R283, R387, R388). -/
def coordGate (c : Ctx) (a : BitVec 9) (fe : Bool) (n : Nat) : Gate :=
  if 256 < a.toNat + n then .illegal
  else if c.launch.budget.vregs < a.toNat + n then .budget
  else if (gateUnit c).isEmpty a.toNat n then (if fe then .empty else .wait)
  else .go

/-- A refused descriptor read (R389): a lane-level fault with F = EM. The group has parked for the read, nothing is empty, and it stays
where it is until the cause is delivered (log 87). -/
def raiseDescriptor (c : Ctx) (cause : Byte) (info : W64) (va : Nat) (s : State) : State :=
  let s := freePort (raiseUniform c cause info va 1 s) c.u c.slot
  s.modUnit c.u fun u =>
    if u.handler.isSome || u.exited then u
    else u.modThread c.slot fun th => if th.park = .none then { th with park := .trap, run := false } else th

/-- The first descriptor of an image instruction (R389), after the unit's earlier acquires (R161), and then `body`. -/
def withImage (c : Ctx) (f : RForm) (extra : Nat) (image : ImageDesc → Bool) (body : ImageDesc → Bytes → State → State) (s : State) : State :=
  let va := (sval s c f.b).toNat
  if acquiring s c.u then parkAt c .retry s
  else
  match readAtIssue c va 16 s with
  | (.wait, s) => parkAt c .retry s
  | (.fault k i, s) => raiseDescriptor c k i va s
  | (.ok bs, s) =>
    match imageDesc (BitVec.ofNat 128 (natOf bs)) with
    | none => raiseHere c 0x07 0 0 s
    | some i =>
      if !image i then raiseHere c 0x07 0 0 s
      else
        match coordGate c f.a f.fea (i.dim + 1 + extra) with
        | .illegal => raiseHere c 0x01 0 0 s
        | .budget => raiseHere c 0x03 0 0 s
        | .empty => raiseHere c 0x04 0 0 s
        | .wait => parkAt c .retry s
        | _ => body i bs s

/-- A lane of an engine that waits at an address, and where it is parked. -/
structure HeldLane where
  lane : Nat
  va : Nat
  ia : Nat
  w : Option ParkPlace
  deriving DecidableEq, Repr, Inhabited

/-- Whether a lane that waits is parked at its home. -/
def HeldLane.status (h : HeldLane) : LaneStatus := if h.w.isSome then .parked else .waiting

/-- A PCNT or VPIN that waits for a page: its destination is empty, its operands are kept, and its unit goes on (R117, R393). -/
def queueRequest (c : Ctx) (d : Nat) (scal : List W64) (size : Nat) (h : HeldLane) (s : State) : State :=
  let (id, s) := s.fresh
  let s : State := { s with inflight := s.inflight ++ [
    { id := id, u := c.u, core := c.core, kind := .request, dst := some d, regs := 1, scope := 3, hint := 0
      pol := c.launch.nfpol, rep := repFor c id (some d) 1, uni := true, heldS := scal
      lanes := [⟨0, h.va, h.ia, size, [], [], h.status⟩] }] }
  let s := match h.w with | some w => parkLane s w id 0 | none => s
  advance c 1 (s.modUnit c.u fun u => u.mark d 1 true)

/-- The lanes of an engine's read for access `id`, in ascending order: what each gives, the refusals, and the lanes that wait, each by
itself (R135, R389). -/
def engineLanes {α : Type} (lanes : List Nat) (id : Nat) (read : Nat → TexRun → α × TexRun) (s : State) :
    List (Nat × α) × List (Byte × W64 × Nat × W64) × List HeldLane × State :=
  lanes.foldl (fun (p : List (Nat × α) × List (Byte × W64 × Nat × W64) × List HeldLane × State) l =>
    let (v, r) := read l { s := p.2.2.2, stop := none, addr := 0, id := some id, lane := l }
    match r.stop with
    | some (.fault k i) => (p.1, p.2.1 ++ [(k, 1#64 <<< l, r.addr, i)], p.2.2.1, r.s)
    | some .wait => (p.1, p.2.1, p.2.2.1 ++ [⟨l, r.addr, r.place.1, r.place.2⟩], r.s)
    | _ => (p.1 ++ [(l, v)], p.2.1, p.2.2.1, r.s)) ([], [], [], s)

/-- The lanes of a texture read. -/
def texLanes (c : Ctx) (read : Nat → TexRun → List W32 × TexRun) (s : State) :
    List (Nat × List W32) × List (Byte × W64 × Nat × W64) × List HeldLane × State :=
  engineLanes c.lanes s.nextId read s

/-- What an engine keeps of its operands while a lane of it waits: registers of its group by their first and number, scalars, and the
records that it has read. -/
structure Operands where
  vec : List (Nat × Nat) := []
  scal : List W64 := []
  record : List Bytes := []
  feats : Option (Nat × Nat × Nat) := none

/-- A long-latency result: D is empty until write-back (R117). Lanes that wait keep the operands of their engine, and the whole result
is completed with the last of them (`completeEngine`). -/
def holdResult (c : Ctx) (d regs len : Nat) (lanes : List (Nat × List W32)) (errs : List (Byte × W64 × Nat × W64)) (s : State)
    (held : List HeldLane := []) (o : Operands := {}) : State :=
  let (id, s) := s.fresh
  let rep := repFor c id (some d) regs
  let words : Table W32 := held.foldl (fun t h => (o.vec.flatMap fun p => (List.range p.2).map (p.1 + ·)).foldl
    (fun t r => tset 0 t (64 * r + h.lane) (c.us.vreg r h.lane)) t) []
  let all : List LaneAcc := lanes.map (fun p => ⟨p.1, 0, 0, 0, [], [], .done p.2⟩) ++
    held.map fun h => ⟨h.lane, h.va, h.ia, 1, [], [], h.status⟩
  let s := if all = [] then s
    else { s with inflight := s.inflight ++ [
      { id := id, u := c.u, core := c.core, kind := .unit, dst := some d, regs := regs, scope := 0, hint := 0
        pol := c.launch.nfpol, rep := rep, uni := false, lanes := all, feats := o.feats
        held := words, heldS := if held = [] then [] else o.scal, record := if held = [] then [] else o.record }] }
  let s := held.foldl (fun s h => match h.w with | some w => parkLane s w id h.lane | none => s) s
  let s := s.modUnit c.u fun u => u.mark d regs true
  finishAccess c len false (raiseLanes c rep errs s)

/-- The requirements of TEX (R282, R283). -/
def encTex (f : RForm) : Enc :=
  { ok := bits f.mod 1 7 = 0 && f.lit.isNone, cal := false
    uses := [Use.dst f.d 4, Use.src f.a f.fea 1 .vec, Use.src f.b f.feb 1 .reg, Use.src f.c f.fec 1 .reg], mask := f.mask }

/-- The sample of a lane of a TEX (R387). -/
def texLane (c : Ctx) (f : RForm) (i : ImageDesc) (sm : SamplerDesc) (l : Nat) (r : TexRun) : List W32 × TexRun :=
  let num (r : Nat) : Rat := f32Rat (c.us.vreg r l)
  sample c i sm ((List.range (i.dim + 1)).map fun k => num (f.a.toNat + k))
    (if f.mod.getLsbD 0 then some (num (f.a.toNat + i.dim + 1)) else none) r

/-- TEX (R387). -/
def execTex (f : RForm) (s : State) : Host.Outcome State Fault Refusal :=
  let lod := f.mod.getLsbD 0
  issue (.tex f) (encTex f) s fun c s =>
    withImage c f (if lod then 1 else 0) (fun i => i.fmt ≠ 7) (fun i img s =>
      let va := (sval s c f.c).toNat
      match readAtIssue c va 16 s with
      | (.wait, s) => parkAt c .retry s
      | (.fault k x, s) => raiseDescriptor c k x va s
      | (.ok bs, s) =>
        match samplerDesc (BitVec.ofNat 128 (natOf bs)) with
        | none => raiseHere c 0x07 0 0 s
        | some sm =>
          let (lanes, errs, held, s) := texLanes c (texLane c f i sm) s
          if held = [] && lanes.any (fun p => p.2.any fun v => traps c.launch.nfpol .f32 v.toNat) then raiseHere c 0x10 0 0 s
          else
            let clean (v : W32) : W32 := BitVec.ofNat 32 (policy c.launch.nfpol .f32 v.toNat)
            holdResult c f.d.toNat 4 1 (lanes.map fun p => (p.1, p.2.map clean)) errs s held
              { vec := [(f.a.toNat, i.dim + 2)], record := [img, bs] }) s

/-- A texel's coordinates and level, when in range (R388). -/
def texelAt (s : State) (c : Ctx) (f : RForm) (i : ImageDesc) (l : Nat) : Option (Nat × Nat × Nat × Nat) :=
  let co (k : Nat) : Nat := if i.dim < k then 0 else (c.us.vreg (f.a.toNat + k) l).toNat
  let m := opnd s c f.c n32 l
  if m < i.levels && co 0 < levelDim i.w m && co 1 < levelDim i.h m && co 2 < levelDim i.d m then some (m, co 0, co 1, co 2)
  else none

/-- The requirements of TFETCH (R282, R283). -/
def encTfetch (f : RForm) : Enc :=
  { ok := f.mod = 0 && f.lit.isNone, cal := false
    uses := [Use.dst f.d 4, Use.src f.a f.fea 1 .vec, Use.src f.b f.feb 1 .reg, Use.src f.c f.fec], mask := f.mask }

/-- The texel of a lane of a TFETCH (R388). -/
def fetchLane (s : State) (c : Ctx) (f : RForm) (i : ImageDesc) (l : Nat) (r : TexRun) : List W32 × TexRun :=
  match texelAt s c f i l with
  | some (m, x, y, z) => readTexel c i m x y z r
  | none => ([0, 0, 0, 0], r)

/-- TFETCH (R388). -/
def execTfetch (f : RForm) (s : State) : Host.Outcome State Fault Refusal :=
  issue (.tfetch f) (encTfetch f) s fun c s =>
    withImage c f 0 (fun _ => true) (fun i img s =>
      let (lanes, errs, held, s) := texLanes c (fetchLane s c f i) s
      let level := if f.c.toNat < 0x100 then [(f.c.toNat, 1)] else []
      holdResult c f.d.toNat 4 1 lanes errs s held
        { vec := (f.a.toNat, i.dim + 1) :: level, scal := [sval s c f.c], record := [img] }) s

/-- A UNORM channel (R388): RoundTo(N8, clamp(v, 0, 1) × 255), a NaN giving 0. -/
def unormCode (v : W32) : Nat :=
  match f32Val v with
  | .nan => 0
  | .inf n => if n then 0 else 255
  | .fin _ q => roundTo (.int 8 false) (Num.ofRat ((if q < 0 then 0 else if 1 < q then 1 else q) * 255)) .rne

/-- The channels IMST stores (R388), with the codes that meet R183. -/
def storeTexel (fmt : Nat) (v : List W32) : List (Fmt × Nat) :=
  let u (k : Nat) : Fmt × Nat := (.int 8 false, unormCode (v.getD k 0))
  let h (k : Nat) : Fmt × Nat := (.f16, roundTo .f16 (f32Val (v.getD k 0)) .rne)
  let w (k : Nat) : Fmt × Nat := (.f32, (v.getD k 0).toNat)
  match fmt with
  | 0 => [u 0]
  | 1 => [u 0, u 1, u 2, u 3]
  | 2 => [h 0]
  | 3 => [h 0, h 1, h 2, h 3]
  | 4 => [w 0]
  | 5 => [w 0, w 1]
  | 6 => [w 0, w 1, w 2, w 3]
  | _ => [(.int 32 false, (v.getD 0 0).toNat)]

/-- The requirements of IMST (R282, R283). -/
def encImst (f : RForm) : Enc :=
  { ok := f.mod = 0 && f.lit.isNone, cal := false
    uses := [Use.imp f.d 4 .vec, Use.src f.a f.fea 1 .vec, Use.src f.b f.feb 1 .reg, Use.src f.c f.fec], mask := f.mask }

/-- IMST (R388): a plain store of each lane's texel. -/
def execImst (f : RForm) (s : State) : Host.Outcome State Fault Refusal :=
  issue (.imst f) (encImst f) s fun c s =>
    withImage c f 0 (fun i => i.write) (fun i _ s =>
      let n := texelBytes i.fmt
      let pol := c.launch.nfpol
      let vals : List (Nat × Nat × List (Fmt × Nat)) := c.lanes.filterMap fun l =>
        (texelAt s c f i l).map fun t => (l, i.addr t.1 t.2.1 t.2.2.1 t.2.2.2, storeTexel i.fmt (dataWords s c f.d 4 l))
      if vals.any fun p => p.2.2.any fun q => traps pol q.1 q.2 then raiseHere c 0x10 0 0 s
      else
        let code (q : List (Fmt × Nat)) : Nat := q.foldr (fun x acc => policy pol x.1 x.2 + acc * 2 ^ x.1.width) 0
        let reqs : List LaneReq := vals.map fun p => ⟨p.1, p.2.1, words32 4 (code p.2.2), []⟩
        let (good, bad) := translateLanes c .write n false reqs
        if !c.again && overlaps s c.u true (good.map fun q => (q.2, n)) then parkAt c .retry s
        else storeLanes c false n 0 false 0 1 good bad s) s

end Sys2Proof.Machine
end

