-- ==== Sys2Proof/Machine/Net.lean ====
section
/-! DEFINITION. The RoCEv2 requester and what its failures do (R35 to R39, R43, R49 to R53). -/

namespace Sys2Proof.Machine

/-! ## Connections -/

def connKey (port conn : Nat) : Nat := 4096 * port + conn
def State.conn (s : State) (key : Nat) : Conn := tget .reset s.conns key
def State.setConn (s : State) (key : Nat) (c : Conn) : State := { s with conns := tset .reset s.conns key c }
def State.modConn (s : State) (key : Nat) (f : Conn → Conn) : State := s.setConn key (f (s.conn key))
def State.port (s : State) (p : Nat) : Port := tget .reset s.ports p
def State.setPort (s : State) (p : Nat) (x : Port) : State := { s with ports := tset .reset s.ports p x }

def Conn.valid (c : Conn) : Bool := c.entry.getLsbD 0
def Conn.err (c : Conn) : Bool := c.entry.getLsbD 1
def Conn.mgmt (c : Conn) : Bool := c.entry.getLsbD 2
/-- Path MTU (R43). -/
def Conn.mtu (c : Conn) : Nat := 1024 * 2 ^ bits c.entry 3 3
def Conn.ctx (c : Conn) : Nat := bits c.entry 288 12

/-- Packets of `len` bytes (R38). -/
def Conn.packets (c : Conn) (len : Nat) : Nat := max 1 (ceilDiv len c.mtu)

/-- A connection at its first PSNs and at line rate (R37, R42, R43). -/
def Conn.restart (c : Conn) : Conn :=
  { c with entry := setBit c.entry 1 false, psn := BitVec.ofNat 24 (bits c.entry 40 24), expect := BitVec.ofNat 24 (bits c.entry 64 24)
           retries := 0, rate := 800000, nakSent := false, outstanding := [], waiting := [], cache := [], parked := [] }

/-- READ and atomic requests, which R36 limits. -/
def NetOp.limited : NetOp → Bool
  | .read _ _ _ | .fetchAdd _ _ _ | .cmpSwap _ _ _ _ => true
  | _ => false

/-- Packets of an operation, its responses for a READ (R38, R50). -/
def NetOp.packets (mtu : Nat) : NetOp → Nat
  | .write _ _ d _ => max 1 (ceilDiv d.length mtu)
  | .read _ _ n => max 1 (ceilDiv n mtu)
  | .send d _ => max 1 (ceilDiv d.length mtu)
  | _ => 1

/-- What is left of an operation once its first `k` packets, or a READ's first `k` responses, are acknowledged (R38). -/
def NetOp.rest (mtu k : Nat) : NetOp → NetOp
  | .write va key d imm => .write (va + k * mtu) key (d.drop (k * mtu)) imm
  | .read va key n => .read (va + k * mtu) key (n - k * mtu)
  | .send d imm => .send (d.drop (k * mtu)) imm
  | op => op

/-! ## The wire (R33, R37) -/

def Packet.port : Packet → Nat
  | .request p _ _ _ | .ack p _ _ | .response p _ _ _ | .nak p _ _ _ | .cnp p _ | .pause p _ _ => p

/-- RoCEv2 packets of what is sent; a pause frame is none. -/
def Packet.count (s : State) : Packet → Nat
  | .request p c _ op => if op.limited then 1 else op.packets (s.conn (connKey p c)).mtu
  | .response p c _ d => (s.conn (connKey p c)).packets d.length
  | .pause _ _ _ => 0
  | _ => 1

/-- A port sends, and marks the packets whose queue holds at least ECNTH bytes at enqueue (R37, R45): how many it holds then is a
free value (log 20). -/
def State.emit (s : State) (p : Packet) : State :=
  let n := p.count s
  let (held, s) := s.draw (32 * n)
  { s with
    wire := p :: s.wire
    wireMarks := ((List.range n).map fun i => decide (0x4000 * bits (s.port p.port).cong 0 9 ≤ bits held (32 * i) 32)) :: s.wireMarks }

/-- A packet leaves, or waits for the end of a pause of its port; a pause frame is not paused (R34, R37). -/
def State.send (s : State) (p : Packet) : State :=
  let x := s.port p.port
  match p with
  | .pause _ _ _ => s.emit p
  | _ => if x.paused then s.setPort p.port { x with held := x.held ++ [p] } else s.emit p

/-- A pause has ended: what has waited is sent, in order. -/
def unpause (s : State) (port : Nat) : State :=
  let x := s.port port
  x.held.foldl State.emit (s.setPort port { x with paused := false, held := [] })

/-! ## Failures (R52, R53) -/

/-- The first failure of a group is kept (R52). -/
def noteNet (s : State) (r : UnitRef) (peer : BitVec 10) (kind : Nat) : State :=
  s.modUnit r fun u => { u with net := match u.net with | some x => some x | none => some (peer, BitVec.ofNat 3 kind) }

/-- The lanes of an access from one of them on, `n` in all: a run of R424. -/
def lanesFrom (a : Access) (lane n : Nat) : List Nat :=
  (((a.lanes.map (·.lane)).dropWhile fun l => l ≠ lane)).take n

/-- An operation fails (R52, R53, R140, R268). -/
def failOwner (s : State) (o : NetOwner) (kind : Nat) : State :=
  match o with
  | .store u p | .signal u p => noteNet s u p kind
  | .fetch u p acc lane n =>
    -- the destinations of its lanes become full, each with a free value
    let (v, s) := s.draw (128 * n)
    (noteNet s u p kind).modAccess acc fun a =>
      ((lanesFrom a lane n).zip (List.range n)).foldl (fun a l => a.setLane l.1 (.done (words32 4 (bits v (128 * l.2) 128)))) a
  | .copyRead ch _ p | .copyWrite ch _ p =>
    { s with channels := s.channels.map fun x =>
        if x.1 = ch then (ch, { x.2 with got_n := x.2.got_n - 1
                                         failed := match x.2.failed with | some y => some y | none => some (BitVec.ofNat 8 kind, p) }) else x }
  | .migrate page =>
    { s with mem := { s.mem with migrations := s.mem.migrations.map fun m => if m.page = page then { m with failed := true } else m } }
  | .completion q => { s with queues := s.queues.map fun x => if x.1 = q then (q, { x.2 with clost := true }) else x }
  | .event _ => s
  | .mgmt _ => s
  | .coll die ctx opid own rank =>
    { s with collOps := s.collOps.map fun x =>
        if x.ctx = ctx && x.opid = opid && bits x.record 15 10 = own && decide (x.core / 32 = die) && x.finish.isNone then
          { x with finish := some (if kind = 3 || kind = 4 || kind = 5 then 9 else 8), failRank := rank }
        else x }

/-- The collective operations that reach a rank over a connection note that it has failed (R268). -/
def breakLinks (s : State) (key kind : Nat) : State :=
  { s with collOps := s.collOps.map fun x =>
      { x with broken := x.broken ++ (x.links.filter fun l => l.2 = key).map fun l => (l.1, if kind = 3 || kind = 4 || kind = 5 then 9 else 8) } }

/-- A connection enters the error state: every operation outstanding or queued fails at that moment (R39, R52). -/
def connFail (s : State) (key kind : Nat) : State :=
  let c := s.conn key
  if !c.valid || c.err then s
  else
    let owners := c.outstanding.map (·.owner) ++ c.waiting.map (·.2)
    let s := s.setConn key { c with entry := setBit c.entry 1 true, outstanding := [], waiting := [], cache := [], parked := [] }
    owners.foldl (fun s o => failOwner s o kind) (breakLinks s key kind)

/-! ## Sending (R36, R51) -/

/-- A request goes on the wire (R38). -/
def transmit (s : State) (port conn : Nat) (op : NetOp) (o : NetOwner) : State :=
  let key := connKey port conn
  let c := s.conn key
  let n := op.packets c.mtu
  let s := s.setConn key { c with psn := c.psn + BitVec.ofNat 24 n, outstanding := c.outstanding ++ [{ psn := c.psn, npkt := n, op := op, owner := o }] }
  s.send (.request port conn c.psn op)

/-- Whether the first waiting request may be sent (R36, R37). -/
def maySend (s : State) (port : Nat) (c : Conn) (op : NetOp) : Bool :=
  !(s.port port).paused && (!op.limited || decide ((c.outstanding.filter fun q => q.op.limited).length < 16))

/-- A request is issued: it fails at once on a connection in the error state (kind 6), waits behind earlier ones, or is
sent (R36, R39, R51, R52). -/
def post (s : State) (port conn : Nat) (op : NetOp) (o : NetOwner) : State :=
  let key := connKey port conn
  let c := s.conn key
  if c.err then failOwner s o 6
  else if c.waiting = [] && maySend s port c op then transmit s port conn op o
  else s.setConn key { c with waiting := c.waiting ++ [(op, o)] }

/-! ## The peer table (R49) -/

/-- What an entry names: port, connection and key. -/
structure Peer where
  port : Nat
  conn : Nat
  rkey : W32
  deriving DecidableEq, Repr, Inhabited

def portSecure (s : State) (p : Nat) : Bool := s.pkg.worldPorts.getLsbD p

/-- The cause that using an entry raises (R49), or what it names. -/
def peerOf (s : State) (secure : Bool) (e : W64) : Except Byte Peer :=
  let port := bits e 1 3
  let conn := bits e 8 24
  if !e.getLsbD 0 || bits e 4 4 ≠ 0 || decide (4096 ≤ conn) then .error 0x07
  else if !(s.conn (connKey port conn)).valid then .error 0x07
  else if portSecure s port && !secure then .error 0x08
  else .ok ⟨port, conn, BitVec.ofNat 32 (bits e 32 32)⟩

/-- Address of a peer's entry in its context's table (R49). -/
def peerAddr (s : State) (ctx : Nat) (id : Nat) : Nat := ((s.ctxReg ctx 0x80).toNat + 8 * id) % 2 ^ 64

end Sys2Proof.Machine
end

