-- ==== Sys2Proof/Machine/PageMap.lean ====
section
/-! DEFINITION. Page maps from handlers (R137 to R140, R338 to R340): PMAP, MIGR, and what the coordinator does for
them. -/

namespace Sys2Proof.Machine

/-! ## Retirement of HBM pages (R28, R29) -/

def ceuKind (u : Nat) : Nat := (Config.ceuInfo u).1.toNat
/-- The core, slice or stack of a correctable-error unit. -/
def ceuBlock (u : Nat) : Nat := (Config.ceuInfo u).2.toNat

/-- Pages with data in a row that an HBM unit has found faulty (R28, R29): present or moving, with a frame of the unit's stack that
the row holds. -/
def rowPages (s : State) (p : Nat × Nat) : List Nat :=
  (s.mem.ptes.filter fun e =>
    (pageState s e.1 = 1 || pageState s e.1 = 3) && stackOf (bits (pte s e.1) 20 24 * 65536) = ceuBlock p.1 &&
      Config.hbmRow p.1 p.2 (bits (pte s e.1) 20 24)).map (·.1)

/-- A retirement raises the alert and increments RETIRED. -/
def noteRetired (s : State) : State :=
  ({ s with pkg := { s.pkg with retired := s.pkg.retired + 1 } }).alert fun a => { a with lasting := true }

def dropRetire (s : State) (p : Nat × Nat) : State := { s with pkg := { s.pkg with retire := s.pkg.retire.erase p } }

/-- Rows that no page has data in any more are done with (R28). -/
def dropRows (s : State) : State :=
  { s with pkg := { s.pkg with retire := s.pkg.retire.filter fun p => ceuKind p.1 ≠ 8 || rowPages s p ≠ [] } }

/-! ## Entries (R132, R133) -/

/-- The page's dirty MSC lines are written to its frame and its MSC lines are invalidated (R480). -/
def cleanPage (s : State) (page : Nat) : State :=
  let lines := (s.mem.msc.filter fun p => p.1 / 512 = page).map (·.1)
  lines.foldl (fun s l => (mscClean s l).delMsc l) s

/-- The frame's 64 KiB are filled with zeros (R138). -/
def zeroFrame (s : State) (frame : Nat) : State :=
  { s with mem := { s.mem with hbm := s.mem.hbm.filter fun c => c.1 / 65536 ≠ frame } }

/-- The frame is cleared but for bytes written back to it since the page began to move (R139). -/
def clearFrame (s : State) (frame : Nat) (keep : List Nat) : State :=
  { s with mem := { s.mem with hbm := s.mem.hbm.filter fun c => c.1 / 65536 ≠ frame || c.1 % 65536 ∈ keep } }

/-- A frame's bytes copied to another frame, but for those written back there meanwhile (R139 step 3). -/
def copyFrame (s : State) (old new : Nat) (keep : List Nat) : State :=
  let src := s.mem.hbm.filter fun c => c.1 / 65536 = old && c.1 % 65536 ∉ keep
  src.foldl (fun s c => hbmSet s (new * 65536 + c.1 % 65536) c.2) (clearFrame s new keep)

/-- A frame filled from bytes that a peer sent, but for those written back there meanwhile (R139 step 3). -/
def fillFrame (s : State) (frame : Nat) (bs : Bytes) (keep : List Nat) : State :=
  (List.range bs.length).foldl (fun s i => if i ∈ keep then s else hbmSet s (frame * 65536 + i) (bs.getD i 0)) (clearFrame s frame keep)

/-- A page becomes present with a frame (R339). -/
def presentEntry (frame ctx : Nat) (rdo : Bool) : W64 :=
  setBits (setBits (setBits (setBit (0 : W64) 4 rdo) 0 3 1) 8 12 ctx) 20 24 frame

/-- The answer that a parked PMAP or MIGR resumes with. -/
def answerPage (s : State) (r : UnitRef) (slot : Nat) (v : W64) : State :=
  s.modUnit r fun u => u.modThread slot fun t => match t.park with
    | .page _ => { t with park := .page (some v) }
    | _ => t

/-! ## PMAP and MIGR -/

/-- The requirements of R338. -/
def encPage (f : RForm) (rdo : Bool) : Enc :=
  { ok := f.c = 0 && !f.fec && (f.mod = 0 || (rdo && f.mod = 1)) && f.lit.isNone, hdl := true
    uses := [Use.dst f.d 1 .reg, Use.src f.a f.fea 1 .sca, Use.src f.b f.feb 1 .sca], mask := f.mask }

/-- The shared shape of PMAP and MIGR (R338): the checks, the request to the coordinator, and the result once it has
completed the change. -/
def pageRequest (i : Instr) (f : RForm) (e : Enc) (entry : Ctx → Nat → W64) (who : Ctx → ChangeFor) (s : State) :
    Host.Outcome State Fault Refusal :=
  issue i e s fun c s =>
    match (c.us.thread c.slot).park with
    | .page (some v) => advance c 1 (writeS c f.d v (s.modUnit c.u fun u => u.modThread c.slot fun t => { t with park := .none }))
    | .page none => parkAt c (.page none) s
    | _ =>
      let va := (sval s c f.a).toNat
      let b := sval s c f.b
      let frame := b.toNat % 2 ^ 24
      match translate c.team.wins c.secure .none va 1 with
      | .error k => raiseHere c k atIssue (BitVec.ofNat 64 va) s
      | .ok ia =>
        if (homeSlice ia).isNone then raiseHere c 0x06 atIssue (BitVec.ofNat 64 va) s
        else if secureAddr s ia && !c.secure then raiseHere c 0x08 0 (BitVec.ofNat 64 va) s
        else if frame < (s.ctxReg c.team.ctx 0x87).toNat || (s.ctxReg c.team.ctx 0x88).toNat < frame || bits b 24 40 ≠ 0 ||
            bits (pte s (pageOf ia)) 8 12 ≠ c.team.ctx then raiseHere c 0x07 0 0 s
        else
          let s := { s with mem := { s.mem with changes := s.mem.changes ++ [⟨pageOf ia, entry c frame, who c⟩] } }
          parkAt c (.page none) s

/-- PMAP (R339). -/
def execPmap (f : RForm) (s : State) : Host.Outcome State Fault Refusal :=
  pageRequest (.pmap f) f (encPage f true) (fun c frame => presentEntry frame c.team.ctx (f.mod.getLsbD 0))
    (fun c => .pmap c.u c.slot) s

/-- MIGR (R340). -/
def execMigr (f : RForm) (s : State) : Host.Outcome State Fault Refusal :=
  pageRequest (.migr f) f (encPage f false) (fun c frame => presentEntry frame c.team.ctx false)
    (fun c => .migr (some (c.u, c.slot))) s

/-! ## Completing a change (R133, R136, R138 to R140) -/

/-- PMAP by the state of the page (R138); a moving page makes it wait. -/
def completePmap (s : State) (ch : Change) (u : UnitRef) (slot : Nat) : State :=
  let frame := bits ch.entry 20 24
  match pageState s ch.page with
  | 1 => answerPage s u slot (BitVec.ofNat 64 (bits (pte s ch.page) 20 24 + 2 ^ 63))
  | st =>
    let s := if st = 2 then zeroFrame s frame else s
    let s := (cleanPage (splitBig s ch.page) ch.page).setPte ch.page ch.entry
    let s := closeFaults s fun e => e.page = ch.page
    answerPage s u slot (BitVec.ofNat 64 frame)

/-- A page starts to move (R139 steps 1 to 3): parked accesses stay parked, and a peer page is requested. The remote
address is the page's intermediate address (log 27). -/
def startMove (s : State) (ch : Change) (who : Option (UnitRef × Nat)) : State :=
  let e := pte s ch.page
  let st := pageState s ch.page
  let frame := bits ch.entry 20 24
  let answer (s : State) (v : Nat) : State :=
    match who with
    | some (u, slot) => answerPage s u slot (BitVec.ofNat 64 v)
    | none => s
  if st ≠ 1 && (st ≠ 4 || who.isNone) then
    -- the management processor keeps a frame it did not use (R29)
    if who.isNone then { s with pkg := { s.pkg with reserve := s.pkg.reserve ++ [frame] } } else answer s (frame + 2 ^ 62)
  else
    let s := splitBig s ch.page
    let s := s.setPte ch.page (setBits (pte s ch.page) 0 3 3)
    let moved := (s.mem.faults.filter fun x => x.page = ch.page).flatMap (·.parked)
    let faults := s.mem.faults.filter fun x => x.page ≠ ch.page
    let closing := s.mem.faults.any fun x => x.page = ch.page
    let m : Migration := ⟨ch.page, frame, st = 4, bits e 20 24, who, [], none, false⟩
    let s := { s with mem := { s.mem with faults := faults, movePark := s.mem.movePark ++ moved
                                          migrations := s.mem.migrations ++ [m] } }
    let s := if !closing then s
      else releaseFull s [ch.page]
    if st ≠ 4 then s
    else
      let ctx := bits e 8 12
      let fail (s : State) : State := failOwner s (.migrate ch.page) 6
      let wins := (s.context ctx).regs
      let secure := (s.context ctx).secure
      match translate wins secure .read (peerAddr s ctx (bits e 44 10)) 8 with
      | .error _ => fail s
      | .ok ia =>
        if verdict s secure false ia ≠ .ok then fail (noteInvalid s ia)
        else
          let (bad, bs, s) := agentRead s ia 8 0
          match (if bad then .error 0x0A else peerOf s secure (wordOfBytes bs)) with
          | .error _ => fail s
          | .ok p => post s p.port p.conn (.read (ch.page * 65536) p.rkey 65536) (.migrate ch.page)

/-- The peer table entry that the page's migration reads is on a moving page (R134). -/
def peerMoves (s : State) (page : Nat) : Bool :=
  let ctx := bits (pte s page) 8 12
  pageState s page = 4 &&
    match translate (s.context ctx).regs (s.context ctx).secure .read (peerAddr s ctx (bits (pte s page) 44 10)) 8 with
    | .ok ia => verdict s (s.context ctx).secure false ia = .moving
    | .error _ => false

/-- TRANSLATION_CHANGE_COMPLETE (R133): the first change of the page that can complete does so. A change of a moving page
waits (R138, R140). -/
def execTranslationChangeComplete (page : Nat) (s : State) : Host.Outcome State Fault Refusal :=
  .next <|
    match s.mem.changes.find? fun c => c.page = page with
    | none => s
    | some c =>
      if pageState s page = 3 || (peerMoves s page && (match c.who with | .migr w => w.isSome | _ => false)) then s
      else
        let s := { s with mem := { s.mem with changes := s.mem.changes.erase c } }
        match c.who with
        | .pmap u slot => completePmap s c u slot
        | .migr who => startMove s c who

/-! ## The end of a migration (R139 steps 4 and 5, R140) -/

/-- Whether a sector of the page that the MSC does not hold is uncorrectable in the old frame (R30). -/
def moveBad (s : State) (page frame : Nat) : Bool :=
  s.pkg.badSectors.any fun sec => sec / 2048 = frame &&
    (match s.msc? (page * 512 + sec % 2048 / 4) with
     | some l => !l.valid.getLsbD (sec % 4)
     | none => true)

/-- Accesses parked on a moving page are replayed in order (R139). -/
def releaseMove (s : State) (page : Nat) : State :=
  let on (p : Nat × Nat) : Bool :=
    match s.access? p.1 with
    | some a => match a.lane? p.2 with | some l => decide (pageOf l.ia = page) | none => false
    | none => false
  let mine := s.mem.movePark.filter on
  releaseParked { s with mem := { s.mem with movePark := s.mem.movePark.filter fun p => !on p } } mine

/-- A page that goes back to its peer keeps nothing here: what was written back to it since it began to move is lost, as a
write-back to a peer page is (R140, R480; log 71). -/
def dropMoved (s : State) (m : Migration) : State :=
  let lines := s.mem.msc.filter fun p => p.1 / 512 = m.page
  let lost := m.wrote.map (65536 * m.page + ·) ++ (lines.filter fun p => p.2.dirty ≠ 0).map (128 * ·.1)
  let s := lines.foldl (fun s p => s.delMsc p.1) s
  let ctx := bits (pte s m.page) 8 12
  match lost with
  | [] => s
  | ia :: _ => ((s.contain ctx ia).noteBit ctx 200).noteAddr ctx ia

/-- MIGRATION_END (R139, R140). A page that the management processor moved has been retired from its row (R29). One that was retired
while it moved (R31) stays so, and one that its copy retires is a containment event (DEDUCED, log 100). -/
def execMigrationEnd (page : Nat) (bad : Bool) (s : State) : Host.Outcome State Fault Refusal :=
  .next <|
    match s.mem.migrations.find? fun m => m.page = page with
    | none => s
    | some m =>
      if m.fromPeer && m.fetched.isNone && !m.failed then s
      else
        let s := { s with mem := { s.mem with migrations := s.mem.migrations.erase m } }
        let answer (s : State) (v : Nat) : State :=
          match m.who with
          | some (u, slot) => answerPage s u slot (BitVec.ofNat 64 v)
          | none => s
        let e := pte s page
        if bits e 0 3 ≠ 3 then
          let s := if m.who.isNone then { s with pkg := { s.pkg with reserve := s.pkg.reserve ++ [m.frame] } } else s
          releaseMove (answer s (m.frame + 2 ^ 63)) page
        else if m.failed then
          -- the page returns to its peer; the new frame goes back with failure status
          releaseMove (answer ((dropMoved s m).setPte page (setBits e 0 3 4)) (m.frame + 2 ^ 63)) page
        else if bad || (!m.fromPeer && moveBad s page m.oldFrame) then
          let s := retirePage s (65536 * page)
          let s := if m.who.isNone then { s with pkg := { s.pkg with reserve := s.pkg.reserve ++ [m.frame] } } else s
          releaseMove (answer s (m.frame + 2 ^ 63)) page
        else
          let s := match m.fetched with
            | some bs => fillFrame s m.frame bs m.wrote
            | none => copyFrame s m.oldFrame m.frame m.wrote
          let s := s.setPte page (setBits (setBits e 20 24 m.frame) 0 3 1)
          let s := if m.who.isNone then
              dropRows (noteRetired { s with pkg := { s.pkg with reserve := s.pkg.reserve ++ [m.oldFrame] } })
            else s
          releaseMove (answer s (if m.fromPeer then 2 ^ 61 else m.oldFrame)) page

end Sys2Proof.Machine
end

