-- ==== Sys2Proof/Machine/Translation.lean ====
section
/-! DEFINITION. The events of the memory side: an access reaching its home (R134, R135), write-back of a long-latency
producer (R117), an L1 write-back (R480), and admission of pins and landings (R145). -/

namespace Sys2Proof.Machine

/-! ## TRANSLATION_ACCESS -/

/-- A lane leaves its access; an access without lanes is gone, and its destinations are full where nothing of its instruction is to be
issued again (R121, R323). -/
def dropLane (s : State) (id lane : Nat) : State :=
  let left (s : State) : State := { s with inflight := (s.inflight.map fun a =>
      if a.id = id then { a with lanes := a.lanes.filter fun l => l.lane ≠ lane } else a).filter fun a => !(a.id = id && a.lanes.isEmpty) }
  match s.access? id with
  | some a => if (left s).access? id = none then settleFull (left s) a.u a.rep.acc a.dst a.regs else left s
  | none => s

/-- The lanes that an access lane's refusal is delivered to (R317, R372, R380). -/
def laneMask (a : Access) (l : LaneAcc) : W64 :=
  match a.kind with
  | .red _ _ => BitVec.ofNat 64 (ofWords32 l.cmp)
  | _ => if a.uni then a.rep.em else 1#64 <<< l.lane

/-- A refusal by the memory side (R121, R134, R372). -/
def laneFault (s : State) (a : Access) (l : LaneAcc) (cause : Byte) (pstate : Nat) : State :=
  let f := laneMask a l
  let s := addPending s a.u
    { cause := cause, level := 0, f := f, addr := BitVec.ofNat 64 l.va, info := BitVec.ofNat 64 (pstate * 1024)
      rep := { a.rep with em := f } }
  dropLane s a.id l.lane

/-- The scope set of an access in flight. -/
def accScope (s : State) (a : Access) : List Nat :=
  match s.team? a.u.team with
  | some t => scopeCores s t.wins t.cores a.core a.scope
  | none => []

def accCtx (s : State) (a : Access) : Nat := match s.team? a.u.team with | some t => t.ctx | none => 0

/-- The lower half of an ordered 128-bit lane has been performed, and the upper half waits: two events, in ascending address (R375;
log 97). -/
def upperHalf (s : State) (id : Nat) (l : LaneAcc) (data : List W32) : State :=
  s.modAccess id fun a => { a with lanes := a.lanes.map fun x =>
    if x.lane = l.lane then { x with va := l.va + 8, ia := l.ia + 8, size := 8, data := data } else x }

/-- A lane that its home admits is performed. -/
def performLane (s : State) (a : Access) (l : LaneAcc) : State :=
  match a.kind with
  | .load acq =>
    let s := dropBadLine s a.core (lineOf l.ia)
    let half := acq && l.size = 16
    let cs := accScope s a
    let nonlocal := acq && !scopeLocal cs a.core
    if (if nonlocal then acquireBad s a.core l.ia l.size else loadBad s a.core l.ia l.size) then laneFault s a l 0x0A 1
    else
      let n := if half then 8 else l.size
      let (bs, s) := if nonlocal then acquireRead s a.core l.ia n cs else coreRead s a.core l.ia n a.hint
      let s := readSync s a.u a.core (if acq then some cs else none) l.ia bs
      if half then upperHalf s a.id l (loadWords bs 2)
      else s.modAccess a.id fun a => a.setLane l.lane (.done (l.data ++ loadWords bs (max (a.regs - l.data.length) 2)))
  | .store rel =>
    let loc := scopeLocal (accScope s a) a.core
    let store (bs : Bytes) : State :=
      storeSync (storeLane s a.core l.ia a.hint bs rel loc) a.u a.core (if rel then some (.issued a.id) else none) l.ia bs
    if rel && l.size = 16 then upperHalf (store (bytesOf 8 (ofWords32 (l.data.take 2)))) a.id l (l.data.drop 2)
    else dropLane (store (bytesOf l.size (ofWords32 l.data))) a.id l.lane
  | .atom aop ty loc =>
    if loadBad s a.core l.ia l.size then laneFault s a l 0x0A 1
    else
      let cs := accScope s a
      let (old, s) := atomAt s a.core l.ia aop ty a.pol (accCtx s a) loc cs (ofWords32 l.data) (ofWords32 l.cmp)
      let new := (List.range l.size).map fun i => readOf s (l.ia + i) (coreByte s a.core (l.ia + i))
      let s := atomSync s a.u a.core cs l.ia (bytesOf l.size old) new (aop ≠ 7 || old = ofWords32 l.cmp)
      s.modAccess a.id fun a => a.setLane l.lane (.done (words32 2 old))
  | .red aop ty =>
    if (List.range l.size).any (fun i => homeBad s (l.ia + i)) then laneFault s a l 0x0A 1
    else
      let s := redAt s l.ia aop ty a.pol (accCtx s a) (s.coreTag a.core) (ofWords32 l.data)
      dropLane (redSync s a.u l.ia l.size) a.id l.lane
  | .fetch | .unit | .scatter _ _ | .batch _ _ _ | .form _ _ _ | .place _ _ | .request | .probe => s

/-- The upper half of an ordered 128-bit access to a space with a single copy (R375). -/
def reachPlace (s : State) (a : Access) (store : Bool) (lane : Nat) : State :=
  match a.lane? lane with
  | none => s
  | some l =>
    if l.st ≠ .waiting || olderOpen s a.u a.id l.ia l.size then s
    else if store then
      let bs := bytesOf 8 (ofWords32 l.data)
      dropLane (storeSync (placeWrite s a.u (placeOfKey l.ia) bs) a.u a.core (some (.issued a.id)) l.ia bs) a.id lane
    else
      let bs := storeBytes s (placeOfKey l.ia) 8
      (readSync s a.u a.core (some (accScope s a)) l.ia bs).modAccess a.id fun a => a.setLane lane (.done (l.data ++ loadWords bs 2))

/-- One lane reaches its home: it is performed, faulted or parked (R134, R135). -/
def reachHome (s : State) (id lane : Nat) : State :=
  match s.access? id with
  | none => s
  | some a =>
    match a.lane? lane with
    | none => s
    | some l =>
      let isLoad := match a.kind with | .load _ => true | _ => false
      let reads := match a.kind with | .load _ | .atom _ _ _ => true | _ => false
      let skip := match a.kind with | .fetch | .unit | .scatter _ _ | .batch _ _ _ | .form _ _ _ | .place _ _ | .request | .probe => true | _ => false
      if skip || l.st ≠ .waiting || !replayTurn s id lane (pageOf l.ia) || (reads && redAhead s a.core l.ia id) ||
         olderOpen s a.u id l.ia l.size then s
      else
        let s := replayDone s id lane
        match homeCheck s a.u (s.coreSecure a.core) (!isLoad) l.ia with
        | (.ok, s) => performLane s a l
        | (.fault k st, s) => laneFault s a l k st
        | (.park w, s) => (parkLane s w id lane).modAccess id fun a => a.setLane lane .parked

/-- An access of a unit reaches its home (R134). The lanes of an atomic are performed together, in ascending order (R377). -/
def unitAccess (s : State) (a : Access) (lane : Nat) : State :=
  match a.kind with
  | .atom _ _ _ => (a.lanes.filter fun l => l.st = .waiting).foldl (fun s l => reachHome s a.id l.lane) s
  | .place store _ => reachPlace s a store lane
  | _ => reachHome s a.id lane

/-! ## LONG_LATENCY_WRITEBACK -/

/-- The destinations of an access written with its lanes' values (R117, R370, R371). -/
def deliver (s : State) (a : Access) : State :=
  match a.dst with
  | none => s
  | some d =>
    s.modUnit a.u fun u =>
      if u.exited then u
      else if 0x100 ≤ d then
        match a.kind with
        | .batch _ _ status => u.setSreg (d - 0x100) status
        | _ =>
        match a.lanes.head? with
        | some { st := .done v, .. } => u.setSreg (d - 0x100) (BitVec.ofNat 64 (ofWords32 (v.take 2)))
        | _ => u
      else
        a.lanes.foldl (fun u l =>
          match l.st with
          | .done v =>
            let targets := if a.uni then lanesOf 64 a.rep.em else [l.lane]
            (targets.filter fun k => u.live.getLsbD k).foldl (fun u k => u.setVwords d k (v.take a.regs)) u
          | _ => u) u

/-- A CFORM's batch is written to lanes 0 to n - 1 of its group, whatever their mask (R223, R225); its caller's register follows as
any destination. -/
def deliverBatch (s : State) (a : Access) : State :=
  match a.kind with
  | .batch g mask status =>
    s.modUnit ⟨a.u.team, some g⟩ fun u =>
      if u.exited then u
      else
        let u := a.lanes.foldl (fun u l => match l.st with
          | .done v => u.setVwords 0 l.lane v
          | _ => u) u
        ((((u.setSreg 1 mask).setSreg 2 status).mark 0 3 false).mark 0x101 1 false).mark 0x102 1 false
  | _ => s

/-- The acquire part of an access, once every lane's read has returned (R161, R374, R377). -/
def finishAcquire (s : State) (a : Access) : State :=
  let nonlocal := !scopeLocal (accScope s a) a.core
  if a.kind.acquires && nonlocal then acquireL1 s a.core else s

/-- The hit records of the lanes of a TRACE that an unordered write has met (R247): free values, the reserved bits of the first word 0. -/
def racedRecords (s : State) (a : Access) : Access × State :=
  match a.rep.instr with
  | some (.trace _) =>
    (a.lanes.filter fun l => s.isRaced a.id l.lane 0).foldl (fun (p : Access × State) l =>
      let (x, s) := p.2.draw 224
      let w := words32 7 x.toNat
      (p.1.setLane l.lane (.done ((w.headD 0 &&& 0xFF07) :: w.drop 1)), s)) (a, s)
  | _ => (a, s)

/-- LONG_LATENCY_WRITEBACK (R117): the last lane has returned. -/
def execLongLatencyWriteback (id : Nat) (s : State) : Host.Outcome State Fault Refusal :=
  .next <|
    match s.access? id with
    | none => s
    | some a =>
      if !a.kind.isLoad || a.lanes.any (fun l => l.open) then s
      else
        let (a, s) := racedRecords s a
        let s := endReads (deliverBatch (deliver s a) a) a.id
        let s := finishAcquire s a
        let s := { s with inflight := s.inflight.filter fun x => x.id ≠ id }
        settleFull s a.u a.rep.acc a.dst a.regs

/-! ## L1_WRITEBACK and PIN_LANDING_ADMIT -/

/-- L1_WRITEBACK (R141, R480): a dirty line may be written back at any time. -/
def execL1Writeback (core line : Nat) (s : State) : Host.Outcome State Fault Refusal :=
  .next (writebackLine s core line)

/-- Pinned or landing ways of a line's set, and the limit of R145. -/
def pinsInSet (s : State) (line : Nat) : Nat :=
  (s.mem.msc.filter fun p => homeSlice (128 * p.1) = homeSlice (128 * line) && mscSetOf p.1 = mscSetOf line &&
    (p.2.pins ≠ 0 || p.2.landing ≠ 0)).length

def pinLimit (s : State) (line tag : Nat) : Nat :=
  match homeSlice (128 * line) with
  | some h => min 14 ((mscWays s h tag).length - 1)
  | none => 0

/-- A pin or landing request is granted now. -/
def grantPin (s : State) (line : Nat) (landing : Bool) (tag : Nat) : State :=
  let s := mscAlloc s line 0 tag
  match s.msc? line with
  | some l => s.setMsc line (if landing then { l with landing := l.landing + 1 } else { l with pins := l.pins + 1 })
  | none => s

/-- A pin or landing request (R145): admitted within the limit, else it waits in order. -/
def requestPin (s : State) (line : Nat) (landing : Bool) (tag who : Nat) : State :=
  let already := match s.msc? line with | some l => l.pins ≠ 0 || l.landing ≠ 0 | none => false
  let waits := s.mem.pinWait.any fun w => homeSlice (128 * w.1) = homeSlice (128 * line) && mscSetOf w.1 = mscSetOf line
  if already || (!waits && decide (pinsInSet s line < pinLimit s line tag)) then grantPin s line landing tag
  else
    let s := s.countHome (128 * line) tag 0x09
    { s with mem := { s.mem with pinWait := s.mem.pinWait ++ [(line, landing, tag, who)] } }

/-- A pin or landing ends (R145). -/
def releasePin (s : State) (line : Nat) (landing : Bool) : State :=
  match s.msc? line with
  | some l => s.setMsc line (if landing then { l with landing := l.landing - 1 } else { l with pins := l.pins - 1 })
  | none => s

/-- PIN_LANDING_ADMIT (R145): the first request that waits in the slice's set is admitted when the limit allows it. -/
def execPinLandingAdmit (slice set : Nat) (s : State) : Host.Outcome State Fault Refusal :=
  .next <|
    match s.mem.pinWait.find? fun w => homeSlice (128 * w.1) = some slice && mscSetOf w.1 = set with
    | none => s
    | some w =>
      if pinsInSet s w.1 < pinLimit s w.1 w.2.2.1 then
        grantPin { s with mem := { s.mem with pinWait := s.mem.pinWait.erase w } } w.1 w.2.1 w.2.2.1
      else s

end Sys2Proof.Machine
end

