-- ==== Sys2Proof/Machine/Engine.lean ====
section
/-! DEFINITION. What every asynchronous engine does with memory (R129, R134, R392): ranges checked at issue, and accesses
by page at their home. -/

namespace Sys2Proof.Machine

/-- Addresses of a range at which a check of 2^g-byte pieces is made: its first, and each multiple inside it. -/
def rangePoints (g va len : Nat) : List Nat :=
  va :: (((List.range (len / 2 ^ g + 1)).map fun k => (va / 2 ^ g + 1 + k) * 2 ^ g).filter fun a => decide (a < va + len))

/-- A range checked at issue under R129: the first cause with its address. -/
def rangeCheck (wins : Table W64) (secure : Bool) (kind : Kind) (va len : Nat) : Option (Byte × Nat) :=
  (rangePoints 21 va len).findSome? fun a =>
    match translate wins secure kind (a % 2 ^ 64) 1 with
    | .error k => some (k, a % 2 ^ 64)
    | .ok _ => none

/-- What the memory side answers to an engine's access (R134): it opens no fault entry, waits only for a move, and a peer page is a
page fault as an absent one is. -/
inductive EngAns where
  | ok
  | wait
  | stop (cause : Byte) (info : W64) (addr : Nat)
  deriving DecidableEq, Repr, Inhabited

/-- The answer to an engine's access to a range of virtual addresses, whose pages it meets in ascending order. -/
def engineCheck (s : State) (wins : Table W64) (secure write : Bool) (va len : Nat) : EngAns :=
  let kind : Kind := if write then .write else .read
  let ans := (rangePoints 16 va len).map fun a =>
    match translate wins secure kind (a % 2 ^ 64) 1 with
    | .error k => EngAns.stop k atIssue a
    | .ok ia =>
      match verdict s secure write ia with
      | .ok => .ok
      | .moving => .wait
      | .refuse k st => .stop (if k = 0x09 then 0x06 else k) (BitVec.ofNat 64 (st * 1024)) a
  (ans.find? fun a => a ≠ .ok).getD .ok

/-- A page has refused an engine's access: an invalid entry is noted, and the slice counts the response (R46, R132, R151). What fails its
check at issue has met no page. -/
def engineNote (s : State) (wins : Table W64) (write : Bool) (a : EngAns) (tag : Nat) : State :=
  match a with
  | .stop _ info va =>
    if info = atIssue then s
    else
      match translate wins true (if write then .write else .read) (va % 2 ^ 64) 1 with
      | .ok ia => (countXlat (noteInvalid s ia) ia tag).countHome ia tag 0x07
      | .error _ => s
  | _ => s

/-- The answer to a load by an engine through a core's L1: it waits for a RED of that core to the same sector (R166). -/
def engineCoreCheck (s : State) (core : Nat) (wins : Table W64) (secure : Bool) (va len : Nat) : EngAns :=
  match engineCheck s wins secure false va len with
  | .ok =>
    if (rangePoints 5 va len).any (fun a => match translate wins secure .read (a % 2 ^ 64) 1 with
        | .ok ia => redAhead s core ia s.nextId
        | .error _ => false) then .wait else .ok
  | a => a

/-- The intermediate address of a checked virtual address. -/
def engineIa (wins : Table W64) (secure write : Bool) (va : Nat) : Nat :=
  match translate wins secure (if write then .write else .read) (va % 2 ^ 64) 1 with
  | .ok ia => ia
  | .error _ => 0

/-- Bytes written as stores of a core, in pieces of at most 16 bytes (R169, R213). -/
def engineCoreWrite (s : State) (core : Nat) (wins : Table W64) (secure : Bool) (va : Nat) (bs : Bytes) : State :=
  (rangePoints 4 va bs.length).foldl (fun s a =>
    let n := min (va + bs.length - a) (16 - a % 16)
    let ia := engineIa wins secure true a
    coreWrite (countXlat s ia (s.coreTag core)) core ia 0 ((bs.drop (a - va)).take n)) s

/-- Bytes read as loads of a core, in pieces of at most 16 bytes: whether uncorrectable data was met, and the bytes
(R170, R213, R30). -/
def engineCoreRead (s : State) (core : Nat) (wins : Table W64) (secure : Bool) (va len : Nat) : Bool × Bytes × State :=
  (rangePoints 4 va len).foldl (fun p a =>
    let n := min (va + len - a) (16 - a % 16)
    let ia := engineIa wins secure false a
    let s := countXlat p.2.2 ia (p.2.2.coreTag core)
    let bad := loadBad s core ia n
    let (bs, s) := coreRead s core ia n 0
    (p.1 || bad, p.2.1 ++ bs, s)) (false, [], s)

/-- Bytes read by an engine at their home, in 16-byte pieces (R143). -/
def engineRead (s : State) (wins : Table W64) (secure : Bool) (va len tag : Nat) : Bool × Bytes × State :=
  (rangePoints 4 va len).foldl (fun p a =>
    let n := min (va + len - a) (16 - a % 16)
    let (bad, bs, s) := agentRead p.2.2 (engineIa wins secure false a) n tag
    (p.1 || bad, p.2.1 ++ bs, s)) (false, [], s)

/-- Bytes written by an engine at their home, in 16-byte pieces (R142, R143). -/
def engineWrite (s : State) (wins : Table W64) (secure : Bool) (va tag : Nat) (bs : Bytes) : State :=
  (rangePoints 4 va bs.length).foldl (fun s a =>
    let n := min (va + bs.length - a) (16 - a % 16)
    agentWrite s (engineIa wins secure true a) tag ((bs.drop (a - va)).take n)) s

/-- A uniform address operand of the unit fails its check (R392): F = EM in a group, a caller trap in the caller. -/
def raiseAddr (c : Ctx) (cause : Byte) (va : Nat) (s : State) (dst : Option (Nat × Nat) := none) : State :=
  raiseUniform c cause atIssue va 1 s dst

end Sys2Proof.Machine
end

