-- ==== Sys2Proof/Machine/SpecialFn.lean ====
section
/-! DEFINITION. The special functions of R366 and R367, correctly rounded: square roots by integer square roots, and the
others by bounds of 600 bits computed in fixed point. -/

namespace Sys2Proof.Machine

/-- Fixed point: units of 2^-640. -/
def fxBits : Nat := 640
def fxOne : Nat := 2 ^ 640
/-- Units by which a fixed-point result may be off. -/
def fxErr : Int := 2 ^ 40

/-- floor of the square root. -/
def isqrt (n : Nat) : Nat :=
  (List.range (n.log2 / 2 + 1)).foldr (fun i r => if (r + 2 ^ i) * (r + 2 ^ i) ≤ n then r + 2 ^ i else r) 0

/-- The square root of a positive rational: exact for a square, otherwise a value that lies between the same two
multiples of 2^-400 of it, which no rounding boundary separates from it. -/
def sqrtRat (v : Rat) : Rat :=
  let n := v.num.toNat
  let d := v.den
  let x := n * d * 2 ^ 800
  let r := isqrt x
  if r * r = x then mkRat r (d * 2 ^ 400) else mkRat (2 * r + 1) (d * 2 ^ 401)

/-- Σ 1 / (m^(2j+1) (2j+1)), alternating or not, in units of 2^-n: atanh(1/m) or atan(1/m). -/
def atInv (n m : Nat) (alt : Bool) : Int :=
  (List.range 256).foldl (fun (acc : Int) (j : Nat) =>
    let t : Int := (2 ^ n / (m ^ (2 * j + 1) * (2 * j + 1)) : Nat)
    if alt && j % 2 = 1 then acc - t else acc + t) 0

/-- ln 2. -/
def fxLn2 : Int := 2 * atInv fxBits 3 false

/-- π in units of 2^-n. -/
def fxPi (n : Nat) : Int := 16 * atInv n 5 true - 4 * atInv n 239 true

/-- Σ over 160 terms, each the one before times x² (or x) over a divisor: the series of exp, sin, cos and atanh. -/
def fxExp (x : Int) : Int :=
  ((List.range 160).foldl (fun (p : Int × Int) (k : Nat) =>
    let t := p.1 * x / fxOne / ((k + 1 : Nat) : Int)
    (t, p.2 + t)) ((fxOne : Int), (fxOne : Int))).2

def fxSin (x : Int) : Int :=
  ((List.range 120).foldl (fun (p : Int × Int) (k : Nat) =>
    let t := -(p.1 * x / fxOne * x / fxOne) / (((2 * k + 2) * (2 * k + 3) : Nat) : Int)
    (t, p.2 + t)) (x, x)).2

def fxCos (x : Int) : Int :=
  ((List.range 120).foldl (fun (p : Int × Int) (k : Nat) =>
    let t := -(p.1 * x / fxOne * x / fxOne) / (((2 * k + 1) * (2 * k + 2) : Nat) : Int)
    (t, p.2 + t)) ((fxOne : Int), (fxOne : Int))).2

def fxAtanh (x : Int) : Int :=
  ((List.range 256).foldl (fun (p : Int × Int) (k : Nat) =>
    (p.1 * x / fxOne * x / fxOne, p.2 + p.1 / ((2 * k + 1 : Nat) : Int))) (x, 0)).2

/-- A rational in units of 2^-n, floored. -/
def fxOf (n : Nat) (q : Rat) : Int := (q * mkRat (2 ^ n) 1).floor

/-- Bounds of a fixed-point value times 2^k. -/
def fxBounds (v : Int) (k : Int) : Rat × Rat :=
  (mkRat (v - fxErr) fxOne * pow2 k, mkRat (v + fxErr) fxOne * pow2 k)

/-- Bounds of 2^a. -/
def exp2Bounds (a : Rat) : Rat × Rat :=
  let k := max (-2000) (min 2000 a.floor)
  if a = mkRat k 1 then (pow2 k, pow2 k)
  else
    let f := a - mkRat k 1
    if 1 < f || f < 0 then (pow2 k, pow2 k)
    else fxBounds (fxExp (fxOf fxBits f * fxLn2 / fxOne)) k

/-- Bounds of log2 a, a positive. -/
def log2Bounds (a : Rat) : Rat × Rat :=
  let k := floorLog2 a
  let m := a / pow2 k
  if m = 1 then (mkRat k 1, mkRat k 1)
  else
    let t := fxOf fxBits ((m - 1) / (m + 1))
    fxBounds (k * fxOne + 2 * fxAtanh t * fxOne / fxLn2) 0

/-- e^(-y) for y from 0 to 1000, in units of 2^-640. -/
def fxExpNeg (y : Rat) : Int :=
  let z := -(fxOf fxBits y)
  let k := z / fxLn2
  let e := fxExp (z - k * fxLn2)
  e / 2 ^ (-k).toNat

/-- The argument of SIN and COS, not negative, reduced by quarter turns: the quadrant and the rest in units of 2^-640. -/
def trigReduce (a : Rat) : Nat × Int :=
  let n := 832
  let x := fxOf n a
  let h := fxPi n / 2
  let q := x / h
  (q.toNat % 4, (x - q * h) / 2 ^ (n - fxBits))

/-- Bounds of sin a or cos a, a not negative. -/
def trigBounds (a : Rat) (cos : Bool) : Rat × Rat :=
  let (q, r) := trigReduce a
  let v := match (q + if cos then 1 else 0) % 4 with
    | 0 => fxSin r
    | 1 => fxCos r
    | 2 => -fxSin r
    | _ => -fxCos r
  fxBounds v 0

/-- Bounds of tanh a, a positive. -/
def tanhBounds (a : Rat) : Rat × Rat :=
  if 400 < a then (1 - pow2 (-500), 1)
  else
    let e := fxExpNeg (2 * a)
    fxBounds ((fxOne - e) * fxOne / (fxOne + e)) 0

/-- Bounds of 1 / (1 + e^(-a)). -/
def sigmBounds (a : Rat) : Rat × Rat :=
  let m : Rat := if a < 0 then -a else a
  if 400 < m then (if a < 0 then (0, pow2 (-500)) else (1 - pow2 (-500), 1))
  else
    let e := fxExpNeg m
    fxBounds ((if a < 0 then e else (fxOne : Int)) * fxOne / (fxOne + e)) 0

/-- The X functions (R366), by their opcode. -/
inductive SpecialOp where
  | rcp | rsq | sqrt | exp2 | log2 | sin | cos | tanh | sigm
  deriving DecidableEq, Repr, Inhabited

/-- The rounded code where the bounds agree. -/
def decideRound (f : Fmt) (code : Nat) (op : SpecialOp) (neg : Bool) (b : Rat × Rat) : Nat :=
  let lo := roundTo f (.fin neg b.1) .rne
  let hi := roundTo f (.fin neg b.2) .rne
  if lo = hi then lo else Config.specialFree op.ctorIdx code

/-- The result of a special function on a code (R366, R367), before the policy. -/
def specialFn (op : SpecialOp) (f : Fmt) (m : Mode) (code : Nat) : Nat :=
  let one : Nat := roundTo f (.fin false 1) .rne
  match valueOf f code with
  | .nan => nanCode f
  | .inf n =>
    match op with
    | .rcp => zeroCode f n
    | .rsq => if n then nanCode f else zeroCode f false
    | .sqrt => if n then nanCode f else infCode f false
    | .exp2 => if n then zeroCode f false else infCode f false
    | .log2 => if n then nanCode f else infCode f false
    | .sin | .cos => nanCode f
    | .tanh => if n then signCode f true + one else one
    | .sigm => if n then zeroCode f false else one
  | .fin n q =>
    if q = 0 then
      match op with
      | .rcp | .rsq => infCode f n
      | .sqrt | .sin | .tanh => zeroCode f n
      | .exp2 | .cos => one
      | .log2 => infCode f true
      | .sigm => roundTo f (.fin false (mkRat 1 2)) .rne
    else
      let a : Rat := if q < 0 then -q else q
      match op with
      | .rcp => roundTo f (.fin n (1 / q)) m
      | .rsq => if q < 0 then nanCode f else roundTo f (.fin false (sqrtRat (1 / q))) m
      | .sqrt => if q < 0 then nanCode f else roundTo f (.fin false (sqrtRat q)) m
      | .exp2 => decideRound f code op false (exp2Bounds q)
      | .log2 => if q < 0 then nanCode f else decideRound f code op false (log2Bounds q)
      | .sin =>
        let b := trigBounds a false
        decideRound f code op n (if n then (-b.2, -b.1) else b)
      | .cos => decideRound f code op false (trigBounds a true)
      | .tanh =>
        let b := tanhBounds a
        decideRound f code op n (if n then (-b.2, -b.1) else b)
      | .sigm => decideRound f code op false (sigmBounds q)

end Sys2Proof.Machine
end

