-- ==== Sys2Proof/Machine/Matrix.lean ====
section
/-! DEFINITION. The matrix unit (R205 to R217) and the T class (R394 to R404). -/

namespace Sys2Proof.Machine

/-! ## The queue and the reel (R205, R211) -/

def State.reel (s : State) (core slot : Nat) : ReelSlot := tget default (s.core core).reel slot
def State.setReel (s : State) (core slot : Nat) (r : ReelSlot) : State :=
  s.modCore core fun c => { c with reel := tset default c.reel slot r }

/-- Slots that a team holds. -/
def heldSlots (s : State) (core team : Nat) : List Nat :=
  ((s.core core).reel.filter fun p => p.2.holder = some team).map (·.1)

/-- Bits 53:48 of CTXSAVE1 (R89). -/
def Team.rsave (t : Team) : Nat := bits t.save1 48 6

/-- Check 4 of R398: the slot is another team's, or taking it would exceed RSAVE (R91). -/
def slotRefused (s : State) (c : Ctx) (slot : Nat) : Bool :=
  match (s.reel c.core slot).holder with
  | some t => t ≠ c.u.team
  | none => c.team.rsave < (heldSlots s c.core c.u.team).length + 1

/-- The three conditions of R205. -/
def matRoom (s : State) (core : Nat) (op : MatOp) : Bool :=
  let q := (s.core core).matq
  let h := (s.reel core op.slot).holder
  decide (q.length < 32) && decide ((q.filter fun m => m.team = op.team).length < 2) && (h = none || h = some op.team)

/-- Acceptance (R205, R211): a free slot is taken at +0.0, and a product is marked by the store writes that the team's MOPF has not
ordered (R169). -/
def acceptOp (s : State) (core : Nat) (op : MatOp) : State :=
  let (tag, s) := s.fresh
  let r := s.reel core op.slot
  let r := if r.holder.isSome then r else { holder := some op.team, data := [], lost := false, early := false }
  let isMma := match op.kind with | .mma _ _ _ _ _ => true | _ => false
  let op := match op.kind with
    | .save va rel _ => { op with kind := .save va rel r.early }
    | _ => op
  let op := { op with tag := tag }
  let ordered := s.known (.mopf op.team)
  let op := (s.core core).stamps.foldl (fun (op : MatOp) p =>
    if p.2.all fun w => ordered.contains w then op else op.taint (p.1 / 2 ^ 22) (p.1 % 2 ^ 22)) op
  let s := s.setReel core op.slot { r with early := r.early || isMma }
  s.modCore core fun c => { c with matq := c.matq ++ [op] }

/-- A new operation of the executing caller. -/
def newOp (c : Ctx) (slot : Nat) (kind : MatKind) : MatOp :=
  { team := c.u.team, slot := slot, kind := kind, started := false, step := 0, row := 0, stop := none, raised := false
    pol := c.launch.nfpol, nonfin := false, tag := 0, taintR := 0, taintC := 0 }

/-- The caller has executed a T-class instruction: its team is affine (R94). -/
def markAffine (c : Ctx) (s : State) : State := s.modTeam c.u.team fun t => { t with affine := true }

/-- Issue of an instruction that hands an operation to the matrix unit (R393): its checks, its acceptance now, or a park
until MATRIX_OP_ACCEPT. -/
def issueOp (i : Instr) (e : Enc) (check : Ctx → State → Except (Byte × W64 × Nat) MatOp) (s : State) :
    Host.Outcome State Fault Refusal :=
  issue i e s fun c s =>
    match (c.us.thread c.slot).park with
    | .matrix op => parkAt c (.matrix op) s
    | .done => advance c 1 (s.modUnit c.u fun u => u.modThread c.slot fun t => { t with park := .none })
    | _ =>
      match check c s with
      | .error (k, info, a) => raiseHere c k info (BitVec.ofNat 64 a) s
      | .ok op =>
        let s := markAffine c s
        if acquiring s c.u then parkAt c .retry s
        else if matRoom s c.core op then advance c 1 (acceptOp s c.core op) else parkAt c (.matrix op) s

/-- MATRIX_OP_ACCEPT (R205): a parked caller's operation is accepted once there is room. A caller that a save has stopped, or that has
exited, hands over nothing (R93). -/
def execMatrixOpAccept (u : UnitRef) (s : State) : Host.Outcome State Fault Refusal :=
  .next <|
    match s.team? u.team, s.unit? u with
    | some t, some us =>
      if t.life ≠ .running || us.exited then s
      else
      let slot := if us.handler.isSome then 5 else 0
      match (us.thread slot).park with
      | .matrix op =>
        if matRoom s us.core op then
          (acceptOp s us.core op).modUnit u fun us => us.modThread slot fun t => { t with park := .done }
        else s
      | _ => s
    | _, _ => s

/-! ## Ends and stops (R205, R211, R215, R403) -/

/-- The pins that a step no longer needs end (R145, R209). -/
def dropTiles (s : State) (core : Nat) (p : TileLine → Bool) : State :=
  let gone := (s.core core).tiles.filter p
  let s := s.modCore core fun c => { c with tiles := c.tiles.filter fun t => !p t }
  gone.foldl (fun s t => releasePin s t.line false) s

/-- The fetch of a line by a product that no longer runs is given up: its pin, or its request for one, ends (R145, R209, R217). -/
def dropTileWait (s : State) (core : Nat) : State :=
  match (s.core core).tileWait with
  | none => s
  | some line =>
    let s := s.modCore core fun c => { c with tileWait := none }
    if s.mem.pinWait.any fun w => w.2.2.2 = core then
      { s with mem := { s.mem with pinWait := s.mem.pinWait.filter fun w => w.2.2.2 ≠ core } }
    else releasePin s line false

/-- Progress restarts the watchdog (R217). -/
def matProgress (s : State) (core : Nat) : State := s.modCore core fun c => { c with watchdog := 0 }

/-- An operation of the queue, replaced. -/
def setOp (s : State) (core : Nat) (op : MatOp) : State :=
  s.modCore core fun c => { c with matq := c.matq.map fun m => if m.tag = op.tag then op else m }

/-- The slot of an operation that ends with its release modifier (R211, R403): an operation of the team that names it and is still to
run, one that a save has withdrawn included, keeps it, at +0.0. -/
def releaseSlot (s : State) (core : Nat) (op : MatOp) : State :=
  let after (m : MatOp) : Bool := m.team = op.team && m.slot = op.slot && decide (op.tag < m.tag)
  let later := (s.core core).matq.any after || (match s.team? op.team with | some t => t.matSaved.any after | none => false)
  if later then s.setReel core op.slot { s.reel core op.slot with data := [] } else s.setReel core op.slot default

/-- An operation ends (R205): it leaves the queue, an EPI's non-finite output is noted (R400), and its slot is released. -/
def endOp (s : State) (core : Nat) (op : MatOp) : State :=
  let s := s.modCore core fun c => { c with matq := c.matq.filter fun m => m.tag ≠ op.tag }
  let s := dropTiles s core fun t => t.tag = op.tag
  let s := if op.nonfin then s.modTeam op.team fun t => { t with epiNotes := t.epiNotes ++ [op.slot] } else s
  let rel := match op.kind with
    | .epi mod _ _ _ _ => mod.getLsbD 6
    | .save _ rel _ => rel
    | _ => false
  if rel then releaseSlot s core op else s

/-- An operation stops under R215. -/
def stopOp (s : State) (core : Nat) (op : MatOp) (cause : Byte) (info : W64) (addr : Nat) : State :=
  let p : PendTrap :=
    { cause := cause, level := 3, f := 0, addr := BitVec.ofNat 64 addr, info := info ||| (1#64 <<< 16)
      rep := default }
  let s := if op.kind.isSeq && op.active then dropTileWait s core else s
  setOp s core { op with stop := some p, raised := false, active := false }

/-- Windows and world of an operation's caller. -/
def opWins (s : State) (op : MatOp) : Table W64 := match s.team? op.team with | some t => t.wins | none => []

/-! ## The sequencer (R189, R206 to R210) -/

/-- The execution list of a product (R206, R210). -/
def execList (s : State) (core : Nat) (sparse : Bool) (cw aw : W64) : List Nat :=
  let n := slabs cw aw
  if !sparse then List.range n
  else
    let bit (base k : Nat) : Bool := (storeRead s core 0 (base + k / 8) 1).headD 0 |>.getLsbD (k % 8)
    (List.range n).filter fun k => bit (cwBmx cw) k && bit (cwBmx cw + 256) k

/-- An engine takes up an operation: it begins, or goes on where it stood (R205, R215). -/
def startOp (s : State) (core : Nat) (op : MatOp) : MatOp × State :=
  if op.started && op.active then (op, s)
  else
    let kind := match op.kind with
      | .mma sparse cw aw bw l => .mma sparse cw aw bw (if op.started then l else execList s core sparse cw aw)
      | k => k
    let op := { op with kind := kind, started := true, active := true }
    let s := if op.kind.isSeq then dropTileWait s core else s
    let s := s.modCore core fun c => { c with matq := c.matq.map fun m => if m.kind.isSeq = op.kind.isSeq then { m with active := false } else m }
    (op, setOp s core op)

/-- Element `j` of a row's four bytes (R207). -/
def slabCode (fmt : Nat) (b : Bytes) (j : Nat) : Nat :=
  match slabElems fmt with
  | some 2 => (b.getD (2 * j) 0).toNat + (b.getD (2 * j + 1) 0).toNat * 256
  | some 8 => (b.getD (j / 2) 0).toNat / 16 ^ (j % 2) % 16
  | _ => (b.getD j 0).toNat

/-- The value of an element with its scale (R181, R189). -/
def slabValue (fmt scale code : Nat) : Num :=
  match fmtCode fmt with
  | some .mxf4 => blockValue false scale code
  | some .mxi8 => blockValue true scale code
  | some (.num f) => valueOf f code
  | _ => .nan

/-- The values of one row of A, or column of B, of a slab. -/
def slabRow (s : State) (core : Nat) (fmt scaleBase slab : Nat) (data : Bytes) (r : Nat) : List Num :=
  let e := (slabElems fmt).getD 4
  let scale := if scaledFmt fmt then ((storeRead s core 2 (scaleBase + slab * e / 32 * 128 + r) 1).headD 0).toNat else 127
  (List.range e).map fun j => slabValue fmt scale (slabCode fmt ((data.drop (4 * r)).take 4) j)

/-- The 512 bytes of a slab, from its store or from the lines fetched; none while a line is missing. -/
def slabData (s : State) (core : Nat) (op : MatOp) (w : W64) (isB : Bool) (slab : Nat) : Option Bytes :=
  if !owDir w then some (storeRead s core (if isB then 1 else 0) (owAddr w + 512 * slab) 512)
  else
    (List.range 4).foldl (fun (acc : Option Bytes) k =>
      match acc, (s.core core).tiles.find? fun t => t.tag = op.tag && t.isB = isB && t.idx = 4 * slab + k with
      | some bs, some t => some (bs ++ t.data)
      | _, _ => none) (some [])

/-- One k-slab summed into the slot (R189): each element the exact sum of its accumulator and the slab's products. -/
def slabStep (s : State) (core : Nat) (op : MatOp) (cw aw bw : W64) (slab : Nat) (a b : Bytes) : State :=
  let rows := (List.range 128).map fun r => slabRow s core (owFmt aw) (cwSca cw) slab a r
  let cols := (List.range 128).map fun c => slabRow s core (owFmt bw) (cwScb cw) slab b c
  let slot := s.reel core op.slot
  let data := tofList 0 0 ((tlist 0 0 16384 slot.data).zipIdx.map fun q =>
    let ps := ((rows.getD (q.2 / 128) []).zip (cols.getD (q.2 % 128) [])).map fun p => p.1.mul p.2
    f32Round (numSum (f32Val q.1 :: ps)))
  s.setReel core op.slot { slot with data := data }

/-- Elements that depend on a write which nothing orders take free values (R169). -/
def spoil (s : State) (core : Nat) (op : MatOp) : State :=
  if op.taintR = 0 && op.taintC = 0 then s
  else
    let n := s.freeCtr
    let slot := s.reel core op.slot
    let data := tofList 0 0 ((tlist 0 0 16384 slot.data).zipIdx.map fun q =>
      if op.taintR.getLsbD (q.2 / 128) || op.taintC.getLsbD (q.2 % 128) then Config.freeBits 32 (n + q.2) else q.1)
    { (s.setReel core op.slot { slot with data := data }) with freeCtr := n + 16384 }

/-- SEQUENCER_STEP (R206): the running sequencer operation performs one step, or all of MZERO. -/
def execSequencerStep (core : Nat) (s : State) : Host.Outcome State Fault Refusal :=
  .next <|
    match runningOp (s.core core).matq true with
    | none => s
    | some op =>
      let (op, s) := startOp s core op
      match op.kind with
      | .zero => endOp (matProgress (s.setReel core op.slot { s.reel core op.slot with data := [] }) core) core op
      | .mma _ cw aw bw exp =>
        match exp[op.step]? with
        | none => endOp (spoil s core op) core op
        | some slab =>
          match slabData s core op aw false slab, slabData s core op bw true slab with
          | some a, some b =>
            let s := (matProgress (slabStep s core op cw aw bw slab a b) core).countCore core 0x06 1
            let op := { op with step := op.step + 1 }
            let s := dropTiles (setOp s core op) core fun t => t.tag = op.tag && t.idx / 4 = slab
            if op.step < exp.length then s else endOp (spoil s core op) core op
          | _, _ => s
      | _ => s

/-- The next line that the running product needs from memory: which operand, its number in the image, its address. -/
def nextLine (s : State) (core : Nat) (op : MatOp) : Option (Bool × Nat × Nat) :=
  match op.kind with
  | .mma _ _ aw bw exp =>
    let lines := (exp.drop op.step).flatMap fun slab =>
      ((if owDir aw then (List.range 4).map fun k => (false, 4 * slab + k, owAddr aw + 512 * slab + 128 * k) else []) ++
       (if owDir bw then (List.range 4).map fun k => (true, 4 * slab + k, owAddr bw + 512 * slab + 128 * k) else []))
    lines.find? fun l => !((s.core core).tiles.any fun t => t.tag = op.tag && t.isB = l.1 && t.idx = l.2.1)
  | _ => none

/-- TILE_FETCH_RETURN (R209): the next line of a direct-mode image is pinned under the limit of R145, and read at its
home. -/
def execTileFetchReturn (core : Nat) (s : State) : Host.Outcome State Fault Refusal :=
  .next <|
    match runningOp (s.core core).matq true with
    | none => s
    | some op =>
      let (op, s) := startOp s core op
      match nextLine s core op with
      | none => s
      | some (isB, idx, va) =>
        let wins := opWins s op
        match engineCheck s wins (s.coreSecure core) false va 128 with
        | .wait => s
        | .stop k info a => stopOp (engineNote s wins false (.stop k info a) (s.coreTag core)) core op k info a
        | .ok =>
          let ia := engineIa wins (s.coreSecure core) false va
          let line := lineOf ia
          let waits (s : State) : Bool := s.mem.pinWait.any fun w => w.2.2.2 = core
          let s := if (s.core core).tileWait = some line then s
            else (requestPin s line false (s.coreTag core) core).modCore core fun c => { c with tileWait := some line }
          if waits s then s
          else
            let (bad, bs, s) := agentRead s ia 128 (s.coreTag core)
            let s := s.modCore core fun c => { c with tileWait := none }
            if bad then stopOp (releasePin s line false) core op 0x0A 1024 va
            else s.modCore core fun c => { c with tiles := c.tiles ++ [⟨op.tag, isB, idx, line, bs⟩] }

/-! ## The epilogue engine (R213, R214) -/

/-- The canonical NaN of F32 (R177). -/
def f32Nan : W32 := BitVec.ofNat 32 (nanCode .f32)

/-- Activations (R214, R312). A NaN that one gives is the canonical one (R177); the identity passes every bit. -/
def activation (act : Nat) (v alpha lo hi : W32) : W32 :=
  let mm (m : Bool) (a b : W32) : W32 := BitVec.ofNat 32 (minMaxCode m .f32 a.toNat b.toNat).1
  let sigm : W32 := BitVec.ofNat 32 (specialFn .sigm .f32 .rne v.toNat)
  match act with
  | 1 => if f32Val v = .nan then f32Nan else mm true v 0
  | 2 => match f32Val v with
    | .nan => f32Nan
    | .inf true => f32Mul alpha v
    | .fin _ q => if q < 0 then f32Mul alpha v else v
    | _ => v
  | 3 => mm false (mm true v lo) hi
  | 4 => BitVec.ofNat 32 (specialFn .tanh .f32 .rne v.toNat)
  | 5 => sigm
  | 6 => f32Mul v sigm
  | _ => v

/-- Bits of an element of CONV, and its policy-checked codes for a row: codes, scales, and the non-finite note. -/
def convertRow (conv pol : Nat) (vs : List W32) : Bytes × Bytes × Bool :=
  let pol' := if pol = 2 then 0 else pol
  let blocks (mx : Bool) : List (Nat × List Nat) := (List.range 4).map fun j =>
    (quantise pol' mx ((vs.drop (32 * j)).take 32)).getD (0xFF, [])
  let note := pol = 2 && vs.any fun v => nonFinite .f32 v.toNat
  match fmtCode conv with
  | some .mxf4 =>
    let bl := blocks false
    (bl.flatMap fun p => (List.range 16).map fun k => BitVec.ofNat 8 (p.2.getD (2 * k) 0 + p.2.getD (2 * k + 1) 0 * 16),
     bl.map fun p => BitVec.ofNat 8 p.1, note)
  | some .mxi8 =>
    let bl := blocks true
    (bl.flatMap fun p => p.2.map fun x => BitVec.ofNat 8 x, bl.map fun p => BitVec.ofNat 8 p.1, note)
  | some (.num f) =>
    let codes := vs.map fun v => if f = .f32 then v.toNat else roundTo f (f32Val v) .rne
    (codes.flatMap fun x => bytesOf (f.width / 8) (if f.isInt then x else policy pol' f x), [],
     pol = 2 && !f.isInt && codes.any fun x => nonFinite f x)
  | _ => ([], [], false)

/-- Row size of CONV in bytes (R402). -/
def convRow (conv : Nat) : Nat :=
  match fmtCode conv with
  | some .mxf4 => 64
  | some .mxi8 => 128
  | some (.num f) => 16 * f.width
  | _ => 0

/-- An F32 of the parameter block (R402). -/
def epiParam (s : State) (core base off : Nat) : W32 := BitVec.ofNat 32 (natOf (storeRead s core 0 (base + off) 4))

/-- One row of the tail slot transformed (R214). -/
def epiRow (s : State) (core : Nat) (op : MatOp) (mod : BitVec 8) (a : W64) : List W32 :=
  let p := bits a 6 11 * 2048
  let slot := s.reel core op.slot
  (List.range 128).map fun col =>
    let v := tget 0 slot.data (128 * op.row + col)
    let v := if mod.getLsbD 3 then f32Mul v (epiParam s core p (4 * op.row)) else v
    let v := if mod.getLsbD 4 then f32Mul v (epiParam s core p (512 + 4 * col)) else v
    let v := if mod.getLsbD 5 then f32Add v (epiParam s core p (1024 + 4 * col)) else v
    activation (bits mod 0 3) v (epiParam s core p 1536) (epiParam s core p 1540) (epiParam s core p 1544)

/-- EPI's places (R402): MEM and the base of a destination or scale word. -/
def ewMem (w : W64) : Bool := w.getLsbD 0
def ewAddr (w : W64) : Nat := bits w 4 53 * 16

/-- Bytes written at an EPI's destination. -/
def epiWrite (s : State) (core : Nat) (op : MatOp) (w : W64) (off : Nat) (bs : Bytes) : State :=
  if bs = [] then s
  else if ewMem w then
    -- a scale row of 4 bytes lies within one 16-byte piece
    if bs.length < 16 then coreWrite s core (engineIa (opWins s op) (s.coreSecure core) true (ewAddr w + off)) 0 bs
    else engineCoreWrite s core (opWins s op) (s.coreSecure core) (ewAddr w + off) bs
  else storeWrite s core 0 (ewAddr w + off) (.epi op.team op.slot) bs

/-- EPILOGUE_ROW (R214): the running EPI transforms and writes one row. -/
def execEpilogueRow (core : Nat) (s : State) : Host.Outcome State Fault Refusal :=
  .next <|
    match runningOp (s.core core).matq false with
    | none => s
    | some op =>
      match op.kind with
      | .epi mod conv a b d =>
        let (op, s) := startOp s core op
        let off := op.row * bits a 20 20
        let (bs, sc, note) := convertRow conv op.pol (epiRow s core op mod a)
        let check (w : W64) (o n : Nat) : EngAns :=
          if ewMem w && n ≠ 0 then engineCheck s (opWins s op) (s.coreSecure core) true (ewAddr w + o) n else .ok
        match check b off bs.length, check d (4 * op.row) sc.length with
        | .stop k i x, _ => stopOp (engineNote s (opWins s op) true (.stop k i x) (s.coreTag core)) core op k i x
        | _, .stop k i x => stopOp (engineNote s (opWins s op) true (.stop k i x) (s.coreTag core)) core op k i x
        | .ok, .ok =>
          let s := epiWrite s core op b off bs
          let s := epiWrite s core op d (4 * op.row) sc
          let op := { op with row := op.row + 1, nonfin := op.nonfin || note }
          let s := matProgress (setOp s core op) core
          if op.row < 128 then s else endOp s core op
        | _, _ => s
      | _ => s

/-- The 512 bytes of a row in the image of R213. -/
def rowBytes (slot : ReelSlot) (r : Nat) : Bytes := (List.range 128).flatMap fun c => bytesOf 4 (tget 0 slot.data (128 * r + c)).toNat

/-- One 512-byte transfer of MSAVE: an unpredictable row where no MWAIT has covered the slot's MMA (R169). -/
def saveRow (s : State) (core : Nat) (op : MatOp) (va : Nat) (early : Bool) : State :=
  let a := va + 512 * op.row
  match engineCheck s (opWins s op) (s.coreSecure core) true a 512 with
  | .wait => s
  | .stop k i x => stopOp (engineNote s (opWins s op) true (.stop k i x) (s.coreTag core)) core op k i x
  | .ok =>
    let (bs, s) := if early then
        let (v, s) := s.draw 4096
        (bytesOf 512 v.toNat, s)
      else (rowBytes (s.reel core op.slot) op.row, s)
    let s := engineCoreWrite s core (opWins s op) (s.coreSecure core) a bs
    let op := { op with row := op.row + 1 }
    let s := matProgress (setOp s core op) core
    if op.row < 128 then s else endOp s core op

/-- One 512-byte transfer of MREST. -/
def restRow (s : State) (core : Nat) (op : MatOp) (va : Nat) : State :=
  let a := va + 512 * op.row
  match engineCoreCheck s core (opWins s op) (s.coreSecure core) a 512 with
  | .wait => s
  | .stop k i x => stopOp (engineNote s (opWins s op) false (.stop k i x) (s.coreTag core)) core op k i x
  | .ok =>
    let (bad, bs, s) := engineCoreRead s core (opWins s op) (s.coreSecure core) a 512
    if bad then stopOp s core op 0x0A 1024 a
    else
      let slot := s.reel core op.slot
      let data := (List.range 128).foldl (fun (t : Table W32) c =>
        tset 0 t (128 * op.row + c) (BitVec.ofNat 32 (natOf ((bs.drop (4 * c)).take 4)))) slot.data
      let s := s.setReel core op.slot { slot with data := data }
      let op := { op with row := op.row + 1, step := op.step + 1 }
      let s := matProgress (setOp s core op) core
      if op.row < 128 then s else endOp s core op

/-- MSAVE_MREST_TRANSFER (R213, R217): one 512-byte row of the running MSAVE, or else of the running MREST. -/
def execMsaveMrestTransfer (core : Nat) (s : State) : Host.Outcome State Fault Refusal :=
  .next <|
    match runningOp (s.core core).matq false, runningOp (s.core core).matq true with
    | some { kind := .save va _ early, tag := t, .. }, _ =>
      match (s.core core).matq.find? fun m => m.tag = t with
      | some op => let (op, s) := startOp s core op; saveRow s core op va early
      | none => s
    | _, some { kind := .rest va, tag := t, .. } =>
      match (s.core core).matq.find? fun m => m.tag = t with
      | some op => let (op, s) := startOp s core op; restRow s core op va
      | none => s
    | _, _ => s

/-- MATRIX_WATCHDOG_EXPIRY (R217): the cycles that the counter still lacks pass, and the matrix unit is reset. -/
def execMatrixWatchdogExpiry (core : Nat) (s : State) : Host.Outcome State Fault Refusal :=
  .next <|
    if !(s.core core).matrixRuns || !s.coreClocked core then s
    else
      let s := s.elapse core (2 ^ 24 - (s.core core).watchdog)
      let s := dropTileWait (dropTiles s core fun _ => true) core
      let holders := (s.residents.filter fun p => (heldSlots s core p.1) ≠ []).map (·.1)
      let s := s.modCore core fun c =>
        { c with matq := [], watchdog := 0, tileWait := none
                 reel := c.reel.map fun p => (p.1, { p.2 with data := [], lost := true, early := false }) }
      holders.foldl (fun s t => raiseTeam s t 0x0E 0) s

/-! ## The T class (R394 to R404) -/

/-- A uniform operand of the caller. -/
def useU (a : BitVec 9) (fe : Bool) : Use := Use.src a fe 1 .sca

/-- C and FEC zero, and no literal (R391). -/
def eOk (f : RForm) : Bool := f.c = 0 && !f.fec && f.lit.isNone

/-- A slot operand (R394). -/
def slotOf (v : W64) : Option Nat := if v.toNat < 32 then some v.toNat else none

/-- The requirements of TDESC (R282, R283). -/
def encTdesc (f : IForm) : Enc :=
  { ok := !f.feb && !f.fec && litOkI f, grp := false, uses := [Use.dst f.d 1 .reg, useU f.a f.fea], mask := f.mask
    len := lenOf f.lit }

/-- TDESC (R396). -/
def execTdesc (f : IForm) (s : State) : Host.Outcome State Fault Refusal :=
  let e := encTdesc f
  issue (.tdesc f) e s fun c s =>
    let x := sval s c f.a + immS f
    let dir := f.mod.getLsbD 6
    if (slabElems (bits f.mod 0 6)).isNone then raiseHere c 0x01 0 0 s
    else if x.toNat % 512 ≠ 0 then raiseHere c 0x05 0 x s
    else if 2 ^ 57 ≤ x.toNat || (!dir && decide (2 ^ 22 ≤ x.toNat)) then raiseHere c 0x07 0 x s
    else advance c e.len (writeS c f.d (x ||| BitVec.ofNat 64 (bits f.mod 0 7)) (markAffine c s))

/-- The requirements of MOPF (R282, R283). -/
def encMopf (f : RForm) : Enc := { ok := allZero f, grp := false, uses := [], mask := f.mask }

/-- MOPF (R169, R399): once the caller's earlier acquires are complete, the core's dirty bytes are written back, and the writes to the
stores that happen before it are ordered before every later product of the team (log 74). -/
def execMopf (f : RForm) (s : State) : Host.Outcome State Fault Refusal :=
  issue (.mopf f) (encMopf f) s fun c s =>
    if acquiring s c.u then parkAt c .retry s
    else advance c 1 ((writebackAll (markAffine c s) c.core).pass (.unit c.u) (.mopf c.u.team))

/-- The checks of MMA and MMASP (R398). -/
def checkMma (sparse : Bool) (f : RForm) (c : Ctx) (s : State) : Except (Byte × W64 × Nat) MatOp :=
  let cw := sval s c f.d
  let aw := sval s c f.a
  let bw := sval s c f.b
  let past (w : W64) : Bool := !owDir w && decide (2 ^ 22 < owAddr w + 512 * slabs cw w)
  let pastSc (w : W64) (base : Nat) : Bool := scaledFmt (owFmt w) && decide (2 ^ 18 < base + 4 * cwK cw)
  let direct (w : W64) : Option (Byte × Nat) :=
    if owDir w then rangeCheck c.team.wins c.secure .read (owAddr w) (512 * slabs cw w) else none
  if !owOk aw || !owOk bw || cw.getLsbD 5 || bits cw 48 16 ≠ 0 || cwKc cw = 0 || 64 < cwKc cw ||
      (!sparse && cwBmx cw ≠ 0) || slabElems (owFmt aw) ≠ slabElems (owFmt bw) then .error (0x01, 0, 0)
  else if past aw || past bw || pastSc aw (cwSca cw) || pastSc bw (cwScb cw) ||
      (sparse && decide (2 ^ 22 < cwBmx cw + 512)) then .error (0x07, 0, 0)
  else
    match (direct aw).or (direct bw) with
    | some (k, a) => .error (k, atIssue, a)
    | none =>
      if slotRefused s c (cwSlot cw) then .error (0x07, 0, 0)
      else .ok (newOp c (cwSlot cw) (.mma sparse cw aw bw []))

/-- D, A and B are words read by the caller (R394). -/
def encMma (f : RForm) : Enc :=
  { ok := eOk f && f.mod = 0, grp := false, uses := [Use.imp f.d 1 .sca, useU f.a f.fea, useU f.b f.feb], mask := f.mask }

/-- MMA (R398). -/
def execMma (f : RForm) (s : State) : Host.Outcome State Fault Refusal := issueOp (.mma f) (encMma f) (checkMma false f) s

/-- MMASP (R398). -/
def execMmasp (f : RForm) (s : State) : Host.Outcome State Fault Refusal := issueOp (.mmasp f) (encMma f) (checkMma true f) s

/-- The requirements of MWAIT (R282, R283). -/
def encMwait (f : RForm) : Enc :=
  let all := f.mod = 1
  { ok := eOk f && f.d = 0 && f.b = 0 && !f.feb && (f.mod = 0 || (all && f.a = 0x180)), grp := false
    uses := [useU f.a f.fea], mask := f.mask }

/-- MWAIT (R400). -/
def execMwait (f : RForm) (s : State) : Host.Outcome State Fault Refusal :=
  let all := f.mod = 1
  issue (.mwait f) (encMwait f) s fun c s =>
    let slot := sval s c f.a
    if !all && (slotOf slot).isNone then raiseHere c 0x01 0 0 s
    else
      let s := markAffine c s
      let covered (m : MatOp) : Bool := m.team = c.u.team && (all || m.slot = slot.toNat)
      let q := (s.core c.core).matq.filter covered
      match q.find? fun m => m.stop.isSome with
      | some m =>
        -- the handler's own MWAIT meets the stop again (R120, R215)
        if m.raised && !c.inHandler then parkAt c .retry (setOp s c.core { m with stop := none, raised := false })
        else
          let p := m.stop.getD default
          takeTrap (setOp s c.core { m with raised := true }) c.u c.slot { p with rep := c.rep }
      | none =>
        if q ≠ [] then parkAt c .retry s
        else
          let noted := (match s.team? c.u.team with | some t => t.epiNotes | none => []).find? fun n => all || n = slot.toNat
          match noted with
          | some n => raiseHere c 0x10 (1#64 <<< 16) 0 (s.modTeam c.u.team fun t => { t with epiNotes := t.epiNotes.erase n })
          | none =>
            let slots := if all then List.range 32 else [slot.toNat]
            let s := slots.foldl (fun s n =>
              let r := s.reel c.core n
              let s := if r.holder = some c.u.team then s.setReel c.core n { r with early := false } else s
              s.pass (.epi c.u.team n) (.unit c.u)) s
            advance c 1 (acquirePart s c 0)

/-- The checks of an operation that names only its slot. -/
def checkSlot (v : W64) (c : Ctx) (s : State) (kind : MatKind) : Except (Byte × W64 × Nat) MatOp :=
  match slotOf v with
  | none => .error (0x01, 0, 0)
  | some n => if slotRefused s c n then .error (0x07, 0, 0) else .ok (newOp c n kind)

/-- The requirements of MZERO (R282, R283). -/
def encMzero (f : RForm) : Enc :=
  { ok := eOk f && f.d = 0 && f.b = 0 && !f.feb && f.mod = 0, grp := false, uses := [useU f.a f.fea], mask := f.mask }

/-- MZERO (R401). -/
def execMzero (f : RForm) (s : State) : Host.Outcome State Fault Refusal :=
  issueOp (.mzero f) (encMzero f) (fun c s => checkSlot (sval s c f.a) c s .zero) s

/-- Whether CONV writes scales (R402). -/
def convMx (conv : Nat) : Bool := conv = 0x0F || conv = 0x10

/-- CONV codes that EPI accepts (R312). -/
def convOk (conv : Nat) : Bool :=
  conv = 0x06 || conv = 0x08 || conv = 0x09 || conv = 0x0A || convMx conv || (decide (0x20 ≤ conv) && decide (conv < 0x3C))

/-- The requirements of EPI (R282, R283). -/
def encEpi (f : RForm) : Enc :=
  let conv := bits f.c 0 6
  let mx := convMx conv
  { ok := bits f.c 6 3 = 0 && !f.fec && f.lit.isNone && !f.mod.getLsbD 7 && bits f.mod 0 3 ≠ 7 && convOk conv && (mx || f.d = 0)
    grp := false, uses := (if mx then [Use.imp f.d 1 .sca] else []) ++ [useU f.a f.fea, useU f.b f.feb], mask := f.mask }

/-- The checks of EPI at issue (R402, R403). -/
def checkEpi (f : RForm) (c : Ctx) (s : State) : Except (Byte × W64 × Nat) MatOp :=
  let conv := bits f.c 0 6
  let mx := convMx conv
  let a := sval s c f.a
  let b := sval s c f.b
  let d := if mx then sval s c f.d else 0
  let res (w : W64) : Bool := bits w 1 3 ≠ 0 || bits w 57 7 ≠ 0
  let pitch := bits a 20 20
  let row := convRow conv
  if a.getLsbD 5 || bits a 17 3 ≠ 0 || bits a 40 24 ≠ 0 || res b || res d then .error (0x01, 0, 0)
  else if pitch % 16 ≠ 0 || pitch < row || (!ewMem b && decide (2 ^ 22 < ewAddr b + 127 * pitch + row)) ||
      (mx && !ewMem d && decide (2 ^ 22 < ewAddr d + 512)) || slotRefused s c (bits a 0 5) then .error (0x07, 0, 0)
  else
    let rows := if ewMem b then (List.range 128).findSome? fun r =>
        rangeCheck c.team.wins c.secure .write (ewAddr b + r * pitch) row else none
    let scales := if mx && ewMem d then rangeCheck c.team.wins c.secure .write (ewAddr d) 512 else none
    match rows.or scales with
    | some (k, x) => .error (k, atIssue, x)
    | none => .ok (newOp c (bits a 0 5) (.epi f.mod conv a b d))

/-- EPI (R402, R403). -/
def execEpi (f : RForm) (s : State) : Host.Outcome State Fault Refusal :=
  issueOp (.epi f) (encEpi f) (checkEpi f) s

/-- The image address of MSAVE and MREST (R404). -/
def checkImage (f : RForm) (kind : Kind) (op : Nat → MatKind) (c : Ctx) (s : State) : Except (Byte × W64 × Nat) MatOp :=
  match slotOf (sval s c f.a) with
  | none => .error (0x01, 0, 0)
  | some n =>
    let va := (sval s c f.b).toNat
    if va % 512 ≠ 0 then .error (0x05, atIssue, va)
    else
      match rangeCheck c.team.wins c.secure kind va 65536 with
      | some (k, x) => .error (k, atIssue, x)
      | none => if slotRefused s c n then .error (0x07, 0, 0) else .ok (newOp c n (op va))

/-- The requirements of MSAVE (R282, R283). -/
def encMsave (f : RForm) : Enc :=
  { ok := eOk f && f.d = 0 && (f.mod = 0 || f.mod = 0x40), grp := false, uses := [useU f.a f.fea, useU f.b f.feb], mask := f.mask }

/-- MSAVE (R404). -/
def execMsave (f : RForm) (s : State) : Host.Outcome State Fault Refusal :=
  issueOp (.msave f) (encMsave f) (checkImage f .write fun va => .save va (f.mod.getLsbD 6) false) s

/-- The requirements of MREST (R282, R283). -/
def encMrest (f : RForm) : Enc :=
  { ok := eOk f && f.d = 0 && f.mod = 0, grp := false, uses := [useU f.a f.fea, useU f.b f.feb], mask := f.mask }

/-- MREST (R404). -/
def execMrest (f : RForm) (s : State) : Host.Outcome State Fault Refusal :=
  issueOp (.mrest f) (encMrest f) (checkImage f .read fun va => .rest va) s

/-- The status word of a slot (R212). -/
def statusWord (s : State) (core team slot : Nat) : W64 :=
  let r := s.reel core slot
  match r.holder with
  | none => 0
  | some h =>
    let q := (s.core core).matq
    let mine := q.filter fun m => m.team = h && m.slot = slot
    let runs (isSeq : Bool) : Bool := match runningOp q isSeq with | some m => m.started && m.team = h && m.slot = slot | none => false
    let stopped := mine.find? fun m => m.stop.isSome
    let st := if stopped.isSome then 6
      else if runs true then 3
      else if runs false then 5
      else match mine with
        | [] => 1
        | m :: _ => if m.kind.isSeq then 2 else 4
    if h ≠ team then BitVec.ofNat 64 st
    else
      let step := match stopped with
        | some m => if m.kind.isSeq then m.step else 0
        | none => if st = 3 then (match runningOp q true with | some m => m.step | none => 0) else 0
      BitVec.ofNat 64 (st + 8 + (if r.lost then 16 else 0) + mine.length % 8 * 32 + step % 2 ^ 24 * 256)

/-- The requirements of MSTAT (R282, R283). -/
def encMstat (f : RForm) : Enc :=
  { ok := eOk f && f.b = 0 && !f.feb && f.mod = 0, grp := false, uses := [Use.dst f.d 1 .reg, useU f.a f.fea], mask := f.mask }

/-- MSTAT (R212, R404): reading clears LOST. -/
def execMstat (f : RForm) (s : State) : Host.Outcome State Fault Refusal :=
  issue (.mstat f) (encMstat f) s fun c s =>
    match slotOf (sval s c f.a) with
    | none => raiseHere c 0x01 0 0 s
    | some n =>
      let v := statusWord s c.core c.u.team n
      let r := s.reel c.core n
      let s := if r.holder = some c.u.team then s.setReel c.core n { r with lost := false } else s
      advance c 1 (writeS c f.d v (markAffine c s))

end Sys2Proof.Machine
end

