-- ==== Sys2Proof/Machine/Copy.lean ====
section
/-! DEFINITION. Copy channels, transfer records and completion rings (R192 to R204, R405 to R411). -/

namespace Sys2Proof.Machine

/-! ## Channels (R192) -/

def State.channel (s : State) (n : Nat) : Channel := tget default s.channels n
def State.setChannel (s : State) (n : Nat) (c : Channel) : State := { s with channels := tset default s.channels n c }
def State.modChannel (s : State) (n : Nat) (f : Channel → Channel) : State := s.setChannel n (f (s.channel n))

/-- Channels that an XCOPY on a core may use (R192): those of its base die and of its world. Each base die has 32 engines
of four channels. -/
def channelsOf (s : State) (core : Nat) : List Nat :=
  ((List.range 128).map fun k => 128 * (core / 32) + k).filter fun n => s.pkg.worldCopy.getLsbD (n / 4) = s.coreSecure core

/-- The lowest-numbered idle candidate. -/
def idleChannel (s : State) (core : Nat) : Option Nat := (channelsOf s core).find? fun n => (s.channel n).st = .idle

/-- Chains that a team started and that have not ended. -/
def teamChains (s : State) (team : Nat) : Nat := (s.channels.filter fun p => p.2.team = team && p.2.st ≠ .idle).length

/-- The core for which an issuer waits: a stream's own, or, from 100 on, the core of a chain that restarts (R96, R192). -/
def waitCore (s : State) (w : UnitRef × Nat) : Option Nat :=
  if 100 ≤ w.2 then (s.team? w.1.team).map fun t => t.cores.getD (w.2 - 100) t.home
  else (s.unit? w.1).bind fun u => if u.exited then none else some u.core

/-- Whether a waiting issuer could take a channel of the same pool (R192). -/
def chainReady (s : State) (core : Nat) (w : UnitRef × Nat) : Bool :=
  match waitCore s w with
  | some k => k / 32 = core / 32 && s.coreSecure k = s.coreSecure core && decide (teamChains s w.1.team < 32)
  | none => false

/-- A chain starts on a channel (R192, R406): LAST is still the status of the last record ended. -/
def startChain (s : State) (n head core place team ctx pol : Nat) (wins : Table W64) : State :=
  s.setChannel n
    { (default : Channel) with head := head, cur := head, st := .reading, ctx := ctx, core := core, place := place, team := team
                               pol := pol, wins := wins, last := (s.channel n).last }

/-! ## Completion rings (R198, R199, R408) -/

def State.ring (s : State) (core k : Nat) : BitVec 256 := tget 0 (s.core core).rings k
def State.setRing (s : State) (core k : Nat) (r : BitVec 256) : State :=
  s.modCore core fun c => { c with rings := tset 0 c.rings k r }

def rgBase (r : BitVec 256) : Nat := bits r 0 57
def rgLogn (r : BitVec 256) : Nat := bits r 64 4
def rgR (r : BitVec 256) : Nat := bits r 128 32
def rgW (r : BitVec 256) : Nat := bits r 160 32
def rgRes (r : BitVec 256) : Nat := bits r 192 32
def rgHeld (r : BitVec 256) : Bool := r.getLsbD 224
def rgPlace (r : BitVec 256) : Nat := bits r 225 4

/-- Whether a team holds a ring of a core (R198). -/
def ringHeld (s : State) (core k team : Nat) : Bool :=
  (match s.team? team with
   | some t => t.resident && core ∈ t.cores && rgHeld (s.ring core k) && rgPlace (s.ring core k) = t.placeOn core &&
       !((s.core core).orphans.any fun o => o.1 = k)
   | none => false) || decide ((k, team) ∈ (s.core core).orphans)

/-- A filled slot is available (R199, R204). -/
def ringReady (r : BitVec 256) : Bool := rgW r ≠ rgR r

/-- Slots reserved and not read fill the ring (R199). -/
def ringFull (r : BitVec 256) : Bool := (rgRes r + 2 ^ 32 - rgR r) % 2 ^ 32 = 2 ^ rgLogn r

/-- The slot of an index (R198). -/
def slotAddr (r : BitVec 256) (i : Nat) : Nat := rgBase r + 32 * (i % 2 ^ rgLogn r)

/-- WPTR over every contiguous filled slot (R199). -/
def advanceW : Nat → Nat → Nat → List (Nat × W32) → Nat × List (Nat × W32)
  | 0, _, w, l => (w, l)
  | n + 1, k, w, l =>
    if (k, BitVec.ofNat 32 w) ∈ l then advanceW n k ((w + 1) % 2 ^ 32) (l.erase (k, BitVec.ofNat 32 w)) else (w, l)

/-- A slot is filled (R199, R408): its 32 bytes are written, a refusal is noted and the slot dropped, and WPTR moves. -/
def fillSlot (s : State) (core k : Nat) (i : W32) (wins : Table W64) (ctx : Nat) (slot : BitVec 256) : State :=
  let r := s.ring core k
  let a := slotAddr r i.toNat
  let s := match engineCheck s wins (s.coreSecure core) true a 32 with
    | .ok => engineWrite s wins (s.coreSecure core) a (s.coreTag core) (bytesOf 32 slot.toNat)
    | x => ((engineNote s wins true x (s.coreTag core)).noteBit ctx 197).noteAddr ctx a
  let filled := (s.core core).filled ++ [(k, i)]
  let (w, left) := advanceW filled.length k (rgW r) filled
  (s.setRing core k (setBits r 160 32 w)).modCore core fun c => { c with filled := left }

/-- A slot that is filled is a release of what happens before this point (R168, R269). -/
def slotSync (s : State) (p : SyncPt) (core k i : Nat) : State :=
  let sl := SyncPt.slot core k i
  (s.forget fun x => x = sl).pass p sl

/-- A slot's contents (R198). -/
def slotWord (seq status sectors rec : Nat) : BitVec 256 :=
  setBits (setBits (setBits (setBits 0 0 32 seq) 32 8 status) 64 40 sectors) 128 57 rec

/-! ## Records (R193) -/

def rMode (r : BitVec 512) : Nat := bits r 1 3
def rSpeer (r : BitVec 512) : Bool := r.getLsbD 4
def rDpeer (r : BitVec 512) : Bool := r.getLsbD 5
def rSsp (r : BitVec 512) : Nat := bits r 6 2
def rDsp (r : BitVec 512) : Nat := bits r 8 2
def rScope (r : BitVec 512) : Nat := bits r 10 5
def rRingen (r : BitVec 512) : Bool := r.getLsbD 15
def rRing (r : BitVec 512) : Nat := bits r 16 6
def rEsz (r : BitVec 512) : Nat := 4 * 2 ^ bits r 22 2
def rQfmt (r : BitVec 512) : Nat := bits r 24 4
def rLside (r : BitVec 512) : Bool := r.getLsbD 28
def rPeer (r : BitVec 512) : BitVec 10 := r.extractLsb' 32 10
def rNext (r : BitVec 512) : Nat := bits r 64 57
def rSrc (r : BitVec 512) : Nat := bits r 128 64
def rDst (r : BitVec 512) : Nat := bits r 192 64
def rLen (r : BitVec 512) : Nat := bits r 256 40
def rLayout (r : BitVec 512) : Nat := bits r 320 57
def rAux (r : BitVec 512) : Nat := bits r 384 64
def rStaddr (r : BitVec 512) : Nat := bits r 448 57

/-- Fields outside the layout and the limits of R193, R196 and R197. Bits 127:121 are taken as reserved (log 31). -/
def recordBad (r : BitVec 512) : Bool :=
  let m := rMode r
  let elems := m = 1 || m = 2
  bits r 29 3 ≠ 0 || bits r 42 22 ≠ 0 || bits r 121 7 ≠ 0 || bits r 296 24 ≠ 0 || bits r 377 7 ≠ 0 || bits r 505 7 ≠ 0 ||
  decide (5 < m) || decide (1 < rSsp r) || (rSpeer r && rDpeer r) || (m ≠ 0 && (rSpeer r || rDpeer r)) ||
  (rSpeer r && rSsp r ≠ 0) || (rDpeer r && rDsp r ≠ 0) || rNext r % 64 ≠ 0 || rStaddr r % 64 ≠ 0 ||
  (elems && (rLen r = 0 || decide (2 ^ 24 < rLen r) || rAux r % 8 ≠ 0)) ||
  (m = 3 && (decide (3 < rQfmt r) || rLen r % (if rQfmt r < 2 then 128 else 64) ≠ 0 || rLayout r ≠ 0)) ||
  ((m = 0 || m = 4 || m = 5) && (decide (2 ^ 40 ≤ rAux r) || rLayout r % 32 ≠ 0)) ||
  ((m = 4 || m = 5) && rLayout r = 0 && rLen r % 1024 ≠ 0)

/-- The record's status for a cause (R202). -/
def causeStatus (k : Byte) : Nat :=
  match k.toNat with
  | 0x05 => 1 | 0x07 => 2 | 0x08 => 4 | 0x0A => 5 | _ => 3

/-- Why a channel cannot go on: it waits for a move, or a status. -/
inductive CpErr where
  | wait
  | bad (status : Nat)
  deriving DecidableEq, Repr, Inhabited

/-- A read through the chain's windows at its home (R193, R194). -/
def cpRead (s : State) (ch : Channel) (va len : Nat) : Except CpErr Bytes × State :=
  let sec := s.coreSecure ch.core
  match engineCheck s ch.wins sec false va len with
  | .wait => (.error .wait, s)
  | .stop k i a => (.error (.bad (causeStatus k)), engineNote s ch.wins false (.stop k i a) (s.coreTag ch.core))
  | .ok =>
    let (bad, bs, s) := engineRead s ch.wins sec va len (s.coreTag ch.core)
    if bad then (.error (.bad 5), s) else (.ok bs, s)

/-- A peer of the chain's context (R49). -/
def cpPeer (s : State) (ch : Channel) (id : BitVec 10) : Except CpErr Peer × State :=
  match cpRead s ch (peerAddr s ch.ctx id.toNat) 8 with
  | (.error e, s) => (.error e, s)
  | (.ok bs, s) =>
    match peerOf s (s.coreSecure ch.core) (wordOfBytes bs) with
    | .error k => (.error (.bad (if k = 0x08 then 4 else 7)), s)
    | .ok p => (.ok p, s)

/-! ## Layouts (R195) -/

/-- A predicate: the address of its word, the bit, and PSKIP. -/
abbrev Pred := Nat × Nat × Bool

/-- A run of the layout side: its position in the contiguous side, its offset and its length, and its element. -/
structure Run where
  pos : Nat
  off : Int
  len : Nat
  elem : Nat := 0
  pred : Option Pred := none
  deriving DecidableEq, Repr, Inhabited

/-- What a layout chain gives: its runs, the length of the contiguous side, and an error with its position. -/
structure Runs where
  runs : List Run
  total : Nat
  err : Option CpErr
  deriving DecidableEq, Repr, Inhabited

/-- Whether a predicate skips its element, read at the home of its word (R194, R195). -/
def predSkips (s : State) (ch : Channel) (p : Pred) : Except CpErr Bool × State :=
  match cpRead s ch p.1 8 with
  | (.error e, s) => (.error e, s)
  | (.ok w, s) => (.ok ((wordOfBytes w).getLsbD p.2.1 == p.2.2), s)

/-- The elements of a layout in chain order; the fuel exceeds the number of 32-byte elements there are. A predicate is read here
where the record's moves are requested from a peer now, and else when its element is reached (R195). -/
def layoutRuns (ch : Channel) (now : Bool) : Nat → Nat → Runs → State → Runs × State
  | 0, _, acc, s => ({ acc with err := some .wait }, s)
  | fuel + 1, a, acc, s =>
    if a = 0 then (acc, s)
    else
      match cpRead s ch a 32 with
      | (.error e, s) => ({ acc with err := some e }, s)
      | (.ok bs, s) =>
        let x : BitVec 256 := BitVec.ofNat 256 (natOf bs)
        let rows := bits x 104 20
        let rowlen := bits x 128 24
        let pred := bits x 192 57
        if bits x 59 5 ≠ 0 || bits x 124 4 ≠ 0 || bits x 152 8 ≠ 0 || x.getLsbD 255 || rows = 0 || rowlen = 0 || pred % 8 ≠ 0 ||
            bits x 0 57 % 32 ≠ 0 then ({ acc with err := some (.bad 1) }, s)
        else
          let test : Option Pred := if x.getLsbD 57 then some (pred, bits x 249 6, x.getLsbD 58) else none
          let (skip, s) : Except CpErr Bool × State :=
            match test with
            | some p => if now then predSkips s ch p else (.ok false, s)
            | none => (.ok false, s)
          match skip with
          | .error e => ({ acc with err := some e }, s)
          | .ok sk =>
            let off := signed 40 (bits x 64 40)
            let stride := signed 32 (bits x 160 32)
            let new : List Run := if sk then [] else (List.range rows).map fun k =>
              ⟨acc.total + k * rowlen, off + k * stride, rowlen, acc.total, if now then none else test⟩
            layoutRuns ch now fuel (bits x 0 57) { acc with runs := acc.runs ++ new, total := acc.total + rows * rowlen } s

/-! ## Plans (R195 to R197) -/

/-- A place of a space. -/
def locOf (sp : Nat) (peer : Option (BitVec 10)) (a : Int) : Loc :=
  let n := (a % 2 ^ 64).toNat
  match peer with
  | some p => .peer p n
  | none => if sp = 0 then .mem n else .store (sp - 1) n

/-- A plan: its pieces, the status and position where it ends early with the peer concerned, and the length of the contiguous
side. -/
structure Plan where
  pieces : List Piece
  stop : Option (Nat × Nat × BitVec 10)
  total : Nat := 0
  deriving DecidableEq, Repr, Inhabited

/-- A run without a layout to or from a peer, cut into messages of at most 2^31 bytes (R36). -/
def messageRuns (len : Nat) : List Run :=
  (List.range (ceilDiv len (2 ^ 31))).map fun i => { pos := 2 ^ 31 * i, off := (2 ^ 31 * i : Nat), len := min (2 ^ 31) (len - 2 ^ 31 * i) }

/-- The plan of modes 0, 4 and 5: CLIP bounds plain mode here and the plane modes when they write (R195, R196). -/
def planRuns (s : State) (ch : Channel) (r : BitVec 512) : Except CpErr Plan × State :=
  let (rs, s) := if rLayout r = 0 then (⟨if rLen r = 0 then [] else if rSpeer r || rDpeer r then messageRuns (rLen r) else [{ pos := 0, off := 0, len := rLen r }], rLen r, none⟩, s)
    else layoutRuns ch (rSpeer r || rDpeer r) (2 ^ 52 + 1) (rLayout r) ⟨[], 0, none⟩ s
  match rs.err with
  | some .wait => (.error .wait, s)
  | e =>
    let sp := if rSpeer r then some (rPeer r) else none
    let dp := if rDpeer r then some (rPeer r) else none
    let clip := rAux r
    let piece (x : Run) : Option Piece :=
      let so : Int := if rLside r then x.pos else x.off
      let d : Int := if rLside r then x.off else x.pos
      let n := if rMode r = 0 && clip ≠ 0 then min x.len ((clip : Int) - d).toNat else x.len
      -- an element beyond CLIP is reached too
      if n = 0 && (x.pred.isNone || x.pos ≠ x.elem) then none
      else some ⟨x.pos, n, locOf (rSsp r) sp (rSrc r + so), locOf (rDsp r) dp (rDst r + d), x.elem, x.pred⟩
    let stop := match e with | some (.bad st) => some (st, rs.total, 0) | _ => none
    (.ok ⟨rs.runs.filterMap piece, stop, rs.total⟩, s)

/-- The plan of a gather or scatter (R197): one piece for each element, up to the first bad one. -/
def planElems (s : State) (ch : Channel) (r : BitVec 512) : Except CpErr Plan × State :=
  let e := rEsz r
  let gather := rMode r = 1
  let step (p : Except CpErr Plan × State) (j : Nat) : Except CpErr Plan × State :=
    match p.1 with
    | .error _ => p
    | .ok pl =>
      if pl.stop.isSome then p
      else
        match cpRead p.2 ch (rAux r + 8 * j) 8 with
        | (.error .wait, s) => (.error .wait, s)
        | (.error (.bad st), s) => (.ok { pl with stop := some (st, j * e, 0) }, s)
        | (.ok bs, s) =>
          let w := wordOfBytes bs
          let idx : Int := bits w 0 48
          let peer := if w.getLsbD 58 then some (w.extractLsb' 48 10) else none
          let a : Int := (if gather then rSrc r else rDst r) + idx * e
          let b : Int := (if gather then rDst r else rSrc r) + j * e
          let sp := if gather then rSsp r else rDsp r
          if bits w 59 5 ≠ 0 || a % e ≠ 0 || b % e ≠ 0 || (peer.isSome && sp ≠ 0) then (.ok { pl with stop := some (1, j * e, 0) }, s)
          else
            let x := locOf sp peer a
            let y := locOf (if gather then rDsp r else rSsp r) none b
            (.ok { pl with pieces := pl.pieces ++ [{ pos := j * e, len := e, src := if gather then x else y, dst := if gather then y else x }] }, s)
  (List.range (rLen r)).foldl step (.ok { pieces := [], stop := none, total := rLen r * e }, s)

/-- Whether a plan touches a peer. -/
def Piece.remoteSrc (p : Piece) : Bool := match p.src with | .peer _ _ => true | _ => false
def Piece.remoteDst (p : Piece) : Bool := match p.dst with | .peer _ _ => true | _ => false

/-- The limits on remote elements (R197). -/
def remoteBad (r : BitVec 512) (pl : Plan) : Bool :=
  rMode r = 1 && pl.pieces.any Piece.remoteSrc && (decide (4096 < rLen r) || rStaddr r = 0)

/-! ## Moving (R146, R193, R200) -/

/-- Granule of a store (R146). -/
def granule (k : Nat) : Nat := if k = 0 then 4 else 32

/-- A typed-store side that R146 refuses. -/
def locBad (l : Loc) (n : Nat) : Bool :=
  match l with
  | .store k off => off % granule k ≠ 0 || n % granule k ≠ 0 || decide (storeSize k < off + n)
  | _ => false

/-- Bytes of a source; a peer's are those it has returned. Uncorrectable data are not written anywhere (R30). -/
def locRead (s : State) (ch : Channel) (l : Loc) (pos o n : Nat) : Except CpErr Bytes × State :=
  match l with
  | .mem va => cpRead s ch ((va + o) % 2 ^ 64) n
  | .store k off => (if wordsBad s ch.core k (off + o) n then .error (.bad 5) else .ok (storeRead s ch.core k (off + o) n), s)
  | .peer _ _ =>
    match ch.got.find? fun g => g.1 = pos with
    | some g => (.ok ((g.2.drop o).take n), s)
    | none => (.error (.bad 8), s)

/-- The place `o` bytes on. -/
def Loc.plus (l : Loc) (o : Nat) : Loc :=
  match l with
  | .mem va => .mem ((va + o) % 2 ^ 64)
  | .store k off => .store k (off + o)
  | .peer id va => .peer id ((va + o) % 2 ^ 64)

def Loc.addr : Loc → Nat
  | .mem va => va
  | .store _ off => off
  | .peer _ va => va

/-- Sectors of a destination run (R200). -/
def sectorsOf (a n : Nat) : Nat := if n = 0 then 0 else (a + n - 1) / 32 - a / 32 + 1

/-- A run cut at 32-byte boundaries (R200): the offset and the length of each part. -/
def sectorCuts (a n : Nat) : List (Nat × Nat) :=
  (List.range (sectorsOf a n)).map fun k =>
    let lo := max a (32 * (a / 32 + k))
    (lo - a, min (a + n) (32 * (a / 32 + k + 1)) - lo)

/-- Bytes to be written at a place, cut at its sectors. -/
def cutWrites (pos key : Nat) (l : Loc) (counts : Bool) (bs : Bytes) : List CopyWrite :=
  (sectorCuts l.addr bs.length).map fun q => ⟨pos, key, l.plus q.1, (bs.drop q.1).take q.2, counts⟩

/-- What a record makes of its source: the writes it is to perform, the failure met, whether it met a moving page, and what the
predicates of the elements reached have said. -/
structure Moved where
  writes : List CopyWrite
  err : Option (Nat × Nat)
  s : State
  wait : Bool := false
  seen : List (Nat × Bool) := []

/-- Nothing more is read. -/
def Moved.halted (m : Moved) : Bool := m.err.isSome || m.wait

/-- An access of the record has failed, or waits. -/
def Moved.fail (m : Moved) (e : CpErr) (pos : Nat) (s : State) : Moved :=
  match e with
  | .wait => { m with wait := true }
  | .bad st => { m with err := some (st, pos), s := s }

/-- An element is reached (R195): whether it is skipped, its predicate read once; a refusal ends the record there. -/
def Moved.reach (ch : Channel) (m : Moved) (p : Piece) : Bool × Moved :=
  match p.pred with
  | none => (false, m)
  | some q =>
    match m.seen.find? fun x => x.1 = p.elem with
    | some x => (x.2, m)
    | none =>
      match predSkips m.s ch q with
      | (.ok b, s) => (b, { m with s := s, seen := m.seen ++ [(p.elem, b)] })
      | (.error e, s) => (true, m.fail e p.elem s)

/-- One piece read, sector of its destination by sector; a part that cannot be read ends the record at its position. -/
def movePiece (ch : Channel) (m : Moved) (p : Piece) : Moved :=
  if m.halted then m
  else
    let (skip, m) := m.reach ch p
    if skip || p.len = 0 then m
    else if locBad p.src p.len || locBad p.dst p.len then { m with err := some (1, p.pos) }
    else
      (sectorCuts p.dst.addr p.len).foldl (fun (m : Moved) q =>
        if m.halted then m
        else
          match locRead m.s ch p.src p.pos q.1 q.2 with
          | (.ok bs, s) => { m with writes := m.writes ++ [⟨p.pos + q.1, p.pos, p.dst.plus q.1, bs, true⟩], s := s }
          | (.error e, s) => m.fail e (p.pos + q.1) s) m

/-- Whether a side lies on a moving page, so that the record waits (R134). -/
def locWaits (s : State) (ch : Channel) (write : Bool) (l : Loc) (n : Nat) : Bool :=
  match l with
  | .mem va => decide (n ≠ 0) && decide (engineCheck s ch.wins (s.coreSecure ch.core) write va n = .wait)
  | _ => false

/-- SECTORS (R200): the sector parts written of a layout's rows; the elements written, with those passed over; and else the sectors
written. `sent` are the runs that a peer has acknowledged. -/
def countSectors (r : BitVec 512) (wrote sent : List (Nat × Nat)) (skipped : Nat) : Nat :=
  if rMode r = 1 || rMode r = 2 then wrote.length + sent.length + skipped
  else if rMode r = 0 && rLayout r ≠ 0 then wrote.length + (sent.map fun q => sectorsOf q.1 q.2).sum
  else ((wrote.map fun (q : Nat × Nat) => q.2 / 32) ++ sent.flatMap fun (q : Nat × Nat) => (List.range (sectorsOf q.1 q.2)).map (q.1 / 32 + ·)).eraseDups.length

/-- Quantise (R188, R197), block by block: a block's elements, then its scale. -/
def moveQuantise (ch : Channel) (r : BitVec 512) (m : Moved) : Moved :=
  let q := rQfmt r
  let mx := q % 2 = 1
  let inB := if q < 2 then 128 else 64
  let outB := if mx then 32 else 16
  let n := rLen r / inB
  let src := locOf (rSsp r) none (rSrc r)
  let dst := locOf (rDsp r) none (rDst r)
  let scl := locOf (if rDsp r = 1 || rDsp r = 2 then 3 else 0) none (rAux r)
  if locBad src (rLen r) || locBad dst (outB * n) || locBad scl n then { m with err := some (1, 0) }
  else
    (List.range n).foldl (fun (m : Moved) b =>
      if m.halted then m
      else
        match locRead m.s ch src 0 (inB * b) inB with
        | (.error e, s) => m.fail e (outB * b) s
        | (.ok bs, s) =>
          let v : List W32 := (List.range 32).map fun k =>
            if q < 2 then BitVec.ofNat 32 (natOf ((bs.drop (4 * k)).take 4))
            else BitVec.ofNat 32 (natOf ((bs.drop (2 * k)).take 2) * 65536)
          let pol := if ch.pol = 2 then 0 else ch.pol
          let s := if ch.pol = 2 && v.any (fun x => nonFinite .f32 x.toNat) then s.noteBit ch.ctx 193 else s
          let (sc, es) := (quantise pol mx v).getD (0xFF, [])
          let out : Bytes := if mx then es.map (BitVec.ofNat 8) else (List.range 16).map fun k => BitVec.ofNat 8 (es.getD (2 * k) 0 + es.getD (2 * k + 1) 0 * 16)
          { m with s := s, writes := m.writes ++ cutWrites (outB * b) b (dst.plus (outB * b)) true out ++
                     [⟨outB * b, b, scl.plus b, [BitVec.ofNat 8 sc], false⟩] }) m

/-- Plane encode of a tile: bit 32 - j of element e in bit e of sector j - 1 (R197). -/
def planeEncode (tile : Bytes) : Bytes :=
  (List.range 1024).map fun i =>
    let j := i / 32 + 1
    let e0 := 8 * (i % 32)
    BitVec.ofNat 8 ((List.range 8).foldl (fun n k =>
      let el := natOf ((tile.drop (4 * (e0 + k))).take 4)
      if el.testBit (32 - j) then n + 2 ^ k else n) 0)

/-- Plane decode of a tile from its first k planes. -/
def planeDecode (k : Nat) (tile : Bytes) : Bytes :=
  (List.range 256).flatMap fun e =>
    bytesOf 4 ((List.range k).foldl (fun n j =>
      if (tile.getD (32 * j + e / 8) 0).getLsbD (e % 8) then n + 2 ^ (31 - j) else n) 0)

/-- The part of a piece that lies in tile t: its offset in the piece, its offset in the tile, and its length. -/
def tilePart (p : Piece) (t : Nat) : Nat × Nat × Nat :=
  let lo := max p.pos (1024 * t)
  (lo - p.pos, lo - 1024 * t, min (p.pos + p.len) (1024 * (t + 1)) - lo)

/-- The offset from DST of the destination byte `o` of a piece (R196): one before DST is negative. -/
def clipOff (r : BitVec 512) (p : Piece) (o : Nat) : Int := (BitVec.ofInt 64 (((p.dst.addr + o : Nat) : Int) - rDst r)).toInt

/-- Bytes of a tile that are written (R196): those of the pieces whose destination lies within CLIP. -/
def tileWritten (r : BitVec 512) (t : Nat) (ps : List Piece) (q : Nat) : Bool :=
  ps.any fun p =>
    let (o, d, n) := tilePart p t
    decide (d ≤ q) && decide (q < d + n) && (rAux r = 0 || decide (clipOff r p (o + (q - d)) < rAux r))

/-- A byte of the source tile is read where a byte that is written depends on it (R196, R197): source byte i of an encode is byte
i mod 4 of element i / 4, and of a decode byte i mod 32 of plane i / 32 + 1. -/
def tileNeeded (enc : Bool) (k : Nat) (written : Nat → Bool) (i : Nat) : Bool :=
  if enc then (List.range 8).any fun j => written (32 * (31 - 8 * (i % 4) - j) + i / 32)
  else decide (i / 32 < k) && (List.range 8).any fun m => written (4 * (8 * (i % 32) + m) + (31 - i / 32) / 8)

/-- A store side of a piece of which some bytes are used (R146). -/
def partBad (l : Loc) (len o n : Nat) : Bool :=
  match l with
  | .store k off => off % granule k ≠ 0 || len % granule k ≠ 0 || decide (storeSize k < off + o + n)
  | _ => false

/-- The bytes of a piece that a tile needs, read into the tile: whole, or one by one. -/
def readPart (ch : Channel) (need : Nat → Bool) (t : Nat) (a : Bytes × Moved) (p : Piece) : Bytes × Moved :=
  let (o, d, n) := tilePart p t
  let runs : List (Nat × Nat) :=
    if (List.range n).all fun i => need (d + i) then [(0, n)] else ((List.range n).filter fun i => need (d + i)).map fun i => (i, 1)
  runs.foldl (fun (a : Bytes × Moved) q =>
    if a.2.halted || q.2 = 0 then a
    else if partBad p.src p.len (o + q.1) q.2 then (a.1, { a.2 with err := some (1, 1024 * t) })
    else
      match locRead a.2.s ch p.src p.pos (o + q.1) q.2 with
      | (.ok bs, s) => (a.1.take (d + q.1) ++ bs ++ a.1.drop (d + q.1 + q.2), { a.2 with s := s })
      | (.error e, s) => (a.1, a.2.fail e (1024 * t) s)) a

/-- What a tile writes of a piece, within CLIP (R196). -/
def writePart (r : BitVec 512) (t : Nat) (out : Bytes) (m : Moved) (p : Piece) : Moved :=
  let (o, d, n) := tilePart p t
  let n := if rAux r = 0 then n else min n ((rAux r : Int) - clipOff r p o).toNat
  if m.halted || n = 0 then m
  else if partBad p.dst p.len o n then { m with err := some (1, 1024 * t) }
  else { m with writes := m.writes ++ cutWrites (1024 * t) t (p.dst.plus o) true ((out.drop d).take n) }

/-- The plane modes (R197): whole tiles of the contiguous order are read, transformed and written, within CLIP (R196). A byte of
a skipped element reads 0 (log 32). Every sector written counts once (R200). -/
def movePlanes (ch : Channel) (r : BitVec 512) (plan : List Piece) (m : Moved) : Moved :=
  let enc := rMode r = 4
  let k := rQfmt r + 17
  let total := match ch.planEnd with | some (_, x, _) => x | none => ch.total
  if ch.planEnd.isNone && total % 1024 ≠ 0 then { m with err := some (1, 0) }
  else
    (List.range (total / 1024)).foldl (fun (m : Moved) t =>
      if m.halted then m
      else
        let inside := plan.filter fun p => decide (p.pos < 1024 * (t + 1)) && decide (1024 * t < p.pos + max 1 p.len)
        let (ps, m) := inside.foldl (fun (a : List Piece × Moved) p =>
          if a.2.halted then a
          else
            let (skip, x) := a.2.reach ch p
            (if skip then a.1 else a.1 ++ [p], x)) ([], m)
        if m.halted then { m with err := m.err.map fun e => (e.1, 1024 * t) }
        else
          let need := tileNeeded enc k (tileWritten r t ps)
          let (tile, m) := ps.foldl (readPart ch need t) (List.replicate 1024 0, m)
          if m.halted then m
          else ps.foldl (writePart r t (if enc then planeEncode tile else planeDecode k tile)) m) m

/-! ## COPY_RECORD_START (R193, R194, R199) -/

/-- The words of a record that an engine writes after its moves; a refusal drops them (log 33). -/
def cpStore (s : State) (ch : Channel) (va : Nat) (bs : Bytes) : State :=
  match engineCheck s ch.wins (s.coreSecure ch.core) true va bs.length with
  | .ok => engineWrite s ch.wins (s.coreSecure ch.core) va (s.coreTag ch.core) bs
  | a => engineNote s ch.wins true a (s.coreTag ch.core)

/-- Whether a record's last steps would meet a moving page (R134): its ownership bit and NEXT, its status area, or its ring slot. -/
def endWaits (s : State) (ch : Channel) (r : BitVec 512) : Bool :=
  locWaits s ch true (.mem ch.cur) 64 || (rStaddr r ≠ 0 && locWaits s ch true (.mem (rStaddr r)) 576) ||
  (match ch.slot with | some i => locWaits s ch true (.mem (slotAddr (s.ring ch.core (rRing r)) i.toNat)) 32 | none => false)

/-- The channel's request for a line waits under the limit of R145. -/
def landingWaits (s : State) (n line : Nat) : Bool := s.mem.pinWait.any fun w => w.2.2.2 = 128 + n && w.1 = line

/-- A landing of the channel ends, or its request is withdrawn (R145). -/
def endLanding (n : Nat) (s : State) (line : Nat) : State :=
  if landingWaits s n line then
    { s with mem := { s.mem with pinWait := s.mem.pinWait.filter fun w => !(w.2.2.2 = 128 + n && w.1 = line) } }
  else releasePin s line true

/-- The channel's landings end. -/
def dropLandings (s : State) (n : Nat) : State :=
  ((s.channel n).landing.foldl (endLanding n) s).modChannel n fun c => { c with landing := [] }

/-- Whether a running chain of a team, or a collective operation of it that has not ended, may still fill a ring (R124). -/
def ringNeeded (s : State) (core k team : Nat) : Bool :=
  s.channels.any (fun p => p.2.team = team && p.2.core = core && p.2.st ≠ .idle) ||
  s.collOps.any fun o => o.team = team && o.record.getLsbD 8 && bits o.record 9 6 = k &&
    (match s.team? team with | some t => t.cores.getD o.pos o.core = core | none => true)

/-- Rings of ended teams that nothing will fill any more are freed (R124). -/
def sweepRings (s : State) (core : Nat) : State :=
  ((s.core core).orphans.filter fun o => !ringNeeded s core o.1 o.2).foldl (fun s o =>
    (s.setRing core o.1 0).modCore core fun c => { c with orphans := c.orphans.erase o }) s

/-- The same, as a release of what the chain on channel `n` has written and what it follows (R168). -/
def cpRelease (s : State) (n : Nat) (va : Nat) (bs : Bytes) : State :=
  let ch := s.channel n
  match engineCheck s ch.wins (s.coreSecure ch.core) true va bs.length with
  | .ok => writeSync (cpStore s ch va bs) none (engineIa ch.wins (s.coreSecure ch.core) true va) bs (s.known (.chain n))
  | _ => cpStore s ch va bs

/-- The end of a record (R168, R199 to R202): OWN, the status area, the slot; then the next record, or the end of the chain. -/
def endRecord (s : State) (n : Nat) (status pos sectors : Nat) (bitmap : Option Bytes) (peer : BitVec 10) : State :=
  let s := dropLandings s n
  let ch := s.channel n
  let r := ch.record
  let seq := (ch.seq + 1).toNat
  let s := match bitmap with
    | some bs => if rStaddr r = 0 then s else cpStore s ch (rStaddr r + 64) bs
    | none => s
  let s := if rStaddr r = 0 || status = 0 then s
    else cpStore s ch (rStaddr r + 8) (bytesOf 8 (status + pos % 2 ^ 40 * 256 + peer.toNat * 2 ^ 48))
  let s := cpRelease s n ch.cur (bytesOf 1 (bits r 1 7 * 2))
  let s := if rStaddr r = 0 then s else cpRelease s n (rStaddr r) (bytesOf 8 (seq + status * 2 ^ 32))
  let s := match ch.slot with
    | some i => slotSync (fillSlot s ch.core (rRing r) i ch.wins ch.ctx (slotWord seq status sectors ch.cur)) (.chain n) ch.core (rRing r) i.toNat
    | none => s
  let ch := { ch with seq := BitVec.ofNat 32 seq, last := BitVec.ofNat 8 status, slot := none, skip := [], plan := []
                      planEnd := none, total := 0, acked := [], got := [], got_n := 0, failed := none, writes := none, wrote := [], err := none }
  if status ≠ 0 then sweepRings (s.setChannel n { ch with st := .idle }) ch.core
  else
    -- NEXT is read again (R194)
    match cpRead s ch (ch.cur + 8) 8 with
    | (.ok bs, s) =>
      let next := bits (wordOfBytes bs) 0 57
      if next = 0 then sweepRings (s.setChannel n { ch with st := .idle }) ch.core
      else s.setChannel n { ch with cur := next, st := .reading }
    | (.error _, s) => sweepRings (s.setChannel n { ch with st := .idle }) ch.core

/-- A record that the channel could not read or own ends the chain without being acted on (R193). -/
def abandon (s : State) (n status : Nat) : State :=
  sweepRings (s.modChannel n fun c => { c with st := .idle, last := BitVec.ofNat 8 status, seq := c.seq + 1 }) (s.channel n).core

/-- Peer transfers of a plan are posted (R50): reads of remote sources, and writes to remote destinations with the source
bytes read now. -/
def postPieces (n : Nat) (plan : List Piece) (s : State) : State :=
  plan.foldl (fun s p =>
    let ch := s.channel n
    if ch.planEnd.isSome && (match ch.planEnd with | some (_, x, _) => decide (x ≤ p.pos) | none => false) then s
    else
      let fail (s : State) (st : Nat) : State :=
        s.modChannel n fun c => { c with planEnd := some (st, p.pos, match p.src, p.dst with | .peer id _, _ => id | _, .peer id _ => id | _, _ => 0) }
      match p.src, p.dst with
      | .peer id va, _ =>
        if (tfind ch.skip (p.pos / max 1 (rEsz ch.record))).isSome && rMode ch.record = 1 then s
        else
          match cpPeer s ch id with
          | (.error .wait, s) => fail s 3
          | (.error (.bad st), s) => fail s st
          | (.ok x, s) =>
            let s := s.modChannel n fun c => { c with got_n := c.got_n + 1 }
            post s x.port x.conn (.read va x.rkey p.len) (.copyRead n p.pos id)
      | _, .peer id va =>
        if locBad p.src p.len then fail s 1
        else
          match cpPeer s ch id with
          | (.error .wait, s) => fail s 3
          | (.error (.bad st), s) => fail s st
          | (.ok x, s) =>
            match locRead s ch p.src p.pos 0 p.len with
            | (.error .wait, s) => fail s 3
            | (.error (.bad st), s) => fail s st
            | (.ok bs, s) =>
              let s := s.modChannel n fun c => { c with got_n := c.got_n + 1 }
              post s x.port x.conn (.write va x.rkey bs none) (.copyWrite n p.pos id)
      | _, _ => s) s

/-- A record that waits for a move anywhere it must read from memory when it starts. -/
def startWaits (s : State) (ch : Channel) (plan : List Piece) : Bool :=
  plan.any fun p =>
    match p.src, p.dst with
    | .peer id _, _ => locWaits s ch false (.mem (peerAddr s ch.ctx id.toNat)) 8
    | .mem va, .peer id _ => locWaits s ch false (.mem (peerAddr s ch.ctx id.toNat)) 8 || locWaits s ch false (.mem va) p.len
    | _, .peer id _ => locWaits s ch false (.mem (peerAddr s ch.ctx id.toNat)) 8
    | _, _ => false

/-- The two sides that quantise writes, with their lengths (R197). -/
def quantDsts (r : BitVec 512) : List (Loc × Nat) :=
  let q := rQfmt r
  let n := rLen r / (if q < 2 then 128 else 64)
  [(locOf (rDsp r) none (rDst r), (if q % 2 = 1 then 32 else 16) * n),
   (locOf (if rDsp r = 1 || rDsp r = 2 then 3 else 0) none (rAux r), n)]

/-- What a record writes itself, in order, and what it reads. -/
def recordDsts (ch : Channel) (plan : List Piece) : List (Loc × Nat) :=
  if rMode ch.record = 3 then quantDsts ch.record else plan.map fun p => (p.dst, p.len)

def recordSrcs (ch : Channel) (plan : List Piece) : List (Loc × Nat) :=
  if rMode ch.record = 3 then [(locOf (rSsp ch.record) none (rSrc ch.record), rLen ch.record)] else plan.map fun p => (p.src, p.len)

/-- Lines in global memory that a record writes (R145, R203). -/
def recordLines (s : State) (ch : Channel) (plan : List Piece) : List Nat :=
  ((recordDsts ch plan).flatMap fun q =>
    match q.1 with
    | .mem va =>
      if q.2 = 0 then []
      else (rangePoints 7 va q.2).filterMap fun a =>
        match translate ch.wins (s.coreSecure ch.core) .write (a % 2 ^ 64) 1 with
        | .ok ia => some (lineOf ia)
        | .error _ => none
    | _ => []).eraseDups

/-- The lines that a record is going to write enter the landing state, or wait for it in the order of their requests (R145, R203). -/
def landNow (n : Nat) (s : State) : State :=
  let ch := s.channel n
  (recordLines s ch ch.plan).foldl (fun s line =>
    (requestPin s line true (s.coreTag ch.core) (128 + n)).modChannel n fun c => { c with landing := c.landing ++ [line] }) s

/-- COPY_RECORD_START (R193): the channel reads and checks its next record, reserves its ring slot, and plans its moves. -/
def execCopyRecordStart (n : Nat) (s0 : State) : Host.Outcome State Fault Refusal :=
  .next <|
    let ch := s0.channel n
    if ch.st ≠ .reading then s0
    else if ch.cur % 64 ≠ 0 then abandon s0 n 1
    else
      let sec := s0.coreSecure ch.core
      match engineCheck s0 ch.wins sec false ch.cur 64, engineCheck s0 ch.wins sec true ch.cur 8 with
      | .stop k i a, _ => abandon (engineNote s0 ch.wins false (.stop k i a) (s0.coreTag ch.core)) n (causeStatus k)
      | _, .stop k i a => abandon (engineNote s0 ch.wins true (.stop k i a) (s0.coreTag ch.core)) n (causeStatus k)
      | .ok, .ok =>
        let (bad, bs, s) := engineRead s0 ch.wins sec ch.cur 64 (s0.coreTag ch.core)
        let r : BitVec 512 := BitVec.ofNat 512 (natOf bs)
        if bad then abandon s n 5
        else if !r.getLsbD 0 then sweepRings (s.modChannel n fun c => { c with st := .idle }) ch.core
        else
          let held := ringHeld s ch.core (rRing r) ch.team
          if rRingen r && held && ch.slot.isNone && ringFull (s.ring ch.core (rRing r)) then s0
          else
            let ring := s.ring ch.core (rRing r)
            let s1 := s.modChannel n fun c => { c with record := r }
            let reserve := rRingen r && held && ch.slot.isNone
            let s1 := if reserve then
                (s1.setRing ch.core (rRing r) (setBits ring 192 32 (rgRes ring + 1))).modChannel n fun c =>
                  { c with slot := some (BitVec.ofNat 32 (rgRes ring)) }
              else s1
            if endWaits s1 (s1.channel n) r then s0
            else if recordBad r then endRecord s1 n 1 0 0 none 0
            else if rRingen r && !held then endRecord (s1.modChannel n fun c => { c with slot := none }) n 0x0A 0 0 none 0
            else if !scopeValid ch.wins (rScope r) then endRecord s1 n 6 0 0 none 0
            else
              let ch := s1.channel n
              let (pl, s2) := if rMode r = 1 || rMode r = 2 then planElems s1 ch r
                else if rMode r = 3 then (.ok { pieces := [], stop := none }, s1)
                else planRuns s1 ch r
              match pl with
              | .error _ => s0
              | .ok pl =>
                if startWaits s2 ch pl.pieces then s0
                else if remoteBad r pl then endRecord s2 n 1 0 0 none 0
                else
                  let s2 := s2.modChannel n fun c => { c with st := .moving, plan := pl.pieces, planEnd := pl.stop, total := pl.total, acked := [], got := [], got_n := 0, writes := none, wrote := [], err := none }
                  landNow n (postPieces n pl.pieces s2)
      | _, _ => s0

/-! ## COPY_RECORD_END (R199) -/

/-- Statuses of network failures (R53). -/
def netStatus (kind : Nat) : Nat := if kind = 3 || kind = 4 || kind = 5 then 9 else 8

/-- The bitmap of a gather with a remote element (R201): the elements written, by position, and those written before. -/
def bitmapOf (r : BitVec 512) (plan : List Piece) (wrote : List (Nat × Nat)) (skip : Table Nat) : Option Bytes :=
  if rMode r = 1 && plan.any Piece.remoteSrc then
    let full (j : Nat) : Bool := (tfind skip j).isSome || wrote.any fun d => d.1 = j * rEsz r
    some ((List.range 512).map fun i => BitVec.ofNat 8 ((List.range 8).foldl (fun n k => if full (8 * i + k) then n + 2 ^ k else n) 0))
  else none

/-- Pieces that the record moves itself, in order: all but those already sent to a peer; elements that the skip mask
passes over; and, after a network failure, those whose bytes have arrived. -/
def localPieces (ch : Channel) (plan : List Piece) : List Piece :=
  let mine := plan.filter fun p => !p.remoteDst && !(rMode ch.record = 1 && p.remoteSrc && (tfind ch.skip (p.pos / rEsz ch.record)).isSome)
  if ch.failed.isSome && rMode ch.record = 1 then
    mine.filter fun p => !p.remoteSrc || ch.got.any fun g => g.1 = p.pos
  else mine

/-- What the record makes of its source, by its mode. -/
def readSource (ch : Channel) (plan : List Piece) (s : State) : Moved :=
  let m : Moved := { writes := [], err := none, s := s }
  if rMode ch.record = 3 then moveQuantise ch ch.record m
  else if rMode ch.record = 4 || rMode ch.record = 5 then movePlanes ch ch.record plan m
  else (localPieces ch plan).foldl (movePiece ch) m

/-- The line of global memory that a write touches. -/
def CopyWrite.line (s : State) (ch : Channel) (w : CopyWrite) : Option Nat :=
  match w.loc with
  | .mem va => match translate ch.wins (s.coreSecure ch.core) .write va 1 with | .ok ia => some (lineOf ia) | .error _ => none
  | _ => none

/-- One write of a record: none while it waits for its page to have moved or its line to enter the landing state; else the status of a
refusal, if there is one. -/
def tryWrite (n : Nat) (s : State) (w : CopyWrite) : Option (Option Nat × State) :=
  let ch := s.channel n
  match w.loc with
  | .mem va =>
    let sec := s.coreSecure ch.core
    match engineCheck s ch.wins sec true va w.data.length with
    | .wait => none
    | .stop k i a => some (some (causeStatus k), engineNote s ch.wins true (.stop k i a) (s.coreTag ch.core))
    | .ok =>
      if (match w.line s ch with | some l => landingWaits s n l | none => false) then none
      else some (none, engineWrite s ch.wins sec va (s.coreTag ch.core) w.data)
  | .store k off =>
    some (none, storeWrite s ch.core k off (.chain n) w.data)
  | .peer _ _ => some (none, s)

/-- The writes that can be performed now, in order, and those that wait; after a failure, only what lies before it (R202). -/
def performWrites (n : Nat) : List CopyWrite → State → List CopyWrite × State
  | [], s => ([], s)
  | w :: ws, s =>
    if (match (s.channel n).err with | some e => decide (e.2 ≤ w.pos) | none => false) then performWrites n ws s
    else
      match tryWrite n s w with
      | none => let (l, s) := performWrites n ws s; (w :: l, s)
      | some (none, s) =>
        performWrites n ws (if w.counts then s.modChannel n fun c => { c with wrote := c.wrote ++ [(w.key, w.loc.addr)] } else s)
      | some (some st, s) => performWrites n ws (s.modChannel n fun c => { c with err := some (st, w.pos) })

/-- The record goes on with its writes; lines in which none is left leave the landing state (R145). -/
def goOnWriting (n : Nat) (s : State) : State :=
  let (left, s) := performWrites n ((s.channel n).writes.getD []) s
  let left := left.filter fun w => match (s.channel n).err with | some e => decide (w.pos < e.2) | none => true
  let needed := left.filterMap fun w => w.line s (s.channel n)
  let done := (s.channel n).landing.filter fun l => l ∉ needed
  (done.foldl (endLanding n) s).modChannel n fun c => { c with writes := some left, landing := c.landing.filter fun l => l ∈ needed }

/-- The record has made all its moves: the failure at the lowest position ends it, one of the network as one of its own (R53, R201,
R202), a plane mode's at the start of the tile it meets (log 53). -/
def finishRecord (n : Nat) (plan : List Piece) (s : State) : State :=
  let ch := s.channel n
  let r := ch.record
  let sent := (plan.filter fun p => p.remoteDst && p.pos ∈ ch.acked).map fun p => (p.dst.addr, p.len)
  let sectors := countSectors r ch.wrote sent ch.skip.length
  let bm := bitmapOf r ch.plan ch.wrote ch.skip
  let index (pos : Nat) : Nat := if rMode r = 1 || rMode r = 2 then pos / rEsz r else if rMode r = 4 || rMode r = 5 then pos / 1024 * 1024 else pos
  let passed (p : Piece) : Bool := rMode r = 1 && (tfind ch.skip (p.pos / rEsz r)).isSome
  let missing := plan.find? fun p => (p.remoteSrc && !passed p && !(ch.got.any fun g => g.1 = p.pos)) || (p.remoteDst && p.pos ∉ ch.acked)
  let net : Option (Nat × Nat × BitVec 10) := match ch.failed with
    | some (kind, peer) => some (netStatus kind.toNat, (missing.map (·.pos)).getD 0, peer)
    | none => none
  let own : Option (Nat × Nat × BitVec 10) := (ch.err.map fun e => (e.1, e.2, 0)).or ch.planEnd
  match net, own with
  | some f, some e => if e.2.1 < f.2.1 then endRecord s n e.1 (index e.2.1) sectors bm e.2.2 else endRecord s n f.1 (index f.2.1) sectors bm f.2.2
  | some f, none | none, some f => endRecord s n f.1 (index f.2.1) sectors bm f.2.2
  | none, none => endRecord s n 0 0 sectors bm 0

/-- COPY_RECORD_END (R199): once every response has come the record reads its source, where no page of it moves (R134); it then writes
what pages and landings let it, and completes when nothing is left. -/
def execCopyRecordEnd (n : Nat) (s : State) : Host.Outcome State Fault Refusal :=
  .next <|
    let ch := s.channel n
    let plan := ch.plan.filter fun p => match ch.planEnd with | some (_, x, _) => decide (p.pos < x) | none => true
    if ch.st ≠ .moving || ch.got_n ≠ 0 then s
    else
      let m := readSource ch plan s
      if ch.writes.isNone && m.wait then s
      else
        let s := if ch.writes.isSome then s else m.s.modChannel n fun c => { c with writes := some m.writes, err := m.err }
        let s := goOnWriting n s
        if (s.channel n).writes ≠ some [] || endWaits s (s.channel n) ch.record then s else finishRecord n plan s

/-- A cancelled gather has delivered what it could write of what had arrived (R53, R96), and its restart passes over those elements. -/
def deliverGot (n : Nat) (s : State) : Table Nat × State :=
  let ch := s.channel n
  if ch.st ≠ .moving || rMode ch.record ≠ 1 then (ch.skip, s)
  else
    let s := if ch.writes.isSome then s
      else
        let arrived := ch.plan.filter fun p => p.remoteSrc && ch.got.any fun g => g.1 = p.pos
        let m := arrived.foldl (movePiece ch) { writes := [], err := none, s := s }
        m.s.modChannel n fun c => { c with writes := some m.writes, err := m.err }
    let s := goOnWriting n s
    ((s.channel n).wrote.foldl (fun t q => tput t (q.1 / rEsz ch.record) 1) ch.skip, s)

/-! ## XCOPY and XCOPYY (R405 to R407) -/

/-- The channel that an issuer may take now (R192): it is its turn among those that wait, its team may start a chain, and a channel
is idle. -/
def nextChannel (s : State) (core : Nat) (me : UnitRef × Nat) : Option Nat :=
  let first := s.copyWait.find? fun w => chainReady s core w
  if 32 ≤ teamChains s me.1.team || (first.isSome && first ≠ some me) then none else idleChannel s core

/-- The part that XCOPY and XCOPYY share after their checks (R192, R406): none while the issuer must wait. -/
def takeChannel (c : Ctx) (va : Nat) (s : State) : Option State :=
  let me := (c.u, c.slot)
  match nextChannel s c.core me with
    | none => none
    | some n =>
      let s := ((writebackAll s c.core).forget fun p => p = .chain n).pass (.unit c.u) (.chain n)
      let s := { s with copyWait := s.copyWait.erase me }
      some (startChain s n va c.core (c.team.placeOn c.core) c.u.team c.team.ctx c.launch.nfpol c.team.wins)

/-- The issuer waits for a channel, in issue order (R192). -/
def waitChannel (c : Ctx) (s : State) : State :=
  let me := (c.u, c.slot)
  parkAt c .channel (if me ∈ s.copyWait then s else { s with copyWait := s.copyWait ++ [me] })

/-- A record address checked at issue (R392, R406). -/
def recordCheck (c : Ctx) (va size : Nat) (kind : Kind) (align : Nat) : Option Byte :=
  if va % align ≠ 0 then some 0x05
  else (rangeCheck c.team.wins c.secure kind va size).map (·.1)

/-- The requirements of XCOPY (R282, R283). -/
def encXcopy (f : RForm) : Enc :=
  { ok := eOk f && f.d = 0 && f.b = 0 && !f.feb && f.mod = 0, uses := [useU f.a f.fea], mask := f.mask }

/-- XCOPY (R168, R406). -/
def execXcopy (f : RForm) (s : State) : Host.Outcome State Fault Refusal :=
  issue (.xcopy f) (encXcopy f) s fun c s =>
    let va := (sval s c f.a).toNat
    match recordCheck c va 64 .read 64 with
    | some k => raiseAddr c k va s
    | none =>
      if orderWait s c true then parkAt c .retry s
      else
        match takeChannel c va s with
        | some s => advance c 1 s
        | none => waitChannel c s

/-- The requirements of XCOPYY (R282, R283). -/
def encXcopyy (f : IForm) : Enc :=
  { ok := f.d = 0 && f.mask = 0 && !f.feb && !f.fec && f.lit.isNone && bits f.mod 6 2 = 0, cal := false
    uses := [useU f.a f.fea], mask := f.mask }

/-- XCOPYY (R168, R204, R407): the stream goes on at its continuation, and is ready there once the ring has a filled slot
(`readySlot`). -/
def execXcopyy (f : IForm) (s : State) : Host.Outcome State Fault Refusal :=
  let ring := bits f.mod 0 6
  issue (.xcopyy f) (encXcopyy f) s fun c s =>
    let va := (sval s c f.a).toNat
    if !ringHeld s c.core ring c.u.team then raiseHere c 0x11 0 0 s
    else
      match recordCheck c va 64 .read 64 with
      | some k => raiseAddr c k va s
      | none =>
        if orderWait s c true then parkAt c .retry s
        else
          match takeChannel c va s with
          | none => waitChannel c s
          | some s =>
            let cont := (Thread.at c.rep.pc 0).target f.imm
            (jump c cont s).modUnit c.u fun u => u.modThread c.slot fun th => { th with park := .ring ring cont }

/-! ## Rings (R408 to R411) -/

/-- The requirements of RINIT (R282, R283). -/
def encRinit (f : RForm) : Enc :=
  { ok := eOk f && f.d = 0 && f.mod = 0, uses := [useU f.a f.fea, useU f.b f.feb], mask := f.mask }

/-- RINIT (R408). -/
def execRinit (f : RForm) (s : State) : Host.Outcome State Fault Refusal :=
  issue (.rinit f) (encRinit f) s fun c s =>
    let k := (sval s c f.a).toNat
    let w := sval s c f.b
    let logn := bits w 0 4
    let base := bits w 6 51 * 64
    let r := s.ring c.core k
    let mine := ringHeld s c.core k c.u.team
    if 63 < k || bits w 4 2 ≠ 0 || bits w 57 7 ≠ 0 || logn = 0 || 12 < logn || base % (32 * 2 ^ logn) ≠ 0 || (rgHeld r && !mine) ||
        (mine && rgRes r ≠ rgR r) then raiseHere c 0x11 0 0 s
    else
      match rangeCheck c.team.wins c.secure .write base (32 * 2 ^ logn) with
      | some (x, a) => raiseAddr c x a s
      | none =>
        let v := setBits (setBits (setBit (setBits (0 : BitVec 256) 0 57 base) 224 true) 64 4 logn) 225 4 (c.team.placeOn c.core)
        advance c 1 (s.setRing c.core k v)

/-- The requirements of RAWAIT (R282, R283). -/
def encRawait (f : RForm) : Enc :=
  { ok := eOk f && f.b = 0 && !f.feb && f.mod = 0, uses := [Use.dst f.d 1 .reg, useU f.a f.fea], mask := f.mask }

/-- RAWAIT (R409). -/
def execRawait (f : RForm) (s : State) : Host.Outcome State Fault Refusal :=
  issue (.rawait f) (encRawait f) s fun c s =>
    let k := (sval s c f.a).toNat
    if 63 < k || !ringHeld s c.core k c.u.team then raiseHere c 0x11 0 0 s
    else if !ringReady (s.ring c.core k) || acquireOpen s c.u then parkAt c .retry s
    else
      let s := (acquireL1 s c.core).pass (.slot c.core k (rgR (s.ring c.core k))) (.unit c.u)
      advance c 1 (writeS c f.d (BitVec.ofNat 64 (rgR (s.ring c.core k))) s)

/-- The requirements of RREL (R282, R283). -/
def encRrel (f : RForm) : Enc :=
  { ok := eOk f && f.d = 0 && f.b = 0 && !f.feb && f.mod = 0, uses := [useU f.a f.fea], mask := f.mask }

/-- RREL (R410). -/
def execRrel (f : RForm) (s : State) : Host.Outcome State Fault Refusal :=
  issue (.rrel f) (encRrel f) s fun c s =>
    let k := (sval s c f.a).toNat
    let r := s.ring c.core k
    if 63 < k || !ringHeld s c.core k c.u.team then raiseHere c 0x11 0 0 s
    else if !loadsReturned s c.u then parkAt c .retry s
    else if !ringReady r then raiseHere c 0x11 0 0 s
    else advance c 1 (s.setRing c.core k (setBits r 128 32 (rgR r + 1)))

end Sys2Proof.Machine
end

