-- ==== Sys2Proof/Machine/HashGrid.lean ====
section
/-! DEFINITION. The hash-grid engine (R248 to R253, R413). HGATH reads in the issuing step, but for lanes that must wait (log 34);
HSCAT sends one step of its reductions at a time. -/

namespace Sys2Proof.Machine

/-! ## Reading records and lanes' data -/

/-- Bytes read as loads of the unit, or of a lane, in 16-byte pieces, after what stopped the reading before. -/
def readPieces (c : Ctx) (va n : Nat) (r : TexRun) : Bytes × TexRun :=
  (List.range (ceilDiv n 16)).foldl (fun p k =>
    let (bs, r) := p.2.read c ((va + 16 * k) % 2 ^ 64) 16
    (p.1 ++ bs, r)) ([], r)

/-- One level of a grid record (R248). -/
structure GridLevel where
  base : Nat                     -- TBASE, or TOFF
  home1 : Bool
  nm : Nat
  res : Nat
  logt : Nat
  feat : Nat
  fmt : Fmt
  dense : Bool
  deriving DecidableEq, Repr, Inhabited

/-- Bytes of an entry (R248). -/
def GridLevel.es (g : GridLevel) : Nat := 2 * g.feat

/-- A level record, or nothing where R248 calls for cause 0x07. -/
def gridLevel (setsz scr : Nat) (x : BitVec 256) : Option GridLevel :=
  let h1 := x.getLsbD 57
  let g : GridLevel :=
    { base := bits x 0 57, home1 := h1, nm := 2 ^ bits x 58 2, res := bits x 64 20, logt := bits x 84 5
      feat := if x.getLsbD 89 then 4 else 2, fmt := if x.getLsbD 90 then .bf16 else .f16, dense := x.getLsbD 91 }
  let ok := bits x 60 4 = 0 && bits x 92 164 = 0 && decide (1 ≤ g.res) && decide (10 ≤ g.logt) && decide (g.logt ≤ 22) &&
    (if h1 then decide (g.base < 2 ^ 20) && g.base % g.es = 0 else g.base % 64 = 0) &&
    (!g.dense || decide ((g.res + 1) ^ 3 ≤ 2 ^ g.logt)) &&
    (!h1 || (decide (g.nm ≤ setsz) && decide (g.base + g.es * 2 ^ g.logt / g.nm ≤ scr)))
  if ok then some g else none

/-- What reading a grid record gives. -/
inductive GridAns where
  | ok (ls : List GridLevel) (record : Bytes)
  | wait
  | fault (cause : Byte) (info : W64) (addr : Nat)
  | bad                          -- cause 0x07 (R248)

/-- The levels of a grid record, or nothing where R248 calls for cause 0x07. -/
def gridLevels (c : Ctx) (bs : Bytes) : Option (List GridLevel) :=
  let hd := BitVec.ofNat 256 (natOf (bs.take 32))
  let ls := (List.range (bits hd 0 5)).map fun k =>
    gridLevel c.launch.setsz c.launch.budget.scr (BitVec.ofNat 256 (natOf ((bs.drop (32 + 32 * k)).take 32)))
  if bits hd 5 251 ≠ 0 || ls.any Option.isNone then none else some (ls.filterMap id)

/-- The grid record at an address (R248): its alignment and its address first, then the whole record as loads, and only then its
checks. A record with NLEV out of range has no levels to read. -/
def readGrid (c : Ctx) (va : Nat) (s : State) : GridAns × State :=
  match recordCheck c va 32 .read 64 with
  | some k => (.fault k atIssue va, s)
  | none =>
    let stopped (r : TexRun) (x : ReadAns) : GridAns × State :=
      match x with | .fault k i => (.fault k i r.addr, r.s) | _ => (.wait, r.s)
    let (h, r) := readPieces c va 32 { s := s, stop := none, addr := 0 }
    match r.stop with
    | some x => stopped r x
    | none =>
      let hd := BitVec.ofNat 256 (natOf h)
      let n := bits hd 0 5
      if n = 0 || decide (16 < n) then (.bad, r.s)
      else
        let (bs, r) := readPieces c (va + 32) (32 * n) r
        match r.stop with
        | some x => stopped r x
        | none =>
          match gridLevels c (h ++ bs) with
          | some ls => (.ok ls (h ++ bs), r.s)
          | none => (.bad, r.s)

/-! ## Corners (R249) -/

/-- A grid point and a fraction on one axis. -/
def gridAxis (res : Nat) (p : W32) : Nat × W32 :=
  let q := f32Rat p
  let u : Rat := (if q < 0 then 0 else if 1 < q then 1 else q) * mkRat res 1
  let i := min u.floor.toNat (res - 1)
  (i, f32Round (Num.ofRat (u - mkRat i 1)))

/-- Index (R249), modulo 2^32. -/
def gridIndex (g : GridLevel) (x y z : W32) : Nat :=
  if g.dense then (x + BitVec.ofNat 32 (g.res + 1) * (y + BitVec.ofNat 32 (g.res + 1) * z)).toNat
  else
    let h := (x * 0x7A3C5E29) ^^^ (y * 0xB1D46F87) ^^^ (z * 0xE92F3C15)
    (h ^^^ (h >>> 15)).toNat % 2 ^ g.logt

/-- The entry of corner `k` of a lane's position. -/
def cornerEntry (g : GridLevel) (p : List W32) (k : Nat) : Nat :=
  let at_ (a : Nat) : W32 := BitVec.ofNat 32 ((gridAxis g.res (p.getD a 0)).1 + k / 2 ^ a % 2)
  gridIndex g (at_ 0) (at_ 1) (at_ 2)

/-- The three fractions of a lane's position. -/
def fractions (g : GridLevel) (p : List W32) : List W32 := (List.range 3).map fun a => (gridAxis g.res (p.getD a 0)).2

/-- Address of an entry: a virtual address, or a set-scratch address (R149, R248). -/
def entryAddr (g : GridLevel) (e : Nat) : Nat :=
  if g.home1 then e % g.nm * 2 ^ 32 + (g.base + g.es * (e / g.nm)) else (g.base + g.es * e) % 2 ^ 64

/-- The position triple of a lane; a component that is a NaN or an infinity makes it non-finite. -/
def position (c : Ctx) (a l : Nat) : List W32 := (List.range 3).map fun k => c.us.vreg (a + k) l
def posFinite (p : List W32) : Bool := p.all fun x => !nonFinite .f32 x.toNat

/-! ## HGATH -/

/-- The bytes of one entry, read as a load of the lane (R251). -/
def readEntry (c : Ctx) (g : GridLevel) (e : Nat) (r : TexRun) : Bytes × TexRun :=
  let va := entryAddr g e
  if r.stop.isSome then ([], r)
  else if g.home1 then
    match setPlace r.s c va g.es with
    | .ok p =>
      if placeBad r.s p g.es then ([], { r with stop := some (.fault 0x0A 0), addr := va })
      else (placeRead r.s c p g.es, match r.id with
        | some id => { r with s := noteRead r.s c.u ⟨id, r.lane, r.part, placeKey p, g.es⟩ }
        | none => r)
    | .error k => ([], { r with stop := some (.fault k atIssue), addr := va })
  else r.read c va g.es

/-- The features of one level at a position (R250): codes of FMT before the policy. -/
def levelFeatures (g : GridLevel) (f : List W32) (es : List Bytes) : List (Fmt × Nat) :=
  let fr (a : Nat) : Rat := f32Rat (f.getD a 0)
  (List.range g.feat).map fun j =>
    let v (k : Nat) : W32 := f32Round (valueOf g.fmt (natOf (((es.getD k []).drop (2 * j)).take 2)))
    let x (k : Nat) : W32 := lerp (v k) (v (k + 1)) (fr 0)
    let y (k : Nat) : W32 := lerp (x k) (x (k + 2)) (fr 1)
    (g.fmt, roundTo g.fmt (((f32Val (y 0)).mul (Num.ofRat (1 - fr 2))).add .rne ((f32Val (y 4)).mul (Num.ofRat (fr 2)))) .rne)

/-- The features of a lane, level after level; a lane with a non-finite position reads nothing and gets +0 (R249). -/
def laneFeatures (c : Ctx) (ls : List GridLevel) (p : List W32) (r : TexRun) : List (Fmt × Nat) × TexRun :=
  ls.zipIdx.foldl (fun acc x =>
    let g := x.1
    if !posFinite p then (acc.1 ++ List.replicate g.feat (g.fmt, 0), acc.2)
    else
      let (es, r) := (List.range 8).foldl (fun (q : List Bytes × TexRun) k =>
        let (bs, r) := readEntry c g (cornerEntry g p k) q.2
        (q.1 ++ [bs], r)) ([], { acc.2 with part := x.2 })
      (acc.1 ++ levelFeatures g (fractions g p) es, r)) ([], r)

/-- Every lane's features, or its refusal; and the lanes that wait. -/
def gatherLanes (c : Ctx) (ls : List GridLevel) (a : Nat) (s : State) :
    List (Nat × List (Fmt × Nat)) × List (Byte × W64 × Nat × W64) × List HeldLane × State :=
  engineLanes c.lanes s.nextId (fun l r => laneFeatures c ls (position c a l) r) s

/-- The A, B and D fields that HGATH and HSCAT share (R413): a position triple and a pair of scalar registers. -/
def gridUses (f : RForm) (d : List Use) : List Use :=
  d ++ [Use.src f.a f.fea (min 3 (256 - f.a.toNat)) .vec, Use.src f.b f.feb 1 .reg] ++
  (if f.b = 0x17F then [] else [Use.src (f.b + 1) f.feb 1 .reg])

def gridEnc (f : RForm) (d : List Use) : Enc :=
  { ok := eOk f && f.mod = 0 && f.b ≠ 0x17F, cal := false, uses := gridUses f d, mask := f.mask }

/-- The features of a lane that a write to an entry of their level has met unordered (R251). -/
def racedFeatures (s : State) (id lane : Nat) (ls : List GridLevel) : List Bool :=
  ls.zipIdx.flatMap fun g => List.replicate g.1.feat (s.isRaced id lane g.2)

/-- Features of a lane written into the activation store (R250): feature q at OUT + 512 (q / 2) + 4 row + 2 (q mod 2). The features of
`free` take free values (R251). -/
def writeFeatures (s : State) (core : Nat) (u : UnitRef) (out row : Nat) (pol : Nat) (fs : List (Fmt × Nat)) (free : List Bool) : State :=
  (fs.zip (List.range fs.length)).foldl (fun s p =>
    let (v, s) := if free.getD p.2 false then let (x, s) := s.draw 16; (x.toNat, s) else (policy pol p.1.1 p.1.2, s)
    storeWrite s core 0 (out + 512 * (p.2 / 2) + 4 * row + 2 * (p.2 % 2)) (.unit u) (bytesOf 2 v)) s

/-- HGATH (R250, R251, R413). -/
def execHgath (f : RForm) (s : State) : Host.Outcome State Fault Refusal :=
  issue (.hgath f) (gridEnc f [Use.dst f.d]) s fun c s =>
    let va := (sval s c f.b).toNat
    let pw := sval s c (f.b + 1)
    if acquiring s c.u then parkAt c .retry s
    else
    match readGrid c va s with
    | (.wait, s) => parkAt c .retry s
    | (.fault k i a, s) => raiseUniform c k i a 1 s (some (f.d.toNat, 1))
    | (.bad, s) => raiseHere c 0x07 0 0 s
    | (.ok ls bs, s) =>
      let q := (ls.map (·.feat)).foldl (· + ·) 0
      let out := bits pw 0 22
      let row0 := bits pw 22 7
      if 253 < f.a.toNat || bits pw 29 35 ≠ 0 || out % 512 ≠ 0 || 128 < row0 + c.w || 2 ^ 22 < out + 512 * ceilDiv q 2 then
        raiseHere c 0x07 0 0 s
      else
        let id := s.nextId
        let (done, errs, held, s) := gatherLanes c ls f.a.toNat s
        let pol := c.launch.nfpol
        let free (l : Nat) : List Bool := racedFeatures s id l ls
        if held = [] && done.any fun p => (p.2.zip (free p.1)).any fun v => !v.2 && traps pol v.1.1 v.1.2 then raiseHere c 0x10 0 0 s
        else
          let s := s.modTeam c.u.team fun t => { t with affine := true }
          let o : Operands := { vec := [(f.a.toNat, 3)], record := [bs], feats := some (out, row0, q) }
          -- the status of a lane, and while another waits its features
          let word (p : Nat × List (Fmt × Nat)) : List W32 :=
            (if posFinite (position c f.a.toNat p.1) then 0 else 1) :: (if held = [] then [] else p.2.map fun v => BitVec.ofNat 32 v.2)
          let s := if held = [] then done.foldl (fun s p => writeFeatures s c.core c.u out (row0 + p.1) pol p.2 (free p.1)) s else s
          holdResult c f.d.toNat 1 1 (done.map fun p => (p.1, word p)) errs s held o

/-! ## HSCAT -/

/-- The exact weight of corner `k` (R252). -/
def cornerWeight (f : List W32) (k : Nat) : Rat :=
  (List.range 3).foldl (fun (w : Rat) a => let x := f32Rat (f.getD a 0); w * (if k / 2 ^ a % 2 = 1 then x else 1 - x)) 1

/-- The type of a single feature. -/
def featTy (f : Fmt) : OpTy := ⟨16, 1, true, some f⟩

/-- One contribution: lane, address and value of step `k` = corner × FEAT + feature (R252). -/
def scatterReq (c : Ctx) (g : GridLevel) (a d pol k l : Nat) : LaneReq :=
  let p := position c a l
  let w := cornerWeight (fractions g p) (k / g.feat)
  let v := roundTo g.fmt ((Num.ofRat w).mul (f32Val (c.us.vreg (d + k % g.feat) l))) .rne
  ⟨l, ((entryAddr g (cornerEntry g p (k / g.feat)) + 2 * (k % g.feat)) % 2 ^ 64 : Nat), [BitVec.ofNat 32 (policy pol g.fmt v)], []⟩

/-- What the check of a contribution's address gives (R253): at issue, and at its home. -/
inductive ScatterAns where
  | ok
  | held (w : Option ParkPlace)
  | fault (cause : Byte) (info : W64)

/-- The check of one contribution's address for access `id`. -/
def scatterCheck (c : Ctx) (g : GridLevel) (id va : Nat) (s : State) : ScatterAns × State :=
  if g.home1 then
    match setPlace s c va 2 with
    | .ok p => (if placeBad s p 2 then .fault 0x0A 0 else .ok, s)
    | .error k => (.fault k atIssue, s)
  else
    match translate c.team.wins c.secure .rw va 2 with
    | .error k => (.fault k atIssue, s)
    | .ok ia =>
      if (homeSlice ia).isNone then (.fault 0x06 atIssue, s)
      else if olderOpen s c.u id ia 2 then (.held none, s)
      else
        match homeCheck s c.u c.secure true ia with
        | (.park w, s) => (.held (some w), s)
        | (.fault k st, s) => (.fault k (BitVec.ofNat 64 (st * 1024)), s)
        | (.ok, s) => (if homeBad s ia || homeBad s (ia + 1) then .fault 0x0A 1024 else .ok, s)

/-- One combined contribution performed at its place (R252): the slice ALU, or the member core's scratchpad ALU. -/
def scatterRed (c : Ctx) (g : GridLevel) (pol va v : Nat) (s : State) : State :=
  let t := featTy g.fmt
  let add (old : Nat) : Nat × Bool := aopResult pol 0 t old v 0
  if g.home1 then
    match setPlace s c va 2 with
    | .error _ => s
    | .ok p =>
      let (x, note) := add (natOf (placeRead s c p 2))
      let s := if note then s.noteBit c.team.ctx 193 else s
      placeWrite s c.u p (bytesOf 2 x)
  else
    match translate c.team.wins c.secure .rw va 2 with
    | .error _ => s
    | .ok ia =>
      let s := flushSector s c.core ia
      let (bs, s) := aluRead s ia 2 (s.coreTag c.core)
      let (x, note) := add (natOf bs)
      let s := if note then s.noteBit c.team.ctx 193 else s
      mscWrite s ia (s.coreTag c.core) (bytesOf 2 x)

/-- The combined contributions of step `k` from some lanes (R166, R252). -/
def scatterGroups (c : Ctx) (g : GridLevel) (a d pol k : Nat) (ls : List Nat) : List (RedGroup Unit) :=
  redGroups 0 pol (featTy g.fmt) (ls.map fun l => (scatterReq c g a d pol k l, ()))

/-- The contributions of a lane from step `k` on: addresses of the global ones, which the unit's later accesses do not pass (R156). -/
def scatterRest (c : Ctx) (g : GridLevel) (a d pol k n l : Nat) : List LaneAcc :=
  (List.range n).filterMap fun j =>
    if j < k then none
    else
      let q := scatterReq c g a d pol j l
      let ia := if g.home1 then none else
        match translate c.team.wins c.secure .rw q.va.toNat 2 with | .ok ia => some ia | .error _ => none
      some ⟨l + 64 * j, q.va.toNat, ia.getD 0, if ia.isSome then 2 else 0, q.data, [], .waiting⟩

/-- The first step of an HSCAT in flight that is not complete, and its lanes. -/
def scatterNow (a : Access) : Option (Nat × List LaneAcc) :=
  match pickBest (fun (x y : LaneAcc) => decide (x.lane / 64 < y.lane / 64)) a.lanes with
  | none => none
  | some l => some (l.lane / 64, a.lanes.filter fun x => x.lane / 64 = l.lane / 64)

/-- Lanes of an HSCAT in flight leave it at a step: they send nothing from it on (R253). -/
def scatterDrop (s : State) (id : Nat) (gone : LaneAcc → Bool) : State :=
  let left := s.inflight.map fun a => if a.id = id then { a with lanes := a.lanes.filter fun l => !gone l } else a
  { s with inflight := left.filter fun a => !(a.id = id && a.lanes.isEmpty) }

/-- One reduction of a step: sent, refused for its lanes from this step on (R253), or waiting with the step (R134, R135). -/
def scatterSend (c : Ctx) (g : GridLevel) (pol : Nat) (a : Access) (k : Nat) (r : RedGroup Unit) (s : State) : State :=
  let mine (l : Nat) : Bool := r.mask.getLsbD l
  match scatterCheck c g a.id r.va s with
  | (.ok, s) => scatterDrop (scatterRed c g pol r.va r.v s) a.id fun x => x.lane / 64 = k && mine (x.lane % 64)
  | (.fault q i, s) =>
    let s := scatterDrop s a.id fun x => mine (x.lane % 64)
    let steps : Table Nat := (lanesOf 64 r.mask).foldl (fun t l => tput t l k) a.rep.steps
    let s := s.modAccess a.id fun a => { a with rep := { a.rep with steps := steps } }
    addPending s a.u { cause := q, level := 0, f := r.mask, addr := BitVec.ofNat 64 r.va, info := i, rep := { a.rep with em := r.mask, steps := steps } }
  | (.held (some w), s) =>
    -- the reduction is parked with its lowest lane
    let l := r.lane + 64 * k
    (parkLane s w a.id l).modAccess a.id fun a => a.setLane l .parked
  | (.held none, s) => s

/-- The step of an HSCAT in flight that comes next: its reductions, in the order of their lowest lanes (R252, R253). One whose lowest
lane is parked waits until it is released and its turn has come. -/
def scatterStep (c : Ctx) (s : State) (a : Access) : State :=
  match a.kind, scatterNow a with
  | .scatter bf16 home1, some (k, ls) =>
    let g : GridLevel := { (default : GridLevel) with fmt := if bf16 then .bf16 else .f16, home1 := home1 }
    let reqs := ls.map fun x => ((⟨x.lane % 64, (x.va : Int), x.data, []⟩ : LaneReq), ())
    (redGroups 0 a.pol (featTy g.fmt) reqs).foldl (fun s r =>
      match (s.access? a.id).bind fun a => (a.lane? (r.lane + 64 * k)).map fun l => (a, l) with
      | some (a, l) =>
        if l.st = .parked || !replayTurn s a.id l.lane (pageOf l.ia) then s
        else scatterSend c g a.pol a k r (replayDone s a.id l.lane)
      | none => s) s
  | _, _ => s

/-- HSCAT (R252, R253, R413). -/
def execHscat (f : RForm) (s : State) : Host.Outcome State Fault Refusal :=
  issue (.hscat f) (gridEnc f (Use.imp f.d 1 .vec :: if f.d.toNat < 255 then [Use.imp (f.d + 1) 1 .vec] else [])) s fun c s =>
    let va := (sval s c f.b).toNat
    let lw := sval s c (f.b + 1)
    if acquiring s c.u then parkAt c .retry s
    else
    match readGrid c va s with
    | (.wait, s) => parkAt c .retry s
    | (.fault k i a, s) => raiseUniform c k i a 1 s
    | (.bad, s) => raiseHere c 0x07 0 0 s
    | (.ok ls _, s) =>
      match ls[bits lw 0 4]? with
      | none => raiseHere c 0x07 0 0 s
      | some g =>
        let a := f.a.toNat
        let d := f.d.toNat
        let pol := c.launch.nfpol
        if bits lw 4 60 ≠ 0 || 253 < a || 256 < d + g.feat then raiseHere c 0x07 0 0 s
        else if c.launch.budget.vregs < d + g.feat then raiseHere c 0x03 0 0 s
        else if c.us.isEmpty d g.feat then parkAt c .retry s
        else
          let n := 8 * g.feat
          let lanes := c.lanes.filter fun l => posFinite (position c a l)
          let from_ (l : Nat) : Nat := tget 0 c.rep.steps l
          let traps (k : Nat) : Bool :=
            (scatterGroups c g a d pol k (lanes.filter fun l => from_ l ≤ k)).any fun r => redTraps pol (featTy g.fmt) r.v
          if (List.range n).any traps then raiseHere c 0x10 0 0 s
          else
            let (id, s) := s.fresh
            let rest := lanes.flatMap fun l => scatterRest c g a d pol (from_ l) n l
            let s := if rest = [] then s
              else { s with inflight := s.inflight ++ [
                { id := id, u := c.u, core := c.core, kind := .scatter (g.fmt = .bf16) g.home1, dst := none, regs := 0, scope := 0, hint := 0
                  pol := pol, rep := repFor c id none 0, lanes := rest, uni := false }] }
            advance c 1 s

end Sys2Proof.Machine
end

