-- ==== Sys2Proof/Machine/Collective.lean ====
section
/-! DEFINITION. The collective engines (R256 to R270, R417 to R420). In plane modes a party sends its planes to every other party
directly, one at a time (log 36); in standard modes contributions go round a ring or along a tree (log 101). -/

namespace Sys2Proof.Machine

/-! ## Operations (R256, R257) -/

def coOp (r : BitVec 512) : Nat := bits r 0 2
def coEnc (r : BitVec 512) : Nat := bits r 2 2
def coArrival (r : BitVec 512) : Bool := r.getLsbD 4
def coAop (r : BitVec 512) : Nat := bits r 6 2
def coRingen (r : BitVec 512) : Bool := r.getLsbD 8
def coRing (r : BitVec 512) : Nat := bits r 9 6
def coRank (r : BitVec 512) : Nat := bits r 15 10
def coP (r : BitVec 512) : Nat := bits r 25 11
def coOpid (r : BitVec 512) : W32 := r.extractLsb' 64 32
def coRoot (r : BitVec 512) : Nat := bits r 96 10
def coSrc (r : BitVec 512) : Nat := bits r 128 57
def coDst (r : BitVec 512) : Nat := bits r 192 57
def coLen (r : BitVec 512) : Nat := bits r 256 32
def coRtab (r : BitVec 512) : Nat := bits r 320 57
def coWork (r : BitVec 512) : Nat := bits r 384 57
def coStaddr (r : BitVec 512) : Nat := bits r 448 57

/-- The cases of R418 in which a COLL raises cause 0x07 (R256). -/
def collBad (r : BitVec 512) : Bool :=
  let std := coEnc r = 0
  coOp r = 3 || coEnc r = 3 || coAop r = 3 || bits r 36 28 ≠ 0 || bits r 106 22 ≠ 0 || bits r 185 7 ≠ 0 || bits r 249 7 ≠ 0 ||
  bits r 288 32 ≠ 0 || bits r 377 7 ≠ 0 || bits r 441 7 ≠ 0 || bits r 505 7 ≠ 0 ||
  decide (coP r < 2) || decide (1024 < coP r) || decide (coP r ≤ coRank r) || decide (coP r ≤ coRoot r) || coLen r = 0 ||
  coSrc r % 4 ≠ 0 || coDst r % 4 ≠ 0 || coRtab r % 16 ≠ 0 || coWork r % 64 ≠ 0 || coStaddr r % 16 ≠ 0 ||
  (coEnc r = 1 && coOp r = 0) || (coEnc r = 2 && coOp r ≠ 0) ||
  (coArrival r && !(std && coOp r = 0)) || (r.getLsbD 5 && !std) || (coAop r ≠ 0 && !(std && coOp r = 0)) ||
  (coOp r ≠ 2 && coRoot r ≠ 0)

/-- Destination elements, and tiles (R256). -/
def coElems (r : BitVec 512) : Nat := if coOp r = 1 then coP r * coLen r else coLen r
def coNt (r : BitVec 512) : Nat := ceilDiv (coElems r) 256

/-- Contributors of a destination tile: every party, the source of a broadcast, or the owners of the blocks that the tile
holds elements of (R262; log 36). -/
def coContributors (r : BitVec 512) (t : Nat) : List Nat :=
  match coOp r with
  | 0 => List.range (coP r)
  | 1 => (List.range (coP r)).filter fun p => decide (coLen r * p < 256 * (t + 1)) && decide (256 * t < coLen r * (p + 1))
  | _ => [coRoot r]

/-! ## Routes of the standard modes (R260; log 101) -/

/-- Whether a rank is in the subtree of `q`, in the tree of ranks in which rank r's parent is (r - 1) / 2. -/
def inSubtree (q : Nat) : Nat → Nat → Bool
  | 0, p => decide (p = q)
  | n + 1, p => decide (p = q) || (decide (q < p) && inSubtree q n ((p - 1) / 2))

/-- The parties to which a party sends the tiles of a route: the next of the ring, or its parent and children in the tree. -/
def routePeers (r : BitVec 512) (own : Nat) : List Nat :=
  if r.getLsbD 5 then ((if own = 0 then [] else [(own - 1) / 2]) ++ [2 * own + 1, 2 * own + 2]).filter fun q => decide (q < coP r)
  else [(own + 1) % coP r]

/-- Whether the contribution of rank p goes from rank `own` to rank q. -/
def routed (r : BitVec 512) (own q p : Nat) : Bool :=
  decide (q ∈ routePeers r own) && decide (p ≠ q) &&
  (if !r.getLsbD 5 then true else if q < own then inSubtree own 11 p else !inSubtree q 11 p)

/-- Tiles that a party contributes to. -/
def coTiles (r : BitVec 512) (rank : Nat) : List Nat := (List.range (coNt r)).filter fun t => rank ∈ coContributors r t

def CollOp.die (op : CollOp) : Nat := op.core / 32
def CollOp.rank (op : CollOp) : Nat := coRank op.record
def CollOp.nt (op : CollOp) : Nat := coNt op.record
def CollOp.tile (op : CollOp) (t : Nat) : CollTile := tget default op.tiles t
def CollOp.setTile (op : CollOp) (t : Nat) (x : CollTile) : CollOp := { op with tiles := tset default op.tiles t x }
def CollOp.work (op : CollOp) : Nat := coWork op.record

/-- World of an engine (R24). -/
def engineSecure (s : State) (op : CollOp) : Bool := s.pkg.worldColl.getLsbD op.die

/-- An operation is named by its context and its record's address (R418). -/
def sameOp (a b : CollOp) : Bool := a.ctx = b.ctx && a.recAddr = b.recAddr

def State.putColl (s : State) (op : CollOp) : State :=
  { s with collOps := s.collOps.map fun x => if sameOp x op then op else x }

def heldOp (s : State) (ctx recAddr : Nat) : Option CollOp := s.collOps.find? fun x => x.ctx = ctx && x.recAddr = recAddr

/-! ## Status words (R265) -/

def stCount (w : W64) : Nat := bits w 0 6
def stFinal (w : W64) : Bool := stCount w = 32 || w.getLsbD 6 || w.getLsbD 7 || w.getLsbD 9

/-- A status other than OK and CUT. -/
def failing (x : Option Byte) : Bool := match x with | some st => st ≠ 0 && st ≠ 0x0C | none => false

/-- The status word of a tile as the engine holds it (R265, R268). -/
def CollOp.word (op : CollOp) (t : Nat) : W64 :=
  let w := (op.tile t).status
  if failing op.finish && !stFinal w then setBit w 9 true else w

/-- Every tile is final; in standard modes, every tile is written. -/
def CollOp.allFinal (op : CollOp) : Bool :=
  (List.range op.nt).all fun t => if coEnc op.record = 0 then (op.tile t).done else stFinal (op.tile t).status

/-! ## The engine's accesses -/

/-- Bytes written by the engine: a wait, or the operation failed with the status of R269, or performed. -/
def collWrite (s : State) (op : CollOp) (tile va : Nat) (bs : Bytes) : Option (CollOp × State) :=
  match engineCheck s op.wins (engineSecure s op) true va bs.length with
  | .wait => none
  | .stop k i a => some ({ op with finish := some (BitVec.ofNat 8 (causeStatus k)), detail := tile }, engineNote s op.wins true (.stop k i a) (s.coreTag op.core))
  | .ok => some (op, engineWrite s op.wins (engineSecure s op) va (s.coreTag op.core) bs)

/-- Bytes read by the engine: none is a wait; a refusal gives its status and the offset at which it is met. -/
def collRead (s : State) (op : CollOp) (va n : Nat) : Option (Except (Byte × Nat) Bytes × State) :=
  match engineCheck s op.wins (engineSecure s op) false va n with
  | .wait => none
  | .stop k i a => some (.error (BitVec.ofNat 8 (causeStatus k), a - va), engineNote s op.wins false (.stop k i a) (s.coreTag op.core))
  | .ok =>
    let (bad, bs, s') := engineRead s op.wins (engineSecure s op) va n (s.coreTag op.core)
    let at' := ((rangePoints 4 va n).find? fun a =>
      (agentRead s (engineIa op.wins (engineSecure s op) false a) (min (va + n - a) (16 - a % 16)) (s.coreTag op.core)).1).getD va
    some (if bad then .error (5, at' - va) else .ok bs, s')

/-- The status word of a tile, written to its status block; none is a wait. -/
def putStatus (s : State) (op : CollOp) (t : Nat) : Option State :=
  (collWrite s op t (op.work + 256 + 64 * t) (bytesOf 8 (op.word t).toNat)).map (·.2)

/-! ## Links and messages (R257, R259 to R261) -/

/-- The die-to-die link of two base dies is up (R12). -/
def linkUp (s : State) (a b : Nat) : Bool :=
  let lo := min a b
  let hi := max a b
  a = b || s.pkg.links.getLsbD (if lo = 0 then hi - 1 else if lo = 1 then hi + 1 else 5)

def entryLocal (w : W64) : Bool := w.getLsbD 1
def entryDie (w : W64) : Nat := bits w 2 2
def entryPeer (w : W64) : Nat := bits w 4 10

/-- Numbers that a message carries; the receiver's rank and the operation's P, OP, ENC and LEN stand first (R259). -/
def bodyNats (op : CollOp) (r : Nat) (b : CollBody) : List Nat :=
  let hd := [op.opid.toNat, r, op.rank, coP op.record, coOp op.record, coEnc op.record, coLen op.record]
  match b with
  | .join _ _ _ _ => hd ++ [0]
  | .exponent t e _ _ _ _ => hd ++ [1, t, e.toNat]
  | .cutRequest k => hd ++ [2, k]
  | .freeze k => hd ++ [3, k]
  | .freezeReply x => hd ++ [4, x]
  | .cutK k => hd ++ [5, k]
  | .streamStop => hd ++ [6]
  | .abort => hd ++ [7]
  | .planes _ _ _ _ _ _ _ _ | .standard _ _ _ => hd

/-- The message of a SEND that arrived for a die (R40, R259): its receiver is a party of the context on that die. -/
def msgOfNats (die ctx : Nat) (l : List Nat) : Option CollMsg :=
  match l with
  | opid :: dest :: sender :: p :: op :: enc :: len :: rest =>
    let mk (b : CollBody) : Option CollMsg := some ⟨die, ctx, BitVec.ofNat 32 opid, dest, sender, b⟩
    match rest with
    | [0] => mk (.join p op enc len)
    | [1, t, e] => mk (.exponent t (BitVec.ofNat 16 e) p op enc len)
    | [2, k] => mk (.cutRequest k)
    | [3, k] => mk (.freeze k)
    | [4, x] => mk (.freezeReply x)
    | [5, k] => mk (.cutK k)
    | [6] => mk .streamStop
    | [7] => mk .abort
    | _ => none
  | _ => none

/-- Outcome of a send: sent, waiting for a moving page, or a status the operation ends with. -/
inductive SendAns where
  | ok
  | wait
  | bad (status : Byte)
  deriving DecidableEq, Repr, Inhabited

/-- The peer that a rank names (R49, R257). -/
def collPeer (s : State) (op : CollOp) (w : W64) : Option (Except Byte Peer × State) :=
  match collRead s op (peerAddr s op.ctx (entryPeer w)) 8 with
  | none => none
  | some (.error e, s) => some (.error e.1, s)
  | some (.ok bs, s) =>
    some (match peerOf s (engineSecure s op) (BitVec.ofNat 64 (natOf bs)) with
      | .error k => .error (if k = 0x08 then 4 else 7)
      | .ok p => .ok p, s)

def collOwner (op : CollOp) (r : Nat) : NetOwner := .coll op.die op.ctx op.opid op.rank r

/-- A message to rank `r`: over the mesh to a local party, and as a SEND to a remote one (R261). -/
def sendBody (s : State) (op : CollOp) (r : Nat) (b : CollBody) : SendAns × State :=
  let w := op.ranks.getD (2 * r) 0
  if entryLocal w then
    if linkUp s op.die (entryDie w) then (.ok, { s with collMsgs := s.collMsgs ++ [⟨entryDie w, op.ctx, op.opid, r, op.rank, b⟩] })
    else (.bad 8, s)
  else
    match collPeer s op w with
    | none => (.wait, s)
    | some (.error st, s) => (.bad st, s)
    | some (.ok p, s) =>
      -- on a connection in the error state it fails at once (R39, R52)
      if (s.conn (connKey p.port p.conn)).err then (.bad 8, s)
      else (.ok, post s p.port p.conn (.send (Config.collEncode (bodyNats op r b)) none) (collOwner op r))

/-- Data written into the staging block of (tile, contributor) at rank `r`, and handed to its engine (R257, R260, R261). -/
def sendData (s : State) (op : CollOp) (r t who off : Nat) (data : Bytes) (staged : Bytes) (b : CollBody) : SendAns × State :=
  let w := op.ranks.getD (2 * r) 0
  let pwork := bits (op.ranks.getD (2 * r + 1) 0) 0 57
  let va := pwork + 256 + 1088 * op.nt + 1024 * (coP op.record * t + who) + off
  if entryLocal w then
    if !linkUp s op.die (entryDie w) then (.bad 8, s)
    else
      match collWrite s op t va staged with
      | none => (.wait, s)
      | some (x, s) =>
        match x.finish with
        | some st => (.bad st, s)
        | none => (.ok, { s with collMsgs := s.collMsgs ++ [⟨entryDie w, op.ctx, op.opid, r, op.rank, b⟩] })
  else
    match collPeer s op w with
    | none => (.wait, s)
    | some (.error st, s) => (.bad st, s)
    | some (.ok p, s) =>
      if (s.conn (connKey p.port p.conn)).err then (.bad 8, s)
      else (.ok, post s p.port p.conn (.write va p.rkey data (some op.opid)) (collOwner op r))

/-- A send that fails ends the operation (R268, R269). -/
def CollOp.sendFailed (op : CollOp) (st : Byte) (r detail : Nat) : CollOp :=
  { op with finish := some st, failRank := if st = 7 || st = 8 || st = 9 then r else op.rank, detail := detail }

/-- A message of the engine, behind those that wait (R134): one whose peer's entry stands on a moving page waits, and so does one before
the start; the engine and its callers go on (R393, R420). -/
def sendOrQueue (s : State) (op : CollOp) (r : Nat) (b : CollBody) : CollOp × State :=
  let queued : CollOp × State := ({ op with outbox := op.outbox ++ [(r, b)] }, s)
  if !op.begun || op.outbox ≠ [] then queued
  else
    match sendBody s op r b with
    | (.wait, _) => queued
    | (.bad st, s) => (op.sendFailed st r 0, s)
    | (.ok, s) => (op, s)

/-- The connection that reaches a remote rank is known. -/
def CollOp.reached (op : CollOp) (s : State) (r : Nat) : CollOp :=
  let w := op.ranks.getD (2 * r) 0
  if entryLocal w || op.links.any (fun l => l.1 = r) then op
  else
    match collPeer s op w with
    | some (.ok p, _) => { op with links := op.links ++ [(r, connKey p.port p.conn)] }
    | _ => op

/-- A message to every rank of a list; none is a wait. -/
def sendAll (s : State) (op : CollOp) (b : CollBody) : List Nat → Option (CollOp × State)
  | [] => some (op, s)
  | r :: l =>
    match sendBody s op r b with
    | (.wait, _) => none
    | (.bad st, s) => some (op.sendFailed st r 0, s)
    | (.ok, s) => sendAll s (op.reached s r) b l

/-! ## Fixed-point codes (R263, R264, R191) -/

/-- The local exponent of a tile, as sent (R263). -/
def localExp (codes : List W32) : BitVec 16 :=
  if codes.any fun x => nonFinite .f32 x.toNat then 0x7FFF
  else
    let es := codes.filterMap fun x => let q := f32Rat x; if q = 0 then none else some (floorLog2 (if q < 0 then -q else q))
    match es with
    | [] => BitVec.ofInt 16 (-126)
    | e :: l => BitVec.ofInt 16 (l.foldl max e)

/-- The quantum G of a tile with exponent E among P parties. -/
def fixQuantum (p : Nat) (e : Int) : Rat := pow2 (e - 30 + clog2 p)

/-- An element's integer code (R263). -/
def fixCode (p : Nat) (e : Int) (x : W32) : W32 :=
  let lim : Int := 2 ^ (31 - clog2 p) - 1
  let q : Int := (BitVec.ofNat 32 (roundTo (.int 32 true) (Num.ofRat (f32Rat x / fixQuantum p e)) .rne)).toInt
  BitVec.ofInt 32 (max (-lim) (min lim q))

/-- The top k bits of a code. -/
def topPlanes (k : Nat) (c : W32) : W32 := if k = 0 then 0 else (c >>> (32 - min k 32)) <<< (32 - min k 32)

/-- A result under the operation's policy (R184), and whether it sets the non-finite note. -/
def collPolicy (pol : Nat) (v : W32) : W32 × Bool :=
  (BitVec.ofNat 32 (policy (if pol = 2 then 0 else pol) .f32 v.toNat), pol = 2 && nonFinite .f32 v.toNat)

/-- The exponents of every party have arrived: the agreed E, or 0x7FFF. -/
def agreed (op : CollOp) (t : Nat) : Option (BitVec 16) :=
  let es := (List.range (coP op.record)).filterMap fun p => (tfind (op.tile t).exps p).map fun e => BitVec.ofNat 16 (e - 1)
  if es.length < coP op.record then none
  else if es.any fun e => e = 0x7FFF then some 0x7FFF
  else some (es.foldl (fun m e => if m.toInt < e.toInt then e else m) (es.headD 0))

/-- The code of one's own contribution to a tile, as it is sent. -/
def ownCodes (op : CollOp) (t : Nat) : List W32 :=
  let src := tget [] op.src t
  if coEnc op.record = 2 then src.map (fixCode (coP op.record) (((agreed op t).getD 0).toInt)) else src

/-- Plane j of codes, 32 bytes: bit e holds bit 32 - j of element e (R261). -/
def planeOf (codes : List W32) (j : Nat) : Bytes :=
  (List.range 32).map fun i => BitVec.ofNat 8 ((List.range 8).foldl (fun n k =>
    if (codes.getD (8 * i + k) 0).getLsbD (32 - j) then n + 2 ^ k else n) 0)

/-- Codes with plane j set from its 32 bytes. -/
def withPlane (codes : List W32) (j : Nat) (data : Bytes) : List W32 :=
  (List.range 256).map fun e => setBit (codes.getD e 0) (32 - j) ((data.getD (e / 8) 0).getLsbD (e % 8))

/-- Codes with the planes of a batch that begins at plane j. -/
def withPlanes (codes : List W32) (j : Nat) (data : Bytes) : List W32 :=
  (List.range (data.length / 32)).foldl (fun c k => withPlane c (j + k) ((data.drop (32 * k)).take 32)) codes

/-! ## Applying planes (R262, R264, R266, R267) -/

/-- A tile that this party alone contributes to. -/
def ownTile (op : CollOp) (t : Nat) : Bool := (coContributors op.record t).all fun p => p = op.rank

/-- Planes of a tile that every contributor has delivered, within a collective-wide cut. -/
def planesReady (op : CollOp) (t : Nat) : Nat :=
  let have1 := (coContributors op.record t).filterMap fun p => if p = op.rank then none else some (tget 0 (op.tile t).planes p)
  let n := have1.foldl min 32
  let n := match op.cutK with | some k => min n k | none => n
  if coEnc op.record = 2 && (agreed op t).isNone then 0 else n

/-- The codes of a contributor of a tile, as far as they are known. -/
def partOfTile (op : CollOp) (t p : Nat) : List W32 := if p = op.rank then ownCodes op t else tget [] (op.tile t).parts p

/-- The sum S(k) of an element in fixed-point plane mode, which fits I32 (R264). -/
def tileSum (op : CollOp) (t k e : Nat) : Int :=
  (coContributors op.record t).foldl (fun (n : Int) p => n + (topPlanes k ((partOfTile op t p).getD e 0)).toInt) 0

/-- The values of a tile at count k (R262, R264). -/
def tileValues (op : CollOp) (t k : Nat) : List W32 :=
  if coEnc op.record = 2 then
    let g := fixQuantum (coP op.record) (((agreed op t).getD 0).toInt)
    (List.range 256).map fun e => f32Round (Num.ofRat (mkRat (tileSum op t k e) 1 * g))
  else
    (List.range 256).map fun e =>
      topPlanes k ((coContributors op.record t).foldl (fun (v : W32) p => v ||| (partOfTile op t p).getD e 0) 0)

/-- In fixed-point plane mode the own planes 1 to k of a tile are in staging, and its accumulator holds S(k) (R257, R264; log 36). -/
def writeSums (s : State) (op : CollOp) (t k : Nat) : Option (CollOp × State) :=
  if coEnc op.record = 2 then
    let own := (List.range k).flatMap fun j => planeOf (ownCodes op t) (j + 1)
    (collWrite s op t (op.work + 256 + 1088 * op.nt + 1024 * (coP op.record * t + op.rank)) own).bind fun r =>
      if failing r.1.finish then some r
      else collWrite r.2 r.1 t (op.work + 256 + 64 * op.nt + 1024 * t) ((List.range 256).flatMap fun e => bytesOf 4 (BitVec.ofInt 32 (tileSum op t k e)).toNat)
  else some (op, s)

/-- Elements of a tile that the destination has. -/
def tileElems (op : CollOp) (t : Nat) : Nat := min 256 (coElems op.record - 256 * t)

/-- A tile's values written to its destination; the padding is never written (R256). -/
def writeTile (s : State) (op : CollOp) (t : Nat) (clean : Bool) (vs : List W32) : Option (CollOp × State) :=
  let rs := (vs.take (tileElems op t)).map fun v => if clean then collPolicy op.pol v else (v, false)
  match collWrite s op t (coDst op.record + 1024 * t) (rs.flatMap fun r => bytesOf 4 r.1.toNat) with
  | none => none
  | some (op, s) => some (op, if rs.any (·.2) then s.noteBit op.ctx 193 else s)

/-- The planes of a tile that a single-stream cut leaves it (R266); 32 where none of its contributors was cut. -/
def scutAt (op : CollOp) (t : Nat) : Nat :=
  (coContributors op.record t).foldl (fun n p => if p ∈ op.scut then min n (tget 0 (op.tile t).planes p) else n) 32

/-- The bits that end a tile (R266, R267): SCUT where a single-stream cut stops it below the collective-wide one, and CUT at that. An
own tile of raw mode keeps its COUNT of 32, which never decreases (log 42). -/
def endBits (op : CollOp) (t : Nat) (w : W64) : W64 :=
  if w.getLsbD 7 || w.getLsbD 8 then w
  else if stCount w = scutAt op t && decide (scutAt op t < op.cutK.getD 32) then setBit w 7 true
  else
    match op.cutK with
    | some k => if stCount w = k || ownTile op t then setBit w 6 true else w
    | none => w

/-- A tile brought up to the planes that are ready (R264): the accumulator and the values first, then COUNT. None is a wait. -/
def applyTile (s : State) (op : CollOp) (t : Nat) : Option (CollOp × State) :=
  let w := (op.tile t).status
  if failing op.finish || w.getLsbD 7 || w.getLsbD 8 then some (op, s)
  else if coEnc op.record = 2 && agreed op t = some 0x7FFF then
    match writeTile s op t true (List.replicate 256 0x7FC00000) with
    | none => none
    | some (op, s) =>
      if failing op.finish then some (op, s)
      else
        let op := op.setTile t { op.tile t with status := 0x7FFF0000 ||| 0x120 }
        (putStatus s op t).map fun s => (op, s)
  else
    let k := planesReady op t
    let r := if stCount w < k then
        (writeSums s op t k).bind fun r => if failing r.1.finish then some r else writeTile r.2 r.1 t (coEnc op.record = 2) (tileValues op t k)
      else if k < stCount w && ownTile op t && !w.getLsbD 6 then writeTile s op t false (tileValues op t k)   -- truncated (R267)
      else some (op, s)
    match r with
    | none => none
    | some (op, s) =>
      if failing op.finish then some (op, s)
      else
        let w1 := setBits w 0 6 (max k (stCount w))
        let w1 := if coEnc op.record = 2 && k ≠ 0 then setBits w1 16 16 ((agreed op t).getD 0).toNat else w1
        let w1 := endBits op t w1
        let op := op.setTile t { op.tile t with status := w1 }
        if w1 = w then some (op, s) else (putStatus s op t).map fun s => (op, s)

/-- Several tiles brought up to date. -/
def applyTiles (s : State) (op : CollOp) : List Nat → Option (CollOp × State)
  | [] => some (op, s)
  | t :: l =>
    match applyTile s op t with
    | none => none
    | some (op, s) => applyTiles s op l

/-! ## Standard modes (R260, R191) -/

/-- Maximum or minimum of two codes of a standard all-reduce: any NaN gives the canonical NaN (R260). -/
def stdMinMax (isMax : Bool) (a b : W32) : W32 :=
  if f32Val a = .nan || f32Val b = .nan then 0x7FC00000 else BitVec.ofNat 32 (minMaxBits isMax .f32 a.toNat b.toNat)

/-- The result of an element from its contributions, by rank and in arrival order. -/
def stdCombine (op : CollOp) (byRank : List W32) (byArrival : List W32) : W32 :=
  match coAop op.record with
  | 0 =>
    if coArrival op.record then (match byArrival with | [] => 0 | x :: l => l.foldl f32Add x)
    else (treeReduce f32Add (clog2 byRank.length) (byRank.map some)).getD 0
  | k =>
    match byRank with
    | [] => 0
    | x :: l => l.foldl (stdMinMax (k = 1)) (stdMinMax (k = 1) x x)

/-- A tile written once every contribution is there; an element that only one party contributes is copied. -/
def finishStd (s : State) (op : CollOp) (t : Nat) : Option (CollOp × State) :=
  let cs := coContributors op.record t
  let tl := op.tile t
  let part (p : Nat) : List W32 := if p = op.rank then ownCodes op t else tget [] tl.parts p
  if tl.done || cs.any (fun p => p ≠ op.rank && (tfind tl.parts p).isNone) then some (op, s)
  else
    let order := tl.order ++ cs.filter fun p => p ∉ tl.order
    let vs : List W32 :=
      if coOp op.record = 0 then (List.range 256).map fun e => stdCombine op (cs.map fun p => (part p).getD e 0) (order.map fun p => (part p).getD e 0)
      else (List.range 256).map fun e => cs.foldl (fun (v : W32) p => v ||| (part p).getD e 0) 0
    match writeTile s op t (coOp op.record = 0) vs with
    | none => none
    | some (op, s) => some (if failing op.finish then op else op.setTile t { op.tile t with done := true }, s)

def finishStds (s : State) (op : CollOp) : List Nat → Option (CollOp × State)
  | [] => some (op, s)
  | t :: l =>
    match finishStd s op t with
    | none => none
    | some (op, s) => finishStds s op l

/-! ## Starting (R257 to R259, R418) -/

/-- What is wrong with the rank table, with the rank that it concerns: a reserved bit or an own entry that is not local or names
another base die gives FORMAT, and an invalid entry PEER_INVALID (R257). -/
def ranksBad (op : CollOp) : Option (Byte × Nat) :=
  let bad := (List.range (coP op.record)).any fun r => bits (op.ranks.getD (2 * r) 0) 14 50 ≠ 0 || bits (op.ranks.getD (2 * r + 1) 0) 57 7 ≠ 0
  let own := op.ranks.getD (2 * op.rank) 0
  if bad || !(entryLocal own && entryDie own = op.die) then some (1, op.rank)
  else ((List.range (coP op.record)).find? fun r => !(op.ranks.getD (2 * r) 0).getLsbD 0).map fun r => (7, r)

/-- Destination tiles' own contributions from the source bytes (R256, R258). -/
def sourceTiles (r : BitVec 512) (bs : Bytes) : Table (List W32) :=
  (coTiles r (coRank r)).map fun t => (t, (List.range 256).map fun e =>
    let g := 256 * t + e
    let i := if coOp r = 1 then g - coLen r * coRank r else g
    let inside := decide (i < coLen r) && (coOp r ≠ 1 || decide (coLen r * coRank r ≤ g))
    if inside then BitVec.ofNat 32 (natOf ((bs.drop (4 * i)).take 4)) else 0)

/-- What a starting party writes into its work area: free values where only the engine's own values stand, which are the header and the
accumulators, and in the standard modes the staging blocks and words 1 to 7 of the status blocks (R257, R260); zeros elsewhere
(R259). -/
def startArea (r : BitVec 512) (nt : Nat) (s : State) : Bytes × State :=
  let std := coEnc r = 0
  let status := 64 * nt
  let stage := 1024 * coP r * nt
  let (head, s) := s.draw (8 * 256)
  let (acc, s) := s.draw (8 * (1024 * nt))
  let (st, s) := if std then s.draw (8 * status) else (0, s)
  let (sg, s) := if std then s.draw (8 * stage) else (0, s)
  (bytesOf 256 head.toNat ++ ((bytesOf status st.toNat).zipIdx.map fun b => if b.2 % 64 < 8 then 0 else b.1) ++
    bytesOf (1024 * nt) acc.toNat ++ bytesOf stage sg.toNat, s)

/-- The steps of a start: the rank table, the source, the work area, the own exponents and tiles, and the join words. A
step that fails ends the operation with its status; none is a wait. -/
def startColl (s : State) (op : CollOp) : Option (CollOp × State) :=
  let r := op.record
  match collRead s op (coRtab r) (16 * coP r) with
  | none => none
  | some (.error e, s) => some ({ op with finish := some e.1, detail := e.2 }, s)
  | some (.ok bs, s) =>
    let op := { op with ranks := (List.range (2 * coP r)).map fun k => BitVec.ofNat 64 (natOf ((bs.drop (8 * k)).take 8)) }
    match ranksBad op with
    | some e => some ({ op with finish := some e.1, failRank := e.2 }, s)
    | none =>
      let mine := coTiles r op.rank
      let src := if mine = [] then some (.ok [], s) else collRead s op (coSrc r) (4 * coLen r)
      match src with
      | none => none
      | some (.error e, s) => some ({ op with finish := some e.1, detail := e.2 }, s)
      | some (.ok bs, s) =>
        let op := { op with src := sourceTiles r bs }
        let nt := op.nt
        let (area, s) := startArea r nt s
        match collWrite s op 0 op.work area with
        | none => none
        | some (op, s) =>
          if failing op.finish then some (op, s)
          else
            let op := mine.foldl (fun (op : CollOp) t =>
              let tl := op.tile t
              let exps := if coEnc r = 2 then tput tl.exps op.rank (1 + (localExp (tget [] op.src t)).toNat) else tl.exps
              op.setTile t { tl with exps := exps, order := [op.rank] }) op
            let own := (List.range nt).filter (ownTile op)
            match (if coEnc r = 0 then finishStds s op own else applyTiles s op own) with
            | none => none
            | some (op, s) =>
              if failing op.finish then some (op, s)
              else sendAll s op (.join (coP r) (coOp r) (coEnc r) (coLen r)) ((List.range (coP r)).filter fun p => p ≠ op.rank)

/-- Operations of an engine that have not ended. -/
def dieOps (s : State) (die : Nat) : List CollOp := s.collOps.filter fun x => x.die = die

/-- Which core of its team a core is. -/
def corePos (t : Team) (core : Nat) : Nat := (t.cores.findIdx? fun k => k = core).getD 0

/-- The requirements of COLL (R282, R283). -/
def encColl (f : RForm) : Enc :=
  { ok := eOk f && f.d = 0 && f.b = 0 && !f.feb && f.mod = 0, uses := [useU f.a f.fea], mask := f.mask }

/-- A message is for this party of its operation. -/
def CollMsg.isFor (m : CollMsg) (x : CollOp) : Bool := x.die = m.die && x.ctx = m.ctx && x.opid = m.opid && x.rank = m.dest

/-- A party ends with LINK_DOWN because its coordinator says so (R268). -/
def abortOp (s : State) (die ctx : Nat) (opid : W32) (rank : Nat) : State :=
  { s with collOps := s.collOps.map fun x =>
      if x.die = die && x.ctx = ctx && x.opid = opid && x.rank = rank && x.finish.isNone then { x with finish := some 8 } else x }

/-- The coordinator's abort reaches a party: held while the operation has not started there (R40, R268). -/
def abortParty (s : State) (m : CollMsg) : State :=
  if s.collOps.any fun x => m.isFor x then abortOp s m.die m.ctx m.opid m.dest
  else if s.collDone.any fun d => m.isFor d.op then s
  else { s with collMsgs := s.collMsgs ++ [m] }

/-- An abort that was held for an operation acts as it starts (R40). -/
def takeAborts (s : State) (op : CollOp) : State :=
  let held (m : CollMsg) : Bool := m.isFor op && m.body = .abort
  if s.collMsgs.any held then
    abortOp { s with collMsgs := s.collMsgs.filter fun m => !held m } op.die op.ctx op.opid op.rank
  else s

/-- The engine starts an operation that it holds; what its start needs of a moving page it waits for by itself (R134, R393). -/
def beginColl (s : State) (op : CollOp) : State :=
  match startColl s op with
  | none => s
  | some (y, s) => let y := { y with begun := true }; takeAborts (s.putColl y) y

/-- COLL (R256 to R259, R418). -/
def execColl (f : RForm) (s : State) : Host.Outcome State Fault Refusal :=
  issue (.coll f) (encColl f) s fun c s =>
    let va := (sval s c f.a).toNat
    match recordCheck c va 64 .read 64 with
    | some k => raiseAddr c k va s
    | none =>
      let (bs, r) := readPieces c va 64 { s := s, stop := none, addr := 0 }
      match r.stop with
      | some (.fault k i) => raiseUniform c k i r.addr 1 r.s
      | some _ => parkAt c .retry r.s
      | none =>
        let s := r.s
        let x : BitVec 512 := BitVec.ofNat 512 (natOf bs)
        if collBad x || (heldOp s c.team.ctx va).isSome then raiseHere c 0x07 0 0 s
        else if decide (16 ≤ (dieOps s (c.core / 32)).length) || orderWait s c true then parkAt c .retry s
        else
          let s := ((writebackAll s c.core).forget fun p => p = .coll c.team.ctx va).pass (.unit c.u) (.coll c.team.ctx va)
          let op : CollOp :=
            { (default : CollOp) with
              ctx := c.team.ctx, opid := coOpid x, recAddr := va, record := x, team := c.u.team, core := c.core
              pos := corePos c.team c.core, failRank := coRank x, pol := c.launch.nfpol, wins := c.team.wins }
          let noRing := coRingen x && !ringHeld s c.core (coRing x) c.u.team
          let op := if noRing then { op with finish := some 0x0A } else op
          let s : State := { s with collOps := s.collOps ++ [op], collDone := s.collDone.filter fun d => !sameOp d.op op }
          let s := if noRing then s else beginColl s op
          advance c 1 (s.modTeam c.u.team fun t => { t with collSeen := t.collSeen.erase (va, op.opid) })

/-! ## Sending data (R259, R261, R263) -/

/-- One step of what a party sends to a receiver: an exponent, a plane, or a contributor's whole tile. -/
inductive SendStep where
  | exponent (t : Nat)
  | plane (j t : Nat)
  | tile (p t : Nat)
  deriving DecidableEq, Repr, Inhabited

/-- The tiles that a route brings from a party to rank q, with their contributors: its own first, and then those of the ranks behind
it. -/
def routeSteps (op : CollOp) (q : Nat) : List (Nat × Nat) :=
  if q ∈ routePeers op.record op.rank then
    (((List.range (coP op.record)).map fun d => (op.rank + coP op.record - d) % coP op.record).filter (routed op.record op.rank q)).flatMap
      fun p => (coTiles op.record p).map fun t => (p, t)
  else []

/-- Steps of a party to a receiver: exponents first, then plane by plane over its tiles (R261), or the tiles of a route (R260). -/
def sendTotal (op : CollOp) (q : Nat) : Nat :=
  let n := (coTiles op.record op.rank).length
  match coEnc op.record with
  | 0 => (routeSteps op q).length
  | 1 => 32 * n
  | _ => 33 * n

def sendStep (op : CollOp) (q i : Nat) : SendStep :=
  let ts := coTiles op.record op.rank
  let n := max 1 ts.length
  match coEnc op.record with
  | 0 => let x := (routeSteps op q).getD i (op.rank, 0); .tile x.1 x.2
  | 1 => .plane (i / n + 1) (ts.getD (i % n) 0)
  | _ => if i < n then .exponent (ts.getD i 0) else .plane (i / n) (ts.getD (i % n) 0)

/-- The highest plane that a party may send: a freeze and a cut bound it (R267). -/
def planeLimit (op : CollOp) : Nat :=
  match op.cutK, op.freeze with
  | some k, _ => k
  | none, some m => m
  | none, none => 32

/-- Whether a step may be taken now. -/
def stepReady (op : CollOp) (x : SendStep) : Bool :=
  match x with
  | .exponent _ => true
  | .tile p t => p = op.rank || (tfind (op.tile t).parts p).isSome
  | .plane j t => decide (j ≤ planeLimit op) && (coEnc op.record ≠ 2 || (agreed op t).isSome)

/-- Whether everything has been sent to a receiver. One that has cancelled this stream still needs the exponents, with
which it goes on to encode for the others (R263, R266). DEDUCED (log 42). -/
def sendsDone (op : CollOp) (r : Nat) : Bool :=
  let i := tget 0 op.sent r
  r = op.rank || decide (sendTotal op r ≤ i) ||
  (r ∈ op.stopped && (match sendStep op r i with | .exponent _ => false | _ => true)) ||
  (r ∈ op.joined && (match op.cutK, sendStep op r i with | some k, .plane j _ => decide (k < j) | _, _ => false))

/-- The highest plane begun for any tile (R267). -/
def planesBegun (op : CollOp) : Nat :=
  (op.sent.map fun p =>
    if p.2 = 0 || coEnc op.record = 0 then 0
    else match sendStep op p.1 (p.2 - 1) with | .plane j _ => j | _ => 0).foldl max 0

/-- The rank that a party sends to next: of those that have joined, and to which its next step may be taken, the one that has received
the fewest, and then the lowest, so that a plane goes to every receiver before the next one (R261; log 36). -/
def nextReceiver (x : CollOp) : Option Nat :=
  pickBest (fun (a b : Nat) => decide (tget 0 x.sent a < tget 0 x.sent b)) ((List.range (coP x.record)).filter fun r =>
    r ∈ x.joined && !sendsDone x r && stepReady x (sendStep x r (tget 0 x.sent r)))

/-- One data step to rank `r`. -/
def sendNext (s : State) (x : CollOp) (r : Nat) : State :=
  let i := tget 0 x.sent r
  let rec' := x.record
  let sentOne (s : State) : State := s.putColl { x with sent := tset 0 x.sent r (i + 1) }
  let conclude (q : SendAns × State) (t : Nat) : State :=
    match q with
    | (.wait, _) => s
    | (.bad st, s) => s.putColl (x.sendFailed st r t)
    | (.ok, s) => sentOne s
  match sendStep x r i with
  | .exponent t =>
    conclude (sendBody s x r (.exponent t (localExp (tget [] x.src t)) (coP rec') (coOp rec') (coEnc rec') (coLen rec'))) t
  | .plane j t =>
    if coEnc rec' = 2 && agreed x t = some 0x7FFF then sentOne s
    else
      let d := planeOf (ownCodes x t) j
      conclude (sendData s x r t x.rank (32 * (j - 1)) d d (.planes t x.rank j d (coP rec') (coOp rec') (coEnc rec') (coLen rec'))) t
  | .tile p t =>
    let d := (partOfTile x t p).flatMap fun v => bytesOf 4 v.toNat
    -- a program that reads the staging block reads unpredictable values (R260)
    let (y, s) := s.draw 8192
    conclude (sendData s x r t p 0 d (bytesOf 1024 y.toNat) (.standard t p d)) t

/-- COLL_DATA_SEND (R259 to R261): a step of an engine for an operation: its start, a message that has waited, tiles that a cancellation
has still to reach, or the next data step. -/
def execCollDataSend (die op : Nat) (s : State) : Host.Outcome State Fault Refusal :=
  .next <|
    match (dieOps s die)[op]? with
    | none => s
    | some x =>
      if x.finish.isSome then s
      else if !x.begun then beginColl s x
      else
        match x.outbox with
        | (r, b) :: rest =>
          match sendBody s x r b with
          | (.wait, _) => s
          | (.bad st, s) => s.putColl ({ x with outbox := rest }.sendFailed st r 0)
          | (.ok, s) => s.putColl { x with outbox := rest }
        | [] =>
          if x.due then ((applyTiles s { x with due := false } (List.range x.nt)).map fun r => r.2.putColl r.1).getD s
          else match nextReceiver x with
            | none => s
            | some r => sendNext s x r

/-! ## Arrivals -/

/-- Whether an earlier message of the same sender waits for the same operation. -/
def behind (s : State) (n : Nat) (m : CollMsg) : Bool :=
  (s.collMsgs.take n).any fun x => x.die = m.die && x.ctx = m.ctx && x.opid = m.opid && x.dest = m.dest && x.sender = m.sender

def opOf (s : State) (m : CollMsg) : Option CollOp := s.collOps.find? m.isFor

def ended (s : State) (m : CollMsg) : Option CollDone :=
  s.collDone.find? fun x => m.isFor x.op

def dropMsg (s : State) (n : Nat) : State := { s with collMsgs := s.collMsgs.eraseIdx n }

/-- Message `n` reaches its engine: one whose operation has not started is held, one whose operation has ended has no
effect, and otherwise `act` takes it (none: the engine waits). -/
def collArrive (n : Nat) (act : CollOp → CollMsg → State → Option State) (kind : CollBody → Bool) (s : State) :
    Host.Outcome State Fault Refusal :=
  .next <|
    match s.collMsgs[n]? with
    | none => s
    | some m =>
      if !kind m.body || behind s n m then s
      else
        let isJoin := match m.body with | .join _ _ _ _ => true | _ => false
        match opOf s m with
        | none => if (ended s m).isSome && !isJoin then dropMsg s n else s
        | some op => if op.finish.isSome then dropMsg s n else if !op.begun then s else (act op m (dropMsg s n)).getD s

/-- The fields that every message carries agree with the receiver's record (R259). -/
def agrees (op : CollOp) (p o enc len : Nat) : Bool :=
  p = coP op.record && o = coOp op.record && enc = coEnc op.record && len = coLen op.record

def mismatch (op : CollOp) (sender : Nat) : CollOp := { op with finish := some 0x0B, failRank := sender }

/-- COLL_JOIN_WORD_ARRIVAL (R259). -/
def execCollJoinWordArrival (n : Nat) (s : State) : Host.Outcome State Fault Refusal :=
  collArrive n (fun op m s =>
    match m.body with
    | .join p o enc len => some (s.putColl (if agrees op p o enc len then { op with joined := op.joined ++ [m.sender] } else mismatch op m.sender))
    | _ => none) (fun b => match b with | .join _ _ _ _ => true | _ => false) s

/-- COLL_EXPONENT_ARRIVAL (R263). -/
def execCollExponentArrival (n : Nat) (s : State) : Host.Outcome State Fault Refusal :=
  collArrive n (fun op m s =>
    match m.body with
    | .exponent t e p o enc len =>
      if !agrees op p o enc len then some (s.putColl (mismatch op m.sender))
      else
        let tl := op.tile t
        (applyTile s (op.setTile t { tl with exps := tput tl.exps m.sender (1 + e.toNat) }) t).map fun r => r.2.putColl r.1
    | _ => none) (fun b => match b with | .exponent _ _ _ _ _ _ => true | _ => false) s

/-- COLL_PLANE_BATCH_ARRIVAL (R261, R262, R264). -/
def execCollPlaneBatchArrival (n : Nat) (s : State) : Host.Outcome State Fault Refusal :=
  collArrive n (fun op m s =>
    match m.body with
    | .planes t p j data np o enc len =>
      if !agrees op np o enc len then some (s.putColl (mismatch op m.sender))
      else if p ∈ op.scut then some s
      else
        let tl := op.tile t
        let codes := withPlanes (tget [] tl.parts p) j data
        let op := op.setTile t { tl with planes := tset 0 tl.planes p (max (tget 0 tl.planes p) (j + data.length / 32 - 1)), parts := tput tl.parts p codes }
        (applyTile s op t).map fun r => r.2.putColl r.1
    | _ => none) (fun b => match b with | .planes _ _ _ _ _ _ _ _ => true | _ => false) s

/-- COLL_STANDARD_TRANSFER_ARRIVAL (R260). -/
def execCollStandardTransferArrival (n : Nat) (s : State) : Host.Outcome State Fault Refusal :=
  collArrive n (fun op m s =>
    match m.body with
    | .standard t p data =>
      let tl := op.tile t
      let codes : List W32 := (List.range 256).map fun e => BitVec.ofNat 32 (natOf ((data.drop (4 * e)).take 4))
      let op := op.setTile t { tl with parts := tput tl.parts p codes, order := if p ∈ tl.order then tl.order else tl.order ++ [p] }
      (finishStd s op t).map fun r => r.2.putColl r.1
    | _ => none) (fun b => match b with | .standard _ _ _ => true | _ => false) s

/-! ## Cancellation (R266, R267) -/

/-- The contributors of an operation. -/
def contributorsOf (op : CollOp) : List Nat := if coOp op.record = 2 then [coRoot op.record] else List.range (coP op.record)

/-- STREAM_STOP_ARRIVAL (R266): the contributor sends nothing more to the party. -/
def execStreamStopArrival (n : Nat) (s : State) : Host.Outcome State Fault Refusal :=
  collArrive n (fun op m s => some (s.putColl { op with stopped := op.stopped ++ [m.sender] }))
    (fun b => match b with | .streamStop => true | _ => false) s

/-- CUT_REQUEST_ARRIVAL (R267 step 2 and 3): rank 0 accepts the first request. -/
def execCutRequestArrival (n : Nat) (s : State) : Host.Outcome State Fault Refusal :=
  collArrive n (fun op m s =>
    match m.body with
    | .cutRequest k =>
      if op.cutAccepted.isSome || op.rank ≠ 0 then some s
      else (sendAll s { op with cutAccepted := some k } (.freeze k) (contributorsOf op)).map fun r => r.2.putColl r.1
    | _ => none) (fun b => match b with | .cutRequest _ => true | _ => false) s

/-- FREEZE_ARRIVAL (R267 step 3): the contributor replies with the highest plane it has begun, 32 where it has ended. -/
def execFreezeArrival (n : Nat) (s : State) : Host.Outcome State Fault Refusal :=
  .next <|
    match s.collMsgs[n]? with
    | none => s
    | some m =>
      match m.body with
      | .freeze k =>
        if behind s n m then s
        else
          match opOf s m, ended s m with
          | some op, _ =>
            let x := planesBegun op
            if !op.begun then s
            else
            match sendBody (dropMsg s n) op 0 (.freezeReply x) with
            | (.wait, _) => s
            | (.bad st, s) => s.putColl (if op.finish.isSome then op else op.sendFailed st 0 0)
            | (.ok, s) => s.putColl { op with freeze := some (max k x) }
          | none, some d =>
            match sendBody (dropMsg s n) d.op 0 (.freezeReply 32) with
            | (.wait, _) => s
            | (_, s) => s
          | none, none => s
      | _ => s

/-- The replies that rank 0 has from its contributors. -/
def freezeReplies (s : State) (op : CollOp) : List (Nat × Nat) :=
  s.collMsgs.filterMap fun m =>
    match m.body with
    | .freezeReply x => if m.isFor op then some (m.sender, x) else none
    | _ => none

/-- Whether rank r brings an operation a tile that it still needs: a contributor in plane modes, and in standard modes the party before
it on the route of a contribution that has not arrived (R260, R268). -/
def dependsOn (op : CollOp) (r : Nat) : Bool :=
  (List.range op.nt).any fun t => !stFinal (op.tile t).status && !(op.tile t).done && (coContributors op.record t).any fun p =>
    decide (p ≠ op.rank) && (if coEnc op.record = 0 then routed op.record r op.rank p && (tfind (op.tile t).parts p).isNone else decide (p = r))

/-- Whether the agreement on a cut still waits for rank r (R267, R268): rank 0 for the reply of a contributor, and one that has been
frozen for K. -/
def awaitsCut (s : State) (op : CollOp) (r : Nat) : Bool :=
  op.cutK.isNone &&
  ((op.rank = 0 && op.cutAccepted.isSome && decide (r ∈ contributorsOf op) && !(freezeReplies s op).any fun x => x.1 = r) ||
   (decide (r = 0) && decide (op.rank ≠ 0) && op.freeze.isSome))

/-- Whether an operation fails with the stream of rank r: one that it has still to send, or that it depends on (R268). -/
def losesWith (s : State) (op : CollOp) (r : Nat) : Bool := !sendsDone op r || dependsOn op r || awaitsCut s op r

/-- The status that a lost stream ends an operation with, and its rank (R268). -/
def lostStream (s : State) (op : CollOp) : Option (Nat × Byte) := op.broken.find? fun b => losesWith s op b.1

/-- The coordinator ends the operation at rank `r`, where it can reach it. -/
def abortAt (s : State) (op : CollOp) (r : Nat) : State :=
  let w := op.ranks.getD (2 * r) 0
  if entryLocal w then (if linkUp s op.die (entryDie w) then abortParty s ⟨entryDie w, op.ctx, op.opid, r, op.rank, .abort⟩ else s)
  else (sendBody s op r .abort).2

/-- FREEZE_REPLIES_COLLECTED (R267 step 4, R268): K goes to every party; a coordinator that has failed meanwhile ends the
operation at every party it can reach. -/
def execFreezeRepliesCollected (die op : Nat) (s : State) : Host.Outcome State Fault Refusal :=
  .next <|
    match (dieOps s die)[op]? with
    | none => s
    | some x =>
      match x.cutAccepted with
      | none => s
      | some k =>
        if x.cutK.isSome || x.rank ≠ 0 then s
        else
          let all := List.range (coP x.record)
          if failing x.finish || (lostStream s x).isSome then
            let s := all.foldl (fun s r => if r = 0 then s else abortAt s x r) s
            s.putColl { x with cutK := some 0 }
          else
            let rs := freezeReplies s x
            if (contributorsOf x).any fun p => !(rs.any fun r => r.1 = p) then s
            else
              let kk := rs.foldl (fun m r => max m r.2) k
              let mine (m : CollMsg) : Bool :=
                m.isFor x && (match m.body with | .freezeReply _ => true | _ => false)
              let s1 := { s with collMsgs := s.collMsgs.filter fun m => !mine m }
              -- rank 0's own K arrives as a message like any other
              match sendAll s1 { x with replies := rs } (.cutK kk) all with
              | none => s
              | some (y, s) => s.putColl y

/-- CUT_K_ARRIVAL (R267 step 5). -/
def execCutKArrival (n : Nat) (s : State) : Host.Outcome State Fault Refusal :=
  collArrive n (fun op m s =>
    match m.body with
    | .cutK k => (applyTiles s { op with cutK := some k } (List.range op.nt)).map fun r => r.2.putColl r.1
    | _ => none) (fun b => match b with | .cutK _ => true | _ => false) s

/-- The requirements of CCANCEL (R282, R283). -/
def encCancel (f : RForm) (mod : BitVec 8) : Enc :=
  { ok := eOk f && f.d = 0 && f.mod = mod, uses := [useU f.a f.fea, useU f.b f.feb], mask := f.mask }

/-- The operation that CCANCEL acts on (R420): one that the engine of the issuing core's base die holds. -/
def cancelledOp (s : State) (c : Ctx) (recAddr : Nat) : Option CollOp :=
  (heldOp s c.team.ctx recAddr).filter fun x => x.die = c.core / 32

/-- The shape of CCANCEL (R420). -/
def ccancel (i : Instr) (f : RForm) (mod : BitVec 8) (act : Ctx → W64 → CollOp → State → State) (bad : W64 → Bool) (s : State) :
    Host.Outcome State Fault Refusal :=
  issue i (encCancel f mod) s fun c s =>
    let b := sval s c f.b
    if bad b then raiseHere c 0x07 0 0 s
    else
      match cancelledOp s c (sval s c f.a).toNat with
      | none => advance c 1 s
      | some op => act c b op s

/-- CCANCEL (R266, R420): the stream of one contributor stops at this party. -/
def execCcancel (f : RForm) (s : State) : Host.Outcome State Fault Refusal :=
  ccancel (.ccancel f) f 0 (fun c b op s =>
    let p := bits b 0 10
    if coP op.record ≤ p then raiseHere c 0x07 0 0 s
    else if coEnc op.record = 0 || p = op.rank || op.cutK.isSome || op.finish.isSome || p ∈ op.scut then advance c 1 s
    else
      let (op, s) := sendOrQueue s { op with scut := op.scut ++ [p] } p .streamStop
      let later := s.putColl { op with due := true }
      advance c 1 (if !op.begun then later else ((applyTiles s op (List.range op.nt)).map fun r => r.2.putColl r.1).getD later)) (fun _ => false) s

/-- CCANCEL_CUT (R267, R420): the request goes to rank 0. -/
def execCcancelCut (f : RForm) (s : State) : Host.Outcome State Fault Refusal :=
  ccancel (.ccancelCut f) f 1 (fun c b op s =>
    if coEnc op.record = 0 || op.finish.isSome then advance c 1 s
    else
      let (op, s) := sendOrQueue s op 0 (.cutRequest b.toNat)
      advance c 1 (s.putColl op)) (fun b => b = 0 || decide (32 < b.toNat)) s

/-! ## The end (R269) -/

/-- Destination sectors of the tiles written (R269). -/
def collSectors (op : CollOp) : Nat :=
  let written (t : Nat) : Bool := if coEnc op.record = 0 then (op.tile t).done else stCount (op.tile t).status ≠ 0
  (List.range op.nt).foldl (fun n t =>
    if !written t then n
    else
      let a := coDst op.record + 1024 * t
      let k := sectorsOf a (4 * tileElems op t)
      n + (if t ≠ 0 && written (t - 1) && a % 32 ≠ 0 then k - 1 else k)) 0

/-- The core whose ring an operation names: that of its team where the team now is (R97, R98). -/
def collRingCore (s : State) (op : CollOp) : Option Nat :=
  match s.team? op.team with
  | none => some (match s.cores.find? fun p => (coRing op.record, op.team) ∈ p.2.orphans with | some p => p.1 | none => op.core)
  | some t =>
    match t.life with
    | .pending => none                       -- a saved team: the slot is filled when it is restored
    | _ => if t.cores.isEmpty then some op.core else some (t.cores.getD op.pos op.core)

/-- Every tile's status word written; none is a wait. -/
def putStatuses (s : State) (op : CollOp) : Option State :=
  (List.range op.nt).foldl (fun (s : Option State) t => s.bind fun s => putStatus s op t) (some s)

/-- The operation as it ends, with its status; none while it goes on. It waits for every party to join (R259), and one that a cut has
been asked of or that has been frozen waits for K (R267). -/
def collFinish (s : State) (x : CollOp) : Option (CollOp × Byte) :=
  match x.finish with
  | some st => some (x, st)
  | none =>
    match lostStream s x with
    | some (r, st) => some ({ x with failRank := r }, st)
    | none =>
      if x.begun && x.allFinal && (List.range (coP x.record)).all (fun r => sendsDone x r && decide (r = x.rank ∨ r ∈ x.joined)) && x.outbox = [] && !x.due &&
          !((x.cutAccepted.isSome || x.freeze.isSome) && x.cutK.isNone) then
        some (x, if x.cutK.isSome then 0x0C else 0)
      else none

/-- The operation with its last status and its tiles' last words. -/
def CollOp.closed (x : CollOp) (st : Byte) : CollOp :=
  let y := { x with finish := some st }
  (List.range y.nt).foldl (fun (y : CollOp) t =>
    y.setTile t { y.tile t with status := if coEnc y.record = 0 && st = 0 then 32 else y.word t }) y

/-- The detail word (R201, R269): the status, the byte offset or tile of the failed access, and the peer id of a remote party that
failed. -/
def CollOp.detailWord (y : CollOp) (st : Byte) : W64 :=
  let w := y.ranks.getD (2 * y.failRank) 0
  setBits (setBits (setBits 0 0 8 st.toNat) 8 40 y.detail) 48 10 (if failing (some st) && y.ranks ≠ [] && !entryLocal w then entryPeer w else 0)

/-- COLL_OPERATION_END (R269): the tiles' words, the status area, and then the ring slot; the engine waits for moving pages (R134). The
detail word is written only for a status other than OK (R201). -/
def execCollOperationEnd (die op : Nat) (s : State) : Host.Outcome State Fault Refusal :=
  .next <|
    match (dieOps s die)[op]? with
    | none => s
    | some x =>
      match collFinish s x with
      | none => s
      | some (x, st) =>
        if x.cutAccepted.isSome && x.cutK.isNone then s       -- the coordinator first ends it everywhere (R268)
        else
          let y := x.closed st
          match putStatuses s y with
          | none => s
          | some s1 =>
          let k := if st = 0x0C then y.cutK.getD 0 else 0
          let w0 : W64 := setBits (setBits (setBits 0 0 8 st.toNat) 8 10 (if failing (some st) then y.failRank else 0)) 18 6 k
          let sa := coStaddr y.record
          if engineCheck s y.wins (engineSecure s y) true sa 16 = .wait then s
          else
          let s := match engineCheck s1 y.wins (engineSecure s1 y) true sa 16 with
            | .ok => engineWrite s1 y.wins (engineSecure s1 y) sa (s1.coreTag y.core) (bytesOf 8 w0.toNat ++ if st = 0 then [] else bytesOf 8 (y.detailWord st).toNat)
            | a => engineNote s1 y.wins true a (s1.coreTag y.core)
          let finish (s : State) : State :=
            sweepRings { s with collOps := s.collOps.filter fun z => !sameOp z y
                                collDone := (s.collDone.filter fun z => !sameOp z.op y) ++ [⟨y, st⟩] } ((collRingCore s y).getD y.core)
          if !coRingen y.record || st = 0x0A then finish s
          else
            match collRingCore s y with
            | none => s.putColl y
            | some core =>
              let r := s.ring core (coRing y.record)
              if !ringHeld s core (coRing y.record) y.team then finish s
              else if ringFull r then s.putColl y
              else if engineCheck s y.wins (s.coreSecure core) true (slotAddr r (rgRes r)) 32 = .wait then s.putColl y
              else
                let i := rgRes r
                let s := s.setRing core (coRing y.record) (setBits r 192 32 ((i + 1) % 2 ^ 32))
                finish (slotSync (fillSlot s core (coRing y.record) (BitVec.ofNat 32 i) y.wins y.ctx
                  (slotWord y.opid.toNat st.toNat (collSectors y) y.recAddr)) (.coll y.ctx y.recAddr) core (coRing y.record) i)

/-- The parties that lose a stream over a die-to-die link end (R268). -/
def collLinkLost (s : State) (a b : Nat) : State :=
  { s with
    collOps := s.collOps.map fun x =>
      if x.finish.isSome || x.ranks = [] then x
      else
        let lost := (List.range (coP x.record)).find? fun r =>
          let w := x.ranks.getD (2 * r) 0
          entryLocal w && r ≠ x.rank && ((x.die = a && entryDie w = b) || (x.die = b && entryDie w = a)) && losesWith s x r
        match lost with
        | some r => { x with finish := some 8, failRank := r }
        | none => x
    collMsgs := s.collMsgs.filter fun m =>
      match opOf s m with
      | some op =>
        let w := op.ranks.getD (2 * m.sender) 0
        !(entryLocal w && ((op.die = a && entryDie w = b) || (op.die = b && entryDie w = a)))
      | none => true }

/-! ## PCNT (R265, R269, R419) -/

/-- A word of a record read for access `id` as an acquire at scope 3 (R419). -/
def acquireWord (c : Ctx) (id va : Nat) (r : TexRun) : W64 × TexRun :=
  if r.stop.isSome then (0, r)
  else
    match laneRead c id va 8 r.s (some (ctxScope r.s c 3)) with
    | (.ok bs, _, s) => (BitVec.ofNat 64 (natOf bs), { r with s := s })
    | (a, p, s) => (0, { r with s := s, stop := some a, addr := va, place := p.getD (0, none) })

/-- Statuses that the first PCNT of the issuing team reports (R269). -/
def reports (st : Byte) : Bool := st = 8 || st = 9 || st = 5

/-- A failed operation that the issuing team has not been told of. -/
def unreported (s : State) (c : Ctx) (va : Nat) : Option W32 :=
  let find (op : CollOp) (st : Byte) : Option W32 :=
    if op.ctx = c.team.ctx && op.recAddr = va && op.team = c.u.team && reports st && (va, op.opid) ∉ c.team.collSeen then some op.opid else none
  match heldOp s c.team.ctx va with
  | some op => match op.finish with | some st => find op st | none => none
  | none => (s.collDone.find? fun d => d.op.ctx = c.team.ctx && d.op.recAddr = va).bind fun d => find d.op d.status

/-- The requirements of PCNT (R282, R283). -/
def encPcnt (f : RForm) : Enc :=
  { ok := eOk f && f.mod = 0, uses := [Use.dst f.d 1 .reg, useU f.a f.fea, useU f.b f.feb], mask := f.mask }

/-- What a PCNT meets. -/
inductive PcntAns where
  | word (w : W64)
  | tile                                      -- no such tile: cause 0x07
  | failed (opid : W32)                       -- a failure to be reported: cause 0x12
  | refused (cause : Byte) (info : W64) (addr : Nat)
  | wait (h : HeldLane)
  deriving DecidableEq, Repr, Inhabited

/-- A PCNT of tile t of the operation whose record is at `va`, for access `id` (R419): the word is read at the engine that holds the
operation, and else from the work area that the record names. -/
def pcntRun (c : Ctx) (id va t : Nat) (s : State) : PcntAns × State :=
  let ans (r : TexRun) (go : Unit → PcntAns × State) : PcntAns × State :=
    match r.stop with
    | none => go ()
    | some (.fault k i) => (.refused k i r.addr, r.s)
    | some _ => (.wait ⟨0, r.addr, r.place.1, r.place.2⟩, r.s)
  -- the failure is reported once, before D is written
  let report (s : State) (go : Unit → PcntAns × State) : PcntAns × State :=
    match unreported s c va with
    | none => go ()
    | some opid => (.failed opid, s)
  match heldOp s c.team.ctx va with
  | some op => if op.nt ≤ t then (.tile, s) else report s fun _ => (.word (op.word t), s)
  | none =>
    let (w0, r) := acquireWord c id va { s := s, stop := none, addr := 0 }
    let (w4, r) := acquireWord c id ((va + 32) % 2 ^ 64) r
    let (w6, r) := acquireWord c id ((va + 48) % 2 ^ 64) r
    ans r fun _ =>
      let rec' : BitVec 512 := BitVec.ofNat 512 (w0.toNat + w4.toNat * 2 ^ 256 + w6.toNat * 2 ^ 384)
      if coNt rec' ≤ t then (.tile, r.s)
      else
        report r.s fun _ =>
          let (w, r) := acquireWord c id ((coWork rec' + 256 + 64 * t) % 2 ^ 64) { s := r.s, stop := none, addr := 0 }
          ans r fun _ => (.word w, r.s)

/-- The TINFO of a failure that a PCNT reports, which the team is told of once; the spec states no NKIND and NPEER here (log 36). -/
def tellFailure (s : State) (team va : Nat) (opid : W32) : W64 × State :=
  let (x, s) := s.draw 13
  (BitVec.ofNat 64 (2 ^ 16 + x.toNat * 2 ^ 42), s.modTeam team fun t => { t with collSeen := t.collSeen ++ [(va, opid)] })

/-- A word that a PCNT returns: an acquire of the planes that it counts (R171). -/
def pcntAcquire (s : State) (u : UnitRef) (ctx va : Nat) (w : W64) : State :=
  if bits w 0 6 = 0 then s else s.pass (.coll ctx va) (.unit u)

/-- PCNT (R171, R419). -/
def execPcnt (f : RForm) (s : State) : Host.Outcome State Fault Refusal :=
  issue (.pcnt f) (encPcnt f) s fun c s =>
    let va := (sval s c f.a).toNat
    let t := (sval s c f.b).toNat
    if acquiring s c.u then parkAt c .retry s
    else
      match pcntRun c s.nextId va t s with
      | (.word w, s) =>
        let s := pcntAcquire (acquireL1 s c.core) c.u c.team.ctx va w
        let (id, s) := s.fresh
        let s : State := { s with inflight := s.inflight ++ [
          { id := id, u := c.u, core := c.core, kind := .unit, dst := some f.d.toNat, regs := 1, scope := 3, hint := 0
            pol := c.launch.nfpol, rep := repFor c id (some f.d.toNat) 1, uni := true
            lanes := [⟨0, 0, 0, 0, [], [], .done (words32 2 w.toNat)⟩] }] }
        advance c 1 (s.modUnit c.u fun u => u.mark f.d.toNat 1 true)
      | (.tile, s) => raiseHere c 0x07 0 0 s
      | (.failed opid, s) => let (i, s) := tellFailure s c.u.team va opid; raiseHere c 0x12 i 0 s
      | (.refused k i a, s) => raiseUniform c k i a 1 s (some (f.d.toNat, 1))
      | (.wait h, s) => queueRequest c f.d.toNat [sval s c f.a, sval s c f.b] 8 h s

end Sys2Proof.Machine
end

