-- ==== Sys2Proof/Machine/Coordinate.lean ====
section
/-! DEFINITION. The coordinate engine (R218 to R229, R412). -/

namespace Sys2Proof.Machine

/-- ABSENT (R222). -/
def absent : Nat := 0xFFFFFFFF

/-- The team's binding at the engine of its caller's core. -/
def teamBinding (s : State) (t : Team) : Option Binding := tfind (s.core t.home).bindings (t.placeOn t.home)

def setTeamBinding (s : State) (t : Team) (b : Option Binding) : State :=
  let p := t.placeOn t.home
  s.modCore t.home fun k => { k with bindings := match b with | some b => tput k.bindings p b | none => tdel k.bindings p }

/-- The binding of the executing unit's team. -/
def bindingOf (s : State) (c : Ctx) : Option Binding := teamBinding s c.team

def setBinding (s : State) (c : Ctx) (b : Option Binding) : State := setTeamBinding s c.team b

/-- A CFORM of the team that has not written back. -/
def batchOpen (s : State) (team : Nat) : Bool :=
  s.inflight.any fun a => a.u.team = team && (match a.kind with | .batch _ _ _ | .form _ _ _ => true | _ => false)

/-- The first CFORM that the engine of a core has still to finish: the operations of all teams queue behind it (R219, R221). -/
def formAhead (s : State) (core : Nat) : Option Access :=
  s.inflight.find? fun a => a.core = core && (match a.kind with | .form _ _ _ => true | _ => false)

/-- What COPEN, CSAVE and CREST wait for: earlier CFORMs of the team, the engine's queue, and the unit's earlier acquires and
writes, which the engine sees (R161, R170, R219, R228). -/
def coordWait (s : State) (c : Ctx) : Bool :=
  batchOpen s c.u.team || (formAhead s c.team.home).isSome || acquiring s c.u || !storesDone s c.u

/-- The acquire at scope 0 of COPEN and CREST (R170): the engine reads through the L1 of the caller's core, so the issuer's dirty
bytes are written back where it runs on another. -/
def coordAcquire (s : State) (c : Ctx) : State :=
  let s := acquirePart s c 0
  if c.core = c.team.home then s else acquireL1 (writebackAll s c.core) c.team.home

/-! ## Records and cursors (R218, R226) -/

/-- A stream of a binding record at its start. -/
def streamOf (base enc units : Nat) : CStream :=
  { base := base, enc := enc, units := units, unit := 0, sub := 0, val := false, fin := false, pos := 0, last := 0, head := none
    raw := none }

/-- The streams and the operation of a binding record (R218, R219); none for cause 0x0C. -/
def bindingRecord (r : BitVec 512) : Option (CStream × CStream × Nat) :=
  let a := streamOf (bits r 0 57) (bits r 57 2) (bits r 64 24)
  let b := streamOf (bits r 128 57) (bits r 185 2) (bits r 192 24)
  let mis (x : CStream) : Bool := x.base % (if x.enc = 0 then 4 else 8) ≠ 0
  if bits r 59 5 ≠ 0 || bits r 88 40 ≠ 0 || bits r 187 5 ≠ 0 || bits r 216 40 ≠ 0 || bits r 258 254 ≠ 0 || bits r 256 2 = 3 ||
      mis a || mis b then none
  else some (a, b, bits r 256 2)

/-- A stream's fields of the cursor, from relative bit 0 (R226). -/
def streamBits (x : CStream) : Nat :=
  x.unit % 2 ^ 24 + x.sub % 2 ^ 9 * 2 ^ 24 + (if x.val then 2 ^ 33 else 0) + (if x.fin then 2 ^ 34 else 0) + x.pos % 2 ^ 24 * 2 ^ 40 +
    x.last % 2 ^ 32 * 2 ^ 64

/-- The cursor of a binding (R226). -/
def cursorOf (b : Binding) : Nat :=
  1 + (if b.fault then 2 else 0) + (if b.fside then 4 else 0) + (if b.byCaller then 8 else 0) + b.op % 4 * 16 +
    b.brec / 64 % 2 ^ 51 * 2 ^ 6 + b.opGrp % 128 * 2 ^ 57 + streamBits b.sa * 2 ^ 64 + (if b.emit then 2 ^ 99 else 0) +
    (if b.fault then b.fcause % 16 * 2 ^ 100 else 0) + streamBits b.sb * 2 ^ 160

/-- A stream of a record at the place that a cursor gives it. -/
def streamAt (x : CStream) (v : BitVec 96) : CStream :=
  { x with unit := bits v 0 24, sub := bits v 24 9, val := v.getLsbD 33, fin := v.getLsbD 34, pos := bits v 40 24, last := bits v 64 32 }

/-! ## Reading a stream (R220, R221) -/

/-- Size of a unit by encoding. -/
def unitSize (enc : Nat) : Nat := match enc with | 0 => 4 | 1 => 136 | 2 => 72 | _ => 8

/-- A failed check: its cause, its address, TINFO bits, and the element it names. -/
structure CStop where
  cause : Byte
  addr : Nat
  info : W64
  deriving DecidableEq, Repr, Inhabited

/-- What looking for a stream's next index gives. -/
inductive CHead where
  | ended
  | head (i : Nat)
  | stop (e : CStop)
  | wait
  deriving DecidableEq, Repr, Inhabited

/-- An index of a unit, whether the unit has more, or a failed check (R220, R221). -/
inductive CIndex where
  | none
  | idx (i sub : Nat)
  | bad
  deriving DecidableEq, Repr, Inhabited

def le (bs : Bytes) (o n : Nat) : Nat := natOf ((bs.drop o).take n)

/-- The lowest set bit of a bitmap at or above `k`. -/
def nextBit (m : Nat) (k : Nat) : Option Nat := (List.range 512).find? fun b => decide (k ≤ b) && m.testBit b

/-- The next index of a unit at SUB. -/
def indexIn (x : CStream) (raw : Bytes) : CIndex :=
  let chk (i sub : Nat) : CIndex := if 2 ^ 32 ≤ i then .bad else .idx i sub
  match x.enc with
  | 0 => .idx (le raw 0 4) 0
  | 1 =>
    let n := le raw 4 2
    if le raw 6 2 ≠ 0 || le raw 134 2 ≠ 0 || n = 0 || 64 < n then .bad
    else if n ≤ x.sub then .none
    else chk (le raw 0 4 + ((List.range x.sub).map fun j => le raw (8 + 2 * j) 2).foldl (· + ·) 0) x.sub
  | 2 =>
    if le raw 4 4 ≠ 0 || le raw 0 4 % 512 ≠ 0 then .bad
    else match nextBit (le raw 8 64) x.sub with
      | some b => .idx (le raw 0 4 + b) b
      | none => .none
  | _ =>
    let st := le raw 0 4
    let n := le raw 4 4
    if n = 0 then .bad
    else if x.sub = 0 then .idx st 0
    else if st + n - 1 ≤ x.last then .none
    else chk (x.last + 1) 1

/-- The bytes of the stream's unit: those it has read, or a read through the engine's core (R170). -/
def unitBytes (s : State) (core : Nat) (wins : Table W64) (x : CStream) : Except (Option CStop) Bytes × State :=
  let a := x.base + x.unit * unitSize x.enc
  match x.raw with
  | some (u, bs) => if u = x.unit then (.ok bs, s) else readUnit a
  | none => readUnit a
where
  readUnit (a : Nat) : Except (Option CStop) Bytes × State :=
    let sec := s.coreSecure core
    match engineCoreCheck s core wins sec a (unitSize x.enc) with
    | .wait => (.error none, s)
    | .stop k i v => (.error (some ⟨k, v, i⟩), engineNote s wins false (.stop k i v) (s.coreTag core))
    | .ok =>
      let (bad, bs, s) := engineCoreRead s core wins sec a (unitSize x.enc)
      if bad then (.error (some ⟨0x0A, a, 1024⟩), s) else (.ok bs, s)

/-- The head of a stream, found where it holds none (R221); empty units are passed over. A unit that fails when it is read again after
some of its indices have been yielded stops at the next one (log 75). -/
def peek (core : Nat) (wins : Table W64) : Nat → CStream → State → CHead × CStream × State
  | 0, x, s => (.wait, x, s)
  | n + 1, x, s =>
    match x.head with
    | some i => (.head i, x, s)
    | none =>
      if x.units ≤ x.unit then (.ended, { x with fin := true }, s)
      else
        let a := x.base + x.unit * unitSize x.enc
        match unitBytes s core wins x with
        | (.error none, s) => (.wait, x, s)
        | (.error (some e), s) => (.stop e, x, s)
        | (.ok bs, s) =>
          let x := { x with raw := some (x.unit, bs) }
          match indexIn x bs with
          | .bad => (.stop ⟨0x0C, a, 0⟩, x, s)
          | .none => peek core wins n { x with unit := x.unit + 1, sub := 0 } s
          | .idx i sub =>
            -- encoding 3 keeps SUB 0 until its run yields
            let x := { x with sub := if x.enc = 3 then x.sub else sub }
            if x.val && i ≤ x.last then (.stop ⟨0x0B, a, 0⟩, x, s)
            else if 2 ^ 24 ≤ x.pos then (.stop ⟨0x0C, a, 0⟩, x, s)
            else (.head i, { x with head := some i }, s)

/-- Consume (R222, R226). -/
def consume (x : CStream) : CStream :=
  let i := x.head.getD 0
  let raw := match x.raw with | some (_, bs) => bs | none => []
  let x := { x with last := i, val := true, pos := x.pos + 1, head := none }
  let next : CStream := { x with unit := x.unit + 1, sub := 0 }
  let x := match x.enc with
    | 0 => next
    | 1 => if le raw 4 2 ≤ x.sub + 1 then next else { x with sub := x.sub + 1 }
    | 2 => match nextBit (le raw 8 64) (x.sub + 1) with
      | some b => { x with sub := b }
      | none => next
    | _ => if i = le raw 0 4 + le raw 4 4 - 1 then next else { x with sub := 1 }
  { x with fin := x.fin || decide (x.units ≤ x.unit) }

/-! ## The operation (R222 to R224) -/

/-- What looking for the next element gives: which streams it consumes. -/
inductive CFind where
  | ended
  | elem (v pa pb : Nat) (ca cb : Bool)
  | stop (side : Bool) (e : CStop)
  | wait
  deriving DecidableEq, Repr, Inhabited

/-- Both streams of a binding. -/
structure CPair where
  a : CStream
  b : CStream
  deriving DecidableEq, Repr, Inhabited

/-- The fuel of a search: more than the units of a stream, or the elements of both, whose 32-bit indices rise (R220). -/
def coordFuel : Nat := 2 ^ 33 + 2

/-- The next element, its heads held (R222). -/
def findElem (core : Nat) (wins : Table W64) (op : Nat) : Nat → CPair → State → CFind × CPair × State
  | 0, p, s => (.wait, p, s)
  | n + 1, p, s =>
    let overrides (x : CStream) : Bool := x.head.isNone && decide (x.units ≤ x.unit)
    if op = 0 && (overrides p.a || overrides p.b) then
      (.ended, ⟨{ p.a with fin := p.a.fin || overrides p.a }, { p.b with fin := p.b.fin || overrides p.b }⟩, s)
    else
      match peek core wins coordFuel p.a s with
      | (.wait, a, s) => (.wait, { p with a := a }, s)
      | (.stop e, a, s) => (.stop false e, { p with a := a }, s)
      | (ha, a, s) =>
        if op = 0 && ha = .ended then (.ended, { p with a := a }, s)
        else
          match peek core wins coordFuel p.b s with
          | (.wait, b, s) => (.wait, ⟨a, b⟩, s)
          | (.stop e, b, s) => (.stop true e, ⟨a, b⟩, s)
          | (hb, b, s) =>
            match ha, hb with
            | .head i, .head j =>
              if op = 0 then
                if i < j then findElem core wins op n ⟨consume a, b⟩ s
                else if j < i then findElem core wins op n ⟨a, consume b⟩ s
                else (.elem i a.pos b.pos true true, ⟨a, b⟩, s)
              else if i < j then (.elem i a.pos absent true false, ⟨a, b⟩, s)
              else if j < i then (.elem j absent b.pos false true, ⟨a, b⟩, s)
              else if op = 2 then (.elem i a.pos absent true false, ⟨a, b⟩, s)
              else (.elem i a.pos b.pos true true, ⟨a, b⟩, s)
            | .head i, _ => if op = 0 then (.ended, ⟨a, b⟩, s) else (.elem i a.pos absent true false, ⟨a, b⟩, s)
            | _, .head j => (.elem j absent b.pos false true, ⟨a, b⟩, s)
            | _, _ => (.ended, ⟨a, b⟩, s)

/-- How filling a batch ended (R224). -/
inductive CEnd where
  | cont
  | done
  | stop (side : Bool) (e : CStop)
  | wait
  deriving DecidableEq, Repr, Inhabited

/-- Up to `k` elements, and then the next one held (R224). -/
def fillBatch (core : Nat) (wins : Table W64) (op : Nat) : Nat → List (List W32) → CPair → State → List (List W32) × CEnd × CPair × State
  | k, acc, p, s =>
    match findElem core wins op coordFuel p s with
    | (.wait, p, s) => (acc, .wait, p, s)
    | (.stop side e, p, s) => (acc, .stop side e, p, s)
    | (.ended, p, s) => (acc, .done, p, s)
    | (.elem v pa pb ca cb, p, s) =>
      match k with
      | 0 => (acc, .cont, p, s)
      | k + 1 =>
        let p : CPair := ⟨if ca then consume p.a else p.a, if cb then consume p.b else p.b⟩
        fillBatch core wins op k (acc ++ [[BitVec.ofNat 32 v, BitVec.ofNat 32 pa, BitVec.ofNat 32 pb]]) p s

/-! ## COPEN, CSAVE and CREST (R219, R228, R412) -/

/-- A cause of the issuer at these instructions: a lane-level fault of its mask in a group, a caller trap in the caller
(R119, R392). -/
def raiseCoord (c : Ctx) (cause : Byte) (info : W64) (va : Nat) (f : W64) (s : State) : State :=
  raiseUniform { c with em := f } cause info va 1 s

/-- The lanes a cause of COPEN names: EM, or the lowest lane for a vector operand (R412). -/
def coordMask (c : Ctx) (a : BitVec 9) : W64 := if a.toNat < 0x100 then 1#64 <<< c.lanes.headD 0 else c.em

/-- The requirements of COPEN (R282, R283). -/
def encCopen (f : RForm) : Enc :=
  let vec := decide (f.a.toNat < 0x100)
  { ok := eOk f && f.d = 0 && f.b = 0 && !f.feb && f.mod = 0
    uses := [Use.src f.a f.fea (if vec then 2 else 1) (if vec then .vec else .sca)], mask := f.mask }

/-- The COPEN of a group, as its TRET issues it again (R227). -/
def copenRep (c : Ctx) : Replay := { c.rep with acc := none }

/-- The team keeps the latest COPEN of each group. -/
def noteCopen (c : Ctx) (s : State) : State :=
  match c.u.grp with
  | some g => s.modTeam c.u.team fun t => { t with copens := tput t.copens g (copenRep c) }
  | none => s

/-- COPEN (R219). -/
def execCopen (f : RForm) (s : State) : Host.Outcome State Fault Refusal :=
  let vec := decide (f.a.toNat < 0x100)
  issue (.copen f) (encCopen f) s fun c s =>
    let va := if vec then pairOf c.us f.a.toNat (c.lanes.headD 0) else (sval s c f.a).toNat
    let m := coordMask c f.a
    if coordWait s c then parkAt c .retry s
    else
      match readAtIssue c va 64 s with
      | (.wait, s) => parkAt c .retry s
      | (.fault k i, s) => raiseCoord c k i va m s
      | (.ok bs, s) =>
        match bindingRecord (BitVec.ofNat 512 (natOf bs)) with
        | none => raiseCoord c 0x0C 0 0 m s
        | some (a, b, op) =>
          let x : Binding :=
            { fault := false, fside := false, byCaller := c.caller, op := op, brec := va, opGrp := c.u.grp.getD 0, emit := false
              fcause := 0, sa := a, sb := b, stopAddr := 0, stopInfo := 0, copen := copenRep c }
          advance c 1 (noteCopen c (setBinding (coordAcquire s c) c (some x)))

/-- The requirements of CSAVE (R282, R283). -/
def encCsave (f : RForm) : Enc :=
  { ok := eOk f && f.d = 0 && f.b = 0 && !f.feb && f.mod = 0, uses := [useU f.a f.fea], mask := f.mask }

/-- CSAVE (R228). -/
def execCsave (f : RForm) (s : State) : Host.Outcome State Fault Refusal :=
  issue (.csave f) (encCsave f) s fun c s =>
    let va := (sval s c f.a).toNat
    if coordWait s c then parkAt c .retry s
    else
      match translate c.team.wins c.secure .write va 32 with
      | .error k => raiseAddr c k va s
      | .ok ia =>
        if (homeSlice ia).isNone then raiseAddr c 0x06 va s
        else if overlaps s c.u true [(ia, 32)] then parkAt c .retry s
        else
          match scalarHome c true ia va 32 s with
          | .parked s => s
          | .fault k st s => raiseCoord c k (BitVec.ofNat 64 (st * 1024)) va c.em s
          | .ok s =>
            let v := match bindingOf s c with | some b => cursorOf b | none => 0
            advance c 1 (coreWrite s c.core ia 0 (bytesOf 32 v))

/-- SUB and UNIT within their encoding and record (R228); the engine reads the run of encoding 3, as it reads any unit (R221). -/
def cursorStream (s : State) (c : Ctx) (x : CStream) : Except (Option CStop) Bool × State :=
  if x.units < x.unit then (.ok false, s)
  else
    match x.enc with
    | 0 => (.ok (x.sub = 0), s)
    | 1 => (.ok (x.sub ≤ 63), s)
    | 2 => (.ok true, s)
    | _ =>
      if x.sub = 0 then (.ok true, s)
      else if 1 < x.sub || !x.val || x.units ≤ x.unit then (.ok false, s)
      else
        match unitBytes s c.team.home c.team.wins x with
        | (.error e, s) => (.error e, s)
        | (.ok bs, s) => (.ok (decide (le bs 0 4 ≤ x.last) && decide (x.last < le bs 0 4 + le bs 4 4)), s)

/-- FCAUSE codes and their causes (R226). -/
def fcauseOf (k : Byte) : Nat :=
  match k.toNat with
  | 0x0B => 1 | 0x0C => 2 | 0x06 => 3 | 0x07 => 4 | 0x08 => 5 | 0x0A => 6 | _ => 0
def causeOf (n : Nat) : Byte :=
  match n with
  | 1 => 0x0B | 2 => 0x0C | 3 => 0x06 | 4 => 0x07 | 5 => 0x08 | _ => 0x0A

/-- A binding that a check has stopped (R227). -/
def Binding.stopped (b : Binding) (side : Bool) (x : CStop) : Binding :=
  { b with fault := true, fside := side, fcause := fcauseOf x.cause, stopAddr := x.addr, stopInfo := x.info }

/-- Whether the caller takes the binding's stop: it opened it, or its group has exited (R227). -/
def byCallerNow (t : Team) (b : Binding) : Bool :=
  b.byCaller || (match t.groups[b.opGrp]? with | some g => g.exited | none => true)

/-- A stop of a group's binding is raised in that group, with F its lowest live lane (R227). -/
def raiseStop (s : State) (team : Nat) (b : Binding) (x : CStop) : State :=
  match s.unit? ⟨team, some b.opGrp⟩ with
  | some gu =>
    let low := 1#64 <<< (lowLane gu.live)
    addPending s ⟨team, some b.opGrp⟩
      { cause := x.cause, level := 0, f := low, addr := BitVec.ofNat 64 x.addr, info := x.info, rep := { b.copen with em := low }, ofBinding := true }
  | none => s

/-- The heads of a binding that CREST restores are read afresh (R228), of B only where the operation can need it: the binding as it then
is, and the check that stops it; none while a unit's page moves. -/
def freshHeads (s : State) (c : Ctx) (x : Binding) : Option (Binding × Option CStop) × State :=
  match peek c.team.home c.team.wins coordFuel x.sa s with
  | (.wait, _, s) => (none, s)
  | (.stop e, a, s) => (some ({ x with sa := a }.stopped false e, some e), s)
  | (ha, a, s) =>
    if x.op = 0 && ha = .ended then (some ({ x with sa := a }, none), s)
    else
      match peek c.team.home c.team.wins coordFuel x.sb s with
      | (.wait, _, s) => (none, s)
      | (.stop e, b, s) => (some ({ x with sa := a, sb := b }.stopped true e, some e), s)
      | (_, b, s) => (some ({ x with sa := a, sb := b }, none), s)

/-- The requirements of CREST (R282, R283). -/
def encCrest (f : RForm) : Enc :=
  { ok := eOk f && f.d = 0 && f.b = 0 && !f.feb && f.mod = 0, uses := [useU f.a f.fea], mask := f.mask }

/-- The acquire of CREST's read (R161, R228): marks of the cursor's line are promoted, and L1 is made to read it anew. -/
def crestAcquire (c : Ctx) (va : Nat) (s : State) : State :=
  match translate c.team.wins c.secure .read va 32 with
  | .ok ia => coordAcquire (promoteFor s (lineOf ia) (ctxScope s c 0) (some c.core)) c
  | .error _ => s

/-- CREST (R228). -/
def execCrest (f : RForm) (s : State) : Host.Outcome State Fault Refusal :=
  issue (.crest f) (encCrest f) s fun c s0 =>
    let va := (sval s0 c f.a).toNat
    if coordWait s0 c then parkAt c .retry s0
    else
      match readAtIssue c va 32 (crestAcquire c va s0) with
      | (.wait, s) => parkAt c .retry s
      | (.fault k i, s) => raiseCoord c k i va c.em s
      | (.ok bs, s) =>
        let v : BitVec 256 := BitVec.ofNat 256 (natOf bs)
        if !v.getLsbD 0 then advance c 1 (setBinding s c none)
        else if bits v 4 2 = 3 || 6 < bits v 100 4 || bits v 195 5 ≠ 0 then raiseCoord c 0x0C 0 0 c.em s
        else
          let brec := bits v 6 51 * 64
          match readAtIssue c brec 64 s with
          | (.wait, s) => parkAt c .retry s
          | (.fault k i, s) => raiseCoord c k i brec c.em s
          | (.ok rs, s) =>
            match bindingRecord (BitVec.ofNat 512 (natOf rs)) with
            | none => raiseCoord c 0x0C 0 0 c.em s
            | some (a, b, _) =>
              let a := streamAt a (v.extractLsb' 64 96)
              let b := streamAt b (v.extractLsb' 160 96)
              match cursorStream s c a with
              | (.error none, s) => parkAt c .retry s
              | (.error (some e), s) => raiseCoord c e.cause e.info e.addr c.em s
              | (.ok okA, s) =>
                match cursorStream s c b with
                | (.error none, s) => parkAt c .retry s
                | (.error (some e), s) => raiseCoord c e.cause e.info e.addr c.em s
                | (.ok okB, s) =>
                  if !okA || !okB then raiseCoord c 0x0C 0 0 c.em s
                  else
                    let x : Binding :=
                      { fault := false, fside := false, byCaller := v.getLsbD 3, op := bits v 4 2, brec := brec, opGrp := bits v 57 7
                        emit := v.getLsbD 99, fcause := 0, sa := a, sb := b, stopAddr := 0, stopInfo := 0
                        -- a group that has issued no COPEN has none to issue again (log 75)
                        copen := tget { copenRep c with instr := none } c.team.copens (bits v 57 7) }
                    match freshHeads s c x with
                    | (none, s) => parkAt c .retry s
                    | (some (y, none), s) => advance c 1 (setBinding s c (some y))
                    | (some (y, some e), s) =>
                      let s := setBinding s c (some y)
                      advance c 1 (if byCallerNow c.team y then s else raiseStop s c.u.team y e)

/-! ## CFORM (R223 to R225, R227) -/

/-- The status word (R223). -/
def cformStatus (n : Nat) (cont first stop done : Bool) : W64 :=
  BitVec.ofNat 64 (n + (if cont then 128 else 0) + (if first then 256 else 0) + (if stop then 512 else 0) + (if done then 1024 else 0))

/-- An access of a CFORM at the engine: its batch, or its place in the engine's queue. -/
def formAccess (c : Ctx) (id : Nat) (d : BitVec 9) (g : Nat) (kind : AccKind) (lanes : List LaneAcc) : Access :=
  { id := id, u := c.u, core := c.core, kind := kind, dst := some d.toNat, regs := 1, scope := 0, hint := 0, pol := c.launch.nfpol
    rep := { repFor c id (some d.toNat) 1 with steps := [(0, g)] }, lanes := lanes, uni := false }

/-- The lanes of a batch. -/
def batchLanes (els : List (List W32)) : List LaneAcc :=
  (List.range els.length).map fun l => ⟨l, 0, 0, 0, [], [], .done (els.getD l [])⟩

/-- The registers of a group that a CFORM writes, marked empty or full (R225). -/
def markForm (r : UnitRef) (empty : Bool) (s : State) : State :=
  s.modUnit r fun u => ((u.mark 0 3 empty).mark 0x101 1 empty).mark 0x102 1 empty

/-- The CFORM issues: the registers of the group and of the caller are empty until its batch is written back (R225). -/
def sendForm (c : Ctx) (d : BitVec 9) (g : Nat) (kind : AccKind) (lanes : List LaneAcc) (s : State) : State :=
  let (id, s) := s.fresh
  let s := { s with inflight := s.inflight ++ [formAccess c id d g kind lanes] }
  let s := markForm ⟨c.u.team, some g⟩ true s
  advance c 1 (s.modUnit c.u fun u => u.mark d.toNat 1 true)

/-- A batch, or a CFORM whose batch waits (R221, R223). -/
def sendBatch (c : Ctx) (d : BitVec 9) (g : Nat) (els : List (List W32)) (status : W64) (s : State) : State :=
  sendForm c d g (.batch g (lowMask els.length) status) (batchLanes els) s

/-- What the engine does with a CFORM: it has the batch, it waits with the elements so far, or the binding has stopped with no
element to write, which is a caller trap (R221, R227). -/
inductive FormAns where
  | batch (els : List (List W32)) (status : W64) (s : State)
  | wait (els : List (List W32)) (s : State)
  | stop (cause : Byte) (info : W64) (addr : Nat) (s : State)

/-- The engine serves a CFORM of a team, which has the elements `els` already and writes at most `k` (R222 to R224, R227). -/
def formStep (s : State) (team : Nat) (t : Team) (b : Binding) (k : Nat) (els : List (List W32)) : FormAns :=
  let own := byCallerNow t b
  if b.fault then
    if own && els = [] then .stop (causeOf b.fcause) b.stopInfo b.stopAddr s
    else .batch els (cformStatus els.length false (!b.emit && els ≠ []) true false) s
  else
    let (els, e, p, s) := fillBatch t.home t.wins b.op (k - els.length) els ⟨b.sa, b.sb⟩ s
    let first := !b.emit && els ≠ []
    let b1 := { b with sa := p.a, sb := p.b, emit := b.emit || els ≠ [] }
    match e with
    | .wait => .wait els (setTeamBinding s t (some { b with sa := p.a, sb := p.b }))
    | .cont => .batch els (cformStatus els.length true first false false) (setTeamBinding s t (some b1))
    | .done => .batch els (cformStatus els.length false first false true) (setTeamBinding s t (some b1))
    | .stop side x =>
      let b1 := b1.stopped side x
      let s := setTeamBinding s t (some b1)
      if own && els = [] then .stop x.cause x.info x.addr s
      else .batch els (cformStatus els.length false first true false) (if own then s else raiseStop s team b1 x)

/-- The requirements of CFORM (R282, R283). -/
def encCform (f : RForm) : Enc :=
  { ok := eOk f && f.mod = 0, grp := false, uses := [Use.dst f.d 1 .reg, useU f.a f.fea, useU f.b f.feb], mask := f.mask }

/-- CFORM (R223 to R227). -/
def execCform (f : RForm) (s : State) : Host.Outcome State Fault Refusal :=
  let e := encCform f
  issue (.cform f) e s fun c s =>
    -- one that is issued again after a stop that came late leaves the registers of its first issue
    let s := if c.again then markForm ⟨c.u.team, some (tget 0 c.rep.steps 0)⟩ false s else s
    let g := (sval s c f.a).toNat
    let lim := (sval s c f.b).toNat
    match bindingOf s c, s.unit? ⟨c.u.team, some g⟩ with
    | some b, some gu =>
      if gu.exited then raiseHere c 0x07 0 0 s
      else if gu.isEmpty 0 3 || gu.isEmpty 0x101 1 || gu.isEmpty 0x102 1 then parkAt c .retry s
      else
        let k := if lim = 0 || c.launch.width < lim then c.launch.width else lim
        if (formAhead s c.team.home).isSome then sendForm c f.d g (.form g k []) [⟨0, 0, 0, 0, [], [], .waiting⟩] s
        else
          match formStep s c.u.team c.team b k [] with
          | .batch els st s => sendBatch c f.d g els st s
          | .wait els s => sendForm c f.d g (.form g k els) [⟨0, 0, 0, 0, [], [], .waiting⟩] s
          | .stop x i v s => raiseHere c x i (BitVec.ofNat 64 v) s
    | _, _ => raiseHere c 0x07 0 0 s

/-! ## An access at its home (R134, R221) -/

/-- The first CFORM in the queue of its engine goes on. A stop that leaves it no element is its caller's trap, and the CFORM has not
acted: it is issued again at TRET (R121, R227; log 75). -/
def formAccessStep (s : State) (a : Access) (g k : Nat) (els : List (List W32)) : State :=
  match s.team? a.u.team with
  | none => s
  | some t =>
    if (formAhead s a.core).map (·.id) ≠ some a.id then s
    else
      match teamBinding s t with
      | none => s
      | some b =>
        match formStep s a.u.team t b k els with
        | .batch els st s =>
          s.modAccess a.id fun a => { a with kind := .batch g (lowMask els.length) st, lanes := batchLanes els }
        | .wait els s => s.modAccess a.id fun a => { a with kind := .form g k els }
        | .stop x i v s =>
          addPending { s with inflight := s.inflight.filter fun q => q.id ≠ a.id } a.u
            { cause := x, level := 3, f := a.rep.em, addr := BitVec.ofNat 64 v, info := i, rep := a.rep }

/-- An access reaches its home (R134). -/
def accessHome (s : State) (a : Access) (lane : Nat) : State :=
  match a.kind with
  | .form g k els => formAccessStep s a g k els
  | _ => unitAccess s a lane

end Sys2Proof.Machine
end

