-- ==== Sys2Proof/Machine/CrossLane.lean ====
section
/-! DEFINITION. Cross-lane instructions (R190, R360 to R364). -/

namespace Sys2Proof.Machine

/-- MODE or OP in MOD 6:4. -/
def modeField (f : RForm) : Nat := bits f.mod 4 3

/-- Source lane of a SHFL (R361); none where the lane keeps its own value. -/
def shflSource (mode w seg lane b : Nat) : Option Nat :=
  let n := if seg = 0 then w else 2 ^ seg
  let q := lane - lane % n
  match mode with
  | 0 => some (q + b % n)
  | 1 => if lane < q + b then none else some (lane - b)
  | 2 => if q + n ≤ lane + b then none else some (lane + b)
  | _ => some (q + (lane % n ^^^ b % n))

/-- The requirements of SHFL (R282, R283). -/
def encShfl (f : RForm) : Enc :=
  let seg := bits f.c 0 3
  { ok := mType f.mod ∈ wordInt && decide (modeField f < 4) && decide (seg < 7) && f.c.toNat < 8 && !f.fec && modLit f
    cal := false, uses := [dstTy f, Use.src f.a f.fea (rType f).regs] ++ useB f, mask := f.mask
    len := lenOf f.lit, minW := if seg = 0 then 1 else 2 ^ seg }

/-- SHFL (R361). -/
def execShfl (f : RForm) (s : State) : Host.Outcome State Fault Refusal :=
  let seg := bits f.c 0 3
  let e := encShfl f
  issue (.shfl f) e s fun c s =>
    let t := rType f
    advance c e.len (writeVs c f.d (fun l =>
      let src := match shflSource (modeField f) c.w seg l (opndLit s c f.b f.lit n32 l) with
        | some k => if c.em.getLsbD k then k else l
        | none => l
      resultWords t (opnd s c f.a t src)) s)

/-- The requirements of VOTE (R282, R283). -/
def encVote (f : RForm) : Enc :=
  { ok := mType f.mod ∈ wordInt && decide (modeField f < 4) && noB f && noC f && !f.mod.getLsbD 7, cal := false
    uses := [Use.dst f.d 1 .reg, Use.src f.a f.fea (rType f).regs], mask := f.mask }

/-- VOTE (R362): only lanes of EM are tested. -/
def execVote (f : RForm) (s : State) : Host.Outcome State Fault Refusal :=
  issue (.vote f) (encVote f) s fun c s =>
    let t := rType f
    let v (l : Nat) : Nat := opnd s c f.a t l
    let r : W64 := match modeField f with
      | 0 => if c.lanes.all (fun l => v l ≠ 0) then 1 else 0
      | 1 => if c.lanes.any (fun l => v l ≠ 0) then 1 else 0
      | 2 => if c.lanes.all (fun l => v l = v (c.lanes.headD 0)) then 1 else 0
      | _ => maskOf (c.lanes.filter fun l => v l ≠ 0)
    advance c 1 (writeS c f.d r s)

/-! ## RDX and SCAN (R190, R363) -/

/-- A combination: its code, and whether it met policy 2's test as a non-finite result (R344, R363). -/
def rdxCombine (pol : Nat) (t : OpTy) (op : Nat) (a b : Nat × Bool) : Nat × Bool :=
  let bad := a.2 || b.2
  match t.fmt with
  | some f =>
    match op with
    | 0 =>
      let r := roundTo f ((valueOf f a.1).add .rne (valueOf f b.1)) .rne
      (policy pol f r, bad || traps pol f r)
    | _ =>
      let r := minMaxCode (decide (op = 2)) f a.1 b.1
      (if r.2 then policy pol f r.1 else r.1, bad || (r.2 && pol = 2))
  | none =>
    let r := match op with
      | 0 => (a.1 + b.1) % 2 ^ t.w
      | 1 => if t.int a.1 ≤ t.int b.1 then a.1 else b.1
      | 2 => if t.int a.1 ≤ t.int b.1 then b.1 else a.1
      | 3 => a.1 &&& b.1
      | 4 => a.1 ||| b.1
      | _ => a.1 ^^^ b.1
    (r, bad)

/-- The identity of an operation (R363). -/
def rdxIdentity (t : OpTy) (op : Nat) : Nat :=
  match op with
  | 1 => if t.fmt.isSome then infCode .f32 false else (t.maxInt % 2 ^ t.w).toNat
  | 2 => if t.fmt.isSome then infCode .f32 true else (t.minInt % 2 ^ t.w).toNat
  | 3 => 2 ^ t.w - 1
  | _ => 0

/-- The requirements of R363. -/
def encRdx (f : RForm) (d : Use) (exc : Bool) : Enc :=
  { ok := mType f.mod ∈ [0, 1, 2, 3, 8] && decide (modeField f < 6) && (mType f.mod ≠ 8 || decide (modeField f < 3)) &&
          noB f && !f.mod.getLsbD 7 && !f.fec && (if exc then decide (f.c.toNat < 2) else f.c = 0)
    cal := false, uses := [d, Use.src f.a f.fea (rType f).regs], mask := f.mask }

/-- Position l holds a[l] when l is in EM, and is absent otherwise (R363). -/
def rdxPositions (s : State) (c : Ctx) (f : RForm) : List (Option (Nat × Bool)) :=
  (List.range c.w).map fun l => if c.em.getLsbD l then some (opnd s c f.a (rType f) l, false) else none

/-- The requirements of RDX and SCAN (R282, R283, R363). -/
def encRdxOp (f : RForm) : Enc := encRdx f (if 0x100 ≤ f.d.toNat then Use.dst f.d 1 .reg else dstTy f) false
def encScan (f : RForm) : Enc := encRdx f (dstTy f) true

/-- RDX (R363): the tree of R190, into every lane of EM or a scalar register. -/
def execRdx (f : RForm) (s : State) : Host.Outcome State Fault Refusal :=
  let scalar := decide (0x100 ≤ f.d.toNat)
  issue (.rdx f) (encRdxOp f) s fun c s =>
    let t := rType f
    let r := (treeReduce (rdxCombine c.launch.nfpol t (modeField f)) (clog2 c.w) (rdxPositions s c f)).getD (rdxIdentity t (modeField f), false)
    if r.2 then raiseHere c 0x10 0 0 s
    else if scalar then advance c 1 (writeS c f.d (if t.fmt.isSome then BitVec.ofNat 64 r.1 else t.extend r.1) s)
    else advance c 1 (writeVs c f.d (fun _ => resultWords t r.1) s)

/-- One step of SCAN (R363): position l takes v[l - k] ⊕ v[l]. -/
def scanStep {α : Type} (f : α → α → α) (k : Nat) (v : List (Option α)) : List (Option α) :=
  (List.range v.length).map fun l =>
    if l < k then v.getD l none
    else
      match v.getD (l - k) none, v.getD l none with
      | some x, some y => some (f x y)
      | some x, none => some x
      | none, y => y

/-- SCAN (R363): inclusive, or exclusive with C bit 37. -/
def execScan (f : RForm) (s : State) : Host.Outcome State Fault Refusal :=
  issue (.scan f) (encScan f) s fun c s =>
    let t := rType f
    let v := (List.range (clog2 c.w)).foldl
      (fun v j => scanStep (rdxCombine c.launch.nfpol t (modeField f)) (2 ^ j) v) (rdxPositions s c f)
    let idn := rdxIdentity t (modeField f)
    let out (l : Nat) : Nat :=
      if f.c = 0 then ((v.getD l none).getD (idn, false)).1
      else if l = 0 then idn else ((v.getD (l - 1) none).getD (idn, false)).1
    if v.any (fun x => (x.getD (0, false)).2) then raiseHere c 0x10 0 0 s
    else advance c 1 (writeVs c f.d (fun l => resultWords t (out l)) s)

/-- The requirements of BCAST (R282, R283). -/
def encBcast (f : RForm) : Enc :=
  { ok := mType f.mod ∈ wordInt && rmZero f && satZero f && noC f && !f.mod.getLsbD 7 && f.lit.isNone &&
          f.b ≠ 0x182
    cal := false, uses := [dstTy f, Use.src f.a f.fea (rType f).regs, Use.src f.b f.feb 1 .sca], mask := f.mask }

/-- BCAST (R364): the value of A in lane b mod W, whether or not that lane is in EM; a dead lane supplies a free value
(R7; log 2). -/
def execBcast (f : RForm) (s : State) : Host.Outcome State Fault Refusal :=
  issue (.bcast f) (encBcast f) s fun c s =>
    let t := rType f
    let src := (sval s c f.b).toNat % 2 ^ 32 % c.w
    let dead := decide (c.launch.tx * c.launch.ty * c.launch.tz ≤ c.u.grp.getD 0 * c.w + src)      -- R104
    let alive := !dead || (decide (0x100 ≤ f.a.toNat) && f.a ≠ 0x182)
    let (free, s1) := s.draw 64
    let v := if alive then opnd s c f.a t src else free.toNat % 2 ^ t.w
    advance c 1 (writeVs c f.d (fun _ => words32 t.regs v) (if alive then s else s1))

end Sys2Proof.Machine
end

