-- ==== Sys2Proof/Machine/Ray.lean ====
section
/-! DEFINITION. Ray traversal (R244 to R247, R414 to R416). TRACE is performed in the issuing step, but for lanes that must wait: its
lanes read the nodes whose boxes the segment meets, child after child (log 35). -/

namespace Sys2Proof.Machine

/-! ## Geometry over exact rationals -/

abbrev Vec3 := List Rat

def dot3 (a b : Vec3) : Rat := a.getD 0 0 * b.getD 0 0 + a.getD 1 0 * b.getD 1 0 + a.getD 2 0 * b.getD 2 0
def sub3 (a b : Vec3) : Vec3 := [a.getD 0 0 - b.getD 0 0, a.getD 1 0 - b.getD 1 0, a.getD 2 0 - b.getD 2 0]
def along3 (o d : Vec3) (t : Rat) : Vec3 := [o.getD 0 0 + t * d.getD 0 0, o.getD 1 0 + t * d.getD 1 0, o.getD 2 0 + t * d.getD 2 0]
def cross3 (a b : Vec3) : Vec3 :=
  [a.getD 1 0 * b.getD 2 0 - a.getD 2 0 * b.getD 1 0, a.getD 2 0 * b.getD 0 0 - a.getD 0 0 * b.getD 2 0,
   a.getD 0 0 * b.getD 1 0 - a.getD 1 0 * b.getD 0 0]

/-- A set of ray parameters: empty, or an interval whose missing ends are infinite. -/
structure Span where
  empty : Bool
  lo : Option Rat
  hi : Option Rat
  deriving DecidableEq, Repr, Inhabited

def Span.clipLo (p : Span) (x : Option Rat) : Span :=
  match p.lo, x with
  | some a, some b => { p with lo := some (if a < b then b else a) }
  | none, some b => { p with lo := some b }
  | _, none => p

def Span.clipHi (p : Span) (x : Option Rat) : Span :=
  match p.hi, x with
  | some a, some b => { p with hi := some (if b < a then b else a) }
  | none, some b => { p with hi := some b }
  | _, none => p

def Span.nonempty (p : Span) : Bool :=
  !p.empty && (match p.lo, p.hi with | some a, some b => decide (a ≤ b) | _, _ => true)

def Span.has (p : Span) (t : Rat) : Bool :=
  !p.empty && (match p.lo with | some a => decide (a ≤ t) | none => true) && (match p.hi with | some b => decide (t ≤ b) | none => true)

/-- The segment [tmin, tmax]; infinite ends hold no parameter of their own. -/
def segment (tmin tmax : W32) : Span :=
  match f32Val tmin, f32Val tmax with
  | .fin _ a, .fin _ b => ⟨false, some a, some b⟩
  | .inf true, .fin _ b => ⟨false, none, some b⟩
  | .fin _ a, .inf false => ⟨false, some a, none⟩
  | .inf true, .inf false => ⟨false, none, none⟩
  | _, _ => ⟨true, none, none⟩

/-- The parameters at which the ray is between two planes of an axis; a missing plane is infinitely far. -/
def Span.slab (p : Span) (o d : Rat) (lo hi : Option Rat) : Span :=
  if d = 0 then
    let inside := (match lo with | some a => decide (a ≤ o) | none => true) && (match hi with | some b => decide (o ≤ b) | none => true)
    { p with empty := p.empty || !inside }
  else
    let q (x : Option Rat) : Option Rat := x.map fun v => (v - o) / d
    if 0 < d then (p.clipLo (q lo)).clipHi (q hi) else (p.clipLo (q hi)).clipHi (q lo)

/-! ## The traversal of one lane -/

/-- A hit: its exact parameter and barycentrics, and what names it (R245). -/
structure RayHit where
  t : Rat
  u : Rat
  v : Rat
  front : Bool
  inst : Nat
  geom : Nat
  prim : Nat
  leaf : Nat
  j : Nat
  deriving DecidableEq, Repr, Inhabited

/-- The order of hits (R245). -/
def RayHit.before (a b : RayHit) : Bool :=
  if a.t ≠ b.t then decide (a.t < b.t)
  else if a.inst ≠ b.inst then decide (a.inst < b.inst)
  else if a.leaf ≠ b.leaf then decide (a.leaf < b.leaf)
  else decide (a.j < b.j)

/-- A ray in the space of one structure. -/
structure Ray where
  o : Vec3
  d : Vec3
  seg : Span
  mask : Nat
  cullB : Bool
  cullF : Bool
  inst : Nat                     -- 0xFFFFFF outside every instance
  deriving DecidableEq, Repr, Inhabited

/-- A traversal in progress: its reads, whether it met a FORMAT case (R246) or data for which the spec states no result
(log 35), its closest hit, and the most stack entries that it may have needed. -/
structure Walk where
  r : TexRun
  format : Bool
  unstated : Bool
  hit : Option RayHit
  need : Nat

def Walk.done (w : Walk) : Bool := w.r.stop.isSome || w.format || w.unstated

def byteAt (bs : Bytes) (k : Nat) : Nat := (bs.getD k 0).toNat
def wordAt (bs : Bytes) (k : Nat) : W32 := BitVec.ofNat 32 (natOf ((bs.drop k).take 4))

/-- A triangle of a leaf block (R244, R245). -/
def testTriangle (ray : Ray) (leaf : Nat) (bs : Bytes) (w : Walk) (j : Nat) : Walk :=
  if w.done then w
  else
    let at_ := 16 + 48 * j
    let v (k : Nat) : Vec3 := (List.range 3).map fun x => f32Rat (wordAt bs (at_ + 12 * k + 4 * x))
    if byteAt bs (at_ + 43) ≠ 0 || wordAt bs (at_ + 44) ≠ 0 then { w with format := true }
    else if (List.range 9).any fun k => nonFinite .f32 (wordAt bs (at_ + 4 * k)).toNat then { w with unstated := true }
    else
      let e1 := sub3 (v 1) (v 0)
      let e2 := sub3 (v 2) (v 0)
      let n := cross3 e1 e2
      let den := dot3 n ray.d
      if den = 0 then w
      else
        let t := dot3 n (sub3 (v 0) ray.o) / den
        let p := sub3 (along3 ray.o ray.d t) (v 0)
        let u := dot3 (cross3 p e2) n / dot3 n n
        let x := dot3 (cross3 e1 p) n / dot3 n n
        let front := decide (den < 0)
        let culled := if front then ray.cullF else ray.cullB
        if culled || u < 0 || x < 0 || 1 < u + x || !ray.seg.has t then w
        else
          let h : RayHit :=
            { t := t, u := u, v := x, front := front, inst := ray.inst, geom := natOf ((bs.drop (at_ + 40)).take 3)
              prim := (wordAt bs (at_ + 36)).toNat, leaf := leaf, j := j }
          match w.hit with
          | some g => if h.before g then { w with hit := some h } else w
          | none => { w with hit := some h }

/-- A leaf block: its header and its triangles. -/
def walkLeaf (c : Ctx) (ray : Ray) (va : Nat) (w : Walk) : Walk :=
  let (h, r) := readPieces c va 16 w.r
  let w := { w with r := r }
  if w.done then w
  else
    let x := natOf h
    if x = 0 || 16 < x then { w with format := true }
    else
      let (bs, r) := readPieces c (va + 16) (48 * x) w.r
      (List.range x).foldl (fun w j => testTriangle ray va (h ++ bs) w j) { w with r := r }

/-- The box of child `k` of a node: whether the segment meets it (R244, R245). -/
def childMet (ray : Ray) (bs : Bytes) (k : Nat) : Bool :=
  let span := (List.range 3).foldl (fun (p : Span) a =>
    let org := f32Rat (wordAt bs (4 * a))
    let sc := pow2 ((byteAt bs (12 + a) : Int) - 127)
    let lo := byteAt bs (24 + 6 * k + 2 * a)
    let hi := byteAt bs (24 + 6 * k + 2 * a + 1)
    let plane (v : Rat) (m : Mode) : Option Rat :=
      match valueOf .f32 (roundTo .f32 (Num.ofRat v) m) with | .fin _ q => some q | _ => none
    if hi < lo then { p with empty := true }
    else p.slab (ray.o.getD a 0) (ray.d.getD a 0) (plane (org + mkRat lo 1 * sc) .rdn) (plane (org + mkRat (hi + 1) 1 * sc) .rup))
    ray.seg
  span.nonempty

/-- The children of a node that are not empty and whose boxes the segment meets: number, type and address. -/
def childrenMet (ray : Ray) (bs : Bytes) : List (Nat × Nat) :=
  let cb := natOf ((bs.drop 16).take 8)
  (List.range 4).filterMap fun k =>
    let w := (wordAt bs (48 + 4 * k)).toNat
    if w % 4 ≠ 0 && childMet ray bs k then some (w % 4, (cb + 64 * (w / 4)) % 2 ^ 64) else none

/-- A component rounded under the launch's policy (R182, R183): cleaned by policy 1. -/
def rayRound (pol : Nat) (x : Num) : W32 := BitVec.ofNat 32 (policy pol .f32 (f32Round x).toNat)

/-- The ray inside an instance (R245), each component under the launch's policy: none where one is no finite number. -/
def instanceRay (pol : Nat) (ray : Ray) (bs : Bytes) : Option Ray :=
  let m (r k : Nat) : Num := f32Val (wordAt bs (16 * r + 4 * k))
  let comp (v : Vec3) (tr : Bool) (r : Nat) : W32 :=
    rayRound pol (numSum ((List.range 3).map (fun k => (m r k).mul (Num.ofRat (v.getD k 0))) ++ if tr then [m r 3] else []))
  let o := (List.range 3).map (comp ray.o true)
  let d := (List.range 3).map (comp ray.d false)
  if (o ++ d).any fun x => nonFinite .f32 x.toNat then none
  else some { ray with o := o.map f32Rat, d := d.map f32Rat, inst := natOf ((bs.drop 56).take 3) }

/-- Below a node of a structure, at most `n` nodes deep (R246). `enter` walks the structure of an instance. -/
def walkNode (c : Ctx) (enter : Ray → Nat → Walk → Walk) (ray : Ray) : Nat → Nat → Walk → Walk
  | 0, _, w => if w.done then w else { w with format := true }
  | n + 1, va, w =>
    if w.done then w
    else
      let (bs, r) := readPieces c va 64 w.r
      let w := { w with r := r }
      let cb := natOf ((bs.drop 16).take 8)
      if w.done then w
      else if byteAt bs 15 ≠ 0 || cb % 64 ≠ 0 || 2 ^ 57 ≤ cb then { w with format := true }
      else if (List.range 3).any fun a => byteAt bs (12 + a) = 0 || byteAt bs (12 + a) = 255 || nonFinite .f32 (wordAt bs (4 * a)).toNat then
        { w with unstated := true }
      else
        let kids := childrenMet ray bs
        let base := w.need
        let w := kids.foldl (fun (w : Walk) k =>
          if w.done then w
          else
            -- the entries that this path may need, and the most that any path needed
            let peak := w.need
            let w1 := { w with need := base + kids.length }
            let w2 := if k.1 = 1 then walkNode c enter ray n k.2 w1
              else if k.1 = 2 then walkLeaf c ray k.2 w1
              else enter ray k.2 w1
            { w2 with need := max peak w2.need }) w
        w

/-- An instance node (R244 to R246): one below an instance is a FORMAT case. -/
def walkInstance (c : Ctx) (ray : Ray) (va : Nat) (w : Walk) : Walk :=
  if ray.inst ≠ 0xFFFFFF then { w with format := true }
  else
    let (bs, r) := readPieces c va 64 w.r
    let w := { w with r := r }
    if w.done then w
    else if wordAt bs 60 ≠ 0 then { w with format := true }
    else if byteAt bs 59 &&& ray.mask = 0 then w
    else
      let root := natOf ((bs.drop 48).take 8)
      if root % 64 ≠ 0 then { w with format := true }
      else
        match instanceRay c.launch.nfpol ray bs with
        | none => { w with unstated := true }
        | some r2 => walkNode c (fun _ _ w => { w with format := true }) r2 64 root w

/-! ## TRACE -/

/-- The record of a hit (R415): t, u and v under the launch's policy (R182, R183). -/
def hitRecord (pol : Nat) (h : RayHit) (restarts : Nat) : List W32 :=
  [BitVec.ofNat 32 (1 + (if h.front then 4 else 0) + restarts * 256), rayRound pol (Num.ofRat h.t), rayRound pol (Num.ofRat h.u),
   rayRound pol (Num.ofRat h.v), BitVec.ofNat 32 h.inst, BitVec.ofNat 32 h.geom, BitVec.ofNat 32 h.prim]

/-- Free words, the first with its reserved bits zero; `st` fixes the status (R246; log 35). -/
def openRecord (st : Option Nat) (s : State) : List W32 × State :=
  let (x, s) := s.draw 224
  let w := words32 7 x.toNat
  let h := w.headD 0 &&& 0xFF07
  ((match st with | some k => (h &&& 0xFF04) ||| BitVec.ofNat 32 k | none => h) :: w.drop 1, s)

/-- The spill area of a lane that may have needed more than 16 entries (R246): its bytes become free values, and 48 more
entries are there; or the place where the lane waits. -/
def spillArea (c : Ctx) (spill l need : Nat) (s : State) : Except (Nat × Nat) (Nat × State) :=
  if need ≤ 16 || spill = 0 then .ok (16, s)
  else
    let va := (spill + 512 * l) % 2 ^ 64
    match engineCheck s c.team.wins c.secure true va 512 with
    | .wait =>
      let moving (a : Nat) : Bool := engineCheck s c.team.wins c.secure true a 1 = .wait
      let a := ((rangePoints 16 va 512).find? moving).getD va
      .error (a, engineIa c.team.wins c.secure true a)
    | .stop k i a => .ok (16, engineNote s c.team.wins true (.stop k i a) (s.coreTag c.core))
    | .ok =>
      let (x, s) := s.draw 4096
      .ok (64, engineCoreWrite s c.core c.team.wins c.secure va (bytesOf 512 x.toNat))

/-- What a lane's TRACE gives: its record, and whether its t, u and v are results under R183; or what stops its reads. -/
def traceLane (c : Ctx) (a root spill l : Nat) (r : TexRun) : (List W32 × Bool) × TexRun :=
  let v (k : Nat) : W32 := c.us.vreg (a + k) l
  let isNan (k : Nat) : Bool := f32Val (v k) = .nan
  let above : Bool := (f32Val (v 7)).cmp (f32Val (v 3)) = some .lt
  let free (st : Option Nat) (r : TexRun) : (List W32 × Bool) × TexRun :=
    let (w, s) := openRecord st r.s
    ((w, false), { r with s := s })
  if (List.range 8).any isNan || above then (([0, 0, 0, 0, 0, 0, 0], false), r)
  else if (v 8).toNat / 1024 ≠ 0 || root % 64 ≠ 0 || spill % 64 ≠ 0 then free (some 2) r
  else if [0, 1, 2, 4, 5, 6].any fun k => nonFinite .f32 (v k).toNat then free none r
  else
    let ray : Ray :=
      { o := (List.range 3).map fun k => f32Rat (v k), d := (List.range 3).map fun k => f32Rat (v (4 + k)), seg := segment (v 3) (v 7)
        mask := bits (v 8) 0 8, cullB := (v 8).getLsbD 8, cullF := (v 8).getLsbD 9, inst := 0xFFFFFF }
    let w := walkNode c (walkInstance c) ray 64 root { r := r, format := false, unstated := false, hit := none, need := 1 }
    let met := match w.r.id with | some id => w.r.s.isRaced id l 0 | none => false
    -- no fault is taken for bytes that an unordered write has met (R247)
    if met && w.r.stop ≠ some .wait then free none { w.r with stop := none }
    else if w.r.stop.isSome then (([], false), w.r)
    else
      match spillArea c spill l w.need w.r.s with
      | .error (va, ia) => (([], false), { w.r with stop := some .wait, addr := va, place := (ia, some .moving) })
      | .ok (room, s) =>
        let r := { w.r with s := s }
        if w.format then free (some 2) r
        else if w.unstated then free none r
        else
          -- the restart count depends on an order of traversal that the spec does not state
          let (n, s) := if w.need ≤ room then (0, s) else let (x, s) := s.draw 8; (x.toNat, s)
          match w.hit with
          | some h => ((hitRecord c.launch.nfpol h n, true), { r with s := s })
          | none => (([BitVec.ofNat 32 (n * 256), 0, 0, 0, 0, 0, 0], false), { r with s := s })

/-- Every lane's record, or its refusal; and the lanes that wait. -/
def traceLanes (c : Ctx) (a root spill : Nat) (s : State) :
    List (Nat × List W32 × Bool) × List (Byte × W64 × Nat × W64) × List HeldLane × State :=
  engineLanes c.lanes s.nextId (traceLane c a root spill) s

/-- A hit record that policy 2 does not write (R183). -/
def traceTraps (pol : Nat) (w : List W32 × Bool) : Bool := w.2 && ((w.1.drop 1).take 3).any fun x => traps pol .f32 x.toNat

/-- The requirements of TRACE (R282, R283). -/
def encTrace (f : RForm) : Enc :=
  { ok := eOk f && f.mod = 0 && f.b ≠ 0x17F && decide (f.a.toNat ≤ 247) && decide (f.d.toNat ≤ 249), cal := false
    uses := [Use.dst f.d 7, Use.src f.a f.fea 9 .vec, Use.src f.b f.feb 1 .reg] ++ (if f.b = 0x17F then [] else [Use.src (f.b + 1) f.feb 1 .reg])
    mask := f.mask }

/-- TRACE (R245 to R247, R414 to R416). A lane that waits keeps the eighth word of a record for `traceTraps`. -/
def execTrace (f : RForm) (s : State) : Host.Outcome State Fault Refusal :=
  issue (.trace f) (encTrace f) s fun c s =>
    if acquiring s c.u then parkAt c .retry s
    else
      let root := sval s c f.b
      let spill := sval s c (f.b + 1)
      let (done, errs, held, s) := traceLanes c f.a.toNat root.toNat spill.toNat s
      if held = [] && done.any fun p => traceTraps c.launch.nfpol p.2 then raiseHere c 0x10 0 0 s
      else
        holdResult c f.d.toNat 7 1 (done.map fun p => (p.1, p.2.1 ++ if held = [] then [] else [if p.2.2 then 1 else 0])) errs s held
          { vec := [(f.a.toNat, 9)], scal := [root, spill] }

end Sys2Proof.Machine
end

