-- ==== Sys2Proof/Machine/Network.lean ====
section
/-! DEFINITION. Network instructions (R50 to R52, R421 to R425). -/

namespace Sys2Proof.Machine

/-! ## Fields and checks (R421, R422) -/

def netSize (f : RForm) : Nat := bits f.mod 0 3
def netBytes (f : RForm) : Nat := 2 ^ netSize f
def netRegs (f : RForm) : Nat := if netSize f = 4 then 4 else if netSize f = 3 then 2 else 1

/-- A names a vector pair or a uniform base. -/
def netUseA (f : RForm) : Use := if f.a.toNat < 0x100 then Use.src f.a f.fea 2 .vec else Use.src f.a f.fea 1 .sca

/-- What the peer checks of R422 give: the peer, a wait, or a cause already raised. -/
inductive PeerAns where
  | ok (id : BitVec 10) (p : Peer) (s : State)
  | stop (s : State)

/-- The peer id and its table entry (R49, R422). -/
def withPeer (c : Ctx) (b : BitVec 9) (s : State) (dst : Option (Nat × Nat) := none) : PeerAns :=
  let id := sval s c b
  if bits id 10 54 ≠ 0 then .stop (raiseHere c 0x07 0 0 s)
  else
    let va := peerAddr s c.team.ctx id.toNat
    match readAtIssue c va 8 s (some []) with
    | (.wait, s) => .stop (parkAt c .retry s)
    | (.fault k i, s) => .stop (raiseUniform c k i va 1 s dst)
    | (.ok bs, s) =>
      match peerOf s c.secure (BitVec.ofNat 64 (natOf bs)) with
      | .error k => .stop (raiseHere c k 0 0 s)
      | .ok p => .ok (BitVec.ofNat 10 id.toNat) p s

/-- The remote address of a lane: a vector pair's own value, or the uniform base with the lane's place (R422). -/
def remoteAddr (s : State) (c : Ctx) (a : BitVec 9) (bytes lane : Nat) : Nat :=
  if a.toNat < 0x100 then (globalAddr s c a 0 lane).toNat else (globalAddr s c a (lane * bytes : Nat) lane).toNat

/-- The cause that refuses a remote address (R422). -/
def remoteBadAddr (va bytes : Nat) : Option Byte := if va % bytes ≠ 0 then some 0x05 else if 2 ^ 57 ≤ va then some 0x07 else none

/-- Lanes that may go, with their addresses; and the causes of the others. -/
def remoteLanes (s : State) (c : Ctx) (a : BitVec 9) (bytes : Nat) : List (Nat × Nat) × List (Byte × W64 × Nat × W64) :=
  let all := c.lanes.map fun l => (l, remoteAddr s c a bytes l)
  (all.filter fun p => (remoteBadAddr p.2 bytes).isNone,
   all.filterMap fun p => (remoteBadAddr p.2 bytes).map fun k => (k, 1#64 <<< p.1, p.2, atIssue))

/-- Runs (R423): consecutive lanes of EM whose remote ranges are contiguous, each with its first lane's address. -/
def netRuns (c : Ctx) (bytes : Nat) (l : List (Nat × Nat)) : List (List Nat × Nat) :=
  let next (p q : Nat) : Bool := ((c.lanes.dropWhile fun x => x ≠ p).drop 1).head? = some q
  (l.foldl (fun (acc : List (List Nat × Nat)) q =>
    match acc with
    | (ls, va) :: rest =>
      if next (ls.getLastD 0) q.1 && va + bytes * ls.length = q.2 then (ls ++ [q.1], va) :: rest else ([q.1], q.2) :: acc
    | [] => [([q.1], q.2)]) []).reverse

/-! ## NSTORE -/

/-- The requirements of NSTORE (R282, R283). -/
def encNstore (f : RForm) : Enc :=
  { ok := eOk f && bits f.mod 3 5 = 0 && decide (2 ≤ netSize f) && decide (netSize f ≤ 4), cal := false
    uses := [Use.imp f.d (netRegs f) .vec, netUseA f, useU f.b f.feb], mask := f.mask }

/-- NSTORE (R51, R422, R423): the data are read at issue, and each run is one RDMA WRITE. -/
def execNstore (f : RForm) (s : State) : Host.Outcome State Fault Refusal :=
  issue (.nstore f) (encNstore f) s fun c s =>
    if acquiring s c.u then parkAt c .retry s
    else
      match withPeer c f.b s with
      | .stop s => s
      | .ok id p s =>
        let n := netBytes f
        let (good, bad) := remoteLanes s c f.a n
        let s := (netRuns c n good).foldl (fun s r =>
          let data := r.1.flatMap fun l => bytesOf n (ofWords32 (dataWords s c f.d (netRegs f) l))
          post s p.port p.conn (.write r.2 p.rkey data none) (.store c.u id)) s
        let (acc, s) := s.fresh
        finishAccess c 1 false (raiseLanes c (repFor c acc none 0) bad s)

/-! ## NFETCH -/

/-- The access of a fetch: its lanes wait for the peer's responses (R117, R424). -/
def netFetch (c : Ctx) (f : RForm) (bad : List (Byte × W64 × Nat × W64)) (good : List (Nat × Nat))
    (send : Nat → State → State) (s : State) : State :=
  let (id, s) := s.fresh
  let rep := repFor c id (some f.d.toNat) (netRegs f)
  let s := if good = [] then s
    else { s with inflight := s.inflight ++ [
      { id := id, u := c.u, core := c.core, kind := .fetch, dst := some f.d.toNat, regs := netRegs f, scope := 0, hint := 0
        pol := c.launch.nfpol, rep := rep, uni := false
        lanes := good.map fun q => ⟨q.1, q.2, 0, netBytes f, [], [], .waiting⟩ }] }
  let s := s.modUnit c.u fun u => u.mark f.d.toNat (netRegs f) true
  finishAccess c 1 false (raiseLanes c rep bad (send id s))

/-- The encoding of NFETCH (R421). -/
def netFetchEnc (f : RForm) (op : Nat) : Enc :=
  { ok := f.lit.isNone && bits f.mod 5 3 = 0 && bits f.mod 3 2 = op && decide (2 ≤ netSize f) && decide (netSize f ≤ 4) &&
          (op = 0 || netSize f = 3) && (op ≠ 0 || (f.c = 0 && !f.fec))
    cal := false
    uses := [⟨f.d, netRegs f, .vec, if op = 2 then .both else .dst⟩, netUseA f, useU f.b f.feb] ++
      (if op = 0 then [] else [if f.c.toNat < 0x100 then Use.src f.c f.fec 2 .vec else Use.src f.c f.fec 1 .sca])
    mask := f.mask }

/-- NFETCH_RD (R424): one RDMA READ for each run. An OP code of 3 raises cause 0x01 here (log 26). -/
def execNfetchRd (f : RForm) (s : State) : Host.Outcome State Fault Refusal :=
  issue (.nfetchRd f) (netFetchEnc f 0) s fun c s =>
    if acquiring s c.u then parkAt c .retry s
    else
      match withPeer c f.b s (some (f.d.toNat, netRegs f)) with
      | .stop s => s
      | .ok id p s =>
        let n := netBytes f
        let (good, bad) := remoteLanes s c f.a n
        netFetch c f bad good (fun acc s =>
          (netRuns c n good).foldl (fun s r =>
            post s p.port p.conn (.read r.2 p.rkey (n * r.1.length)) (.fetch c.u id acc (r.1.headD 0) r.1.length)) s) s

/-- A 64-bit operand of a lane: a vector pair or a uniform. -/
def netOperand (s : State) (c : Ctx) (x : BitVec 9) (lane : Nat) : W64 :=
  if x.toNat < 0x100 then BitVec.ofNat 64 (pairOf c.us x.toNat lane) else sval s c x

/-- The shape of the remote atomics (R424): one request for each lane, in ascending order. -/
def netAtomic (i : Instr) (f : RForm) (op : Nat) (req : State → Ctx → Nat → Nat → W32 → NetOp) (s : State) :
    Host.Outcome State Fault Refusal :=
  issue i (netFetchEnc f op) s fun c s =>
    if acquiring s c.u then parkAt c .retry s
    else
      match withPeer c f.b s (some (f.d.toNat, netRegs f)) with
      | .stop s => s
      | .ok id p s =>
        let (good, bad) := remoteLanes s c f.a 8
        netFetch c f bad good (fun acc s0 =>
          good.foldl (fun s q => post s p.port p.conn (req s0 c q.1 q.2 p.rkey) (.fetch c.u id acc q.1 1)) s0) s

/-- NFETCH_ADD (R424). -/
def execNfetchAdd (f : RForm) (s : State) : Host.Outcome State Fault Refusal :=
  netAtomic (.nfetchAdd f) f 1 (fun s c l va k => .fetchAdd va k (netOperand s c f.c l)) s

/-- NFETCH_CAS (R424): compares with D and swaps in C. -/
def execNfetchCas (f : RForm) (s : State) : Host.Outcome State Fault Refusal :=
  netAtomic (.nfetchCas f) f 2 (fun s c l va k =>
    .cmpSwap va k (BitVec.ofNat 64 (pairOf c.us f.d.toNat l)) (netOperand s c f.c l)) s

/-! ## NSIG -/

/-- The requirements of NSIG (R282, R283). -/
def encNsig (f : RForm) : Enc :=
  { ok := eOk f && f.mod = 0, cal := false
    uses := [Use.imp f.d 1 .sca, useU f.a f.fea, useU f.b f.feb], mask := f.mask }

/-- Faulted lanes of an earlier NSTORE or NFETCH of the unit are still to be issued again, so that a signal does not go out yet (R51,
R121, R425): of whichever peer (log 114). A handler and an instruction that is issued again do not wait for them (log 24). -/
def netFaulted (s : State) (r : UnitRef) : Bool :=
  match s.unit? r with
  | some u => u.handler.isNone && u.override.isNone && u.faultedOps.any fun p => p.acc.isSome &&
      (match p.instr with | some (.nstore _) | some (.nfetchRd _) | some (.nfetchAdd _) | some (.nfetchCas _) => true | _ => false)
  | none => false

/-- NSIG (R51, R52, R425). -/
def execNsig (f : RForm) (s : State) : Host.Outcome State Fault Refusal :=
  issue (.nsig f) (encNsig f) s fun c s =>
    match c.us.net with
    | some p => raiseNet c p s
    | none =>
      if acquiring s c.u || netFaulted s c.u then parkAt c .retry s
      else
      match withPeer c f.b s with
      | .stop s => s
      | .ok id p s =>
        let va := (sval s c f.a).toNat
        match remoteBadAddr va 8 with
        | some k => raiseUniform c k atIssue va 1 s
        | none => advance c 1 (post s p.port p.conn (.fetchAdd va p.rkey (sval s c f.d)) (.signal c.u id))

end Sys2Proof.Machine
end

