-- ==== Sys2Proof/Machine/Version.lean ====
section
/-! DEFINITION. Version records (R254, R255, R426). Each instruction acts at the home slice in the issuing step (log 25); a VPIN whose
page keeps it waiting acts when the page lets it. -/

namespace Sys2Proof.Machine

/-- Words 0 to 2 of a version record. -/
structure VRec where
  w0 : W64
  rd0 : Nat
  rd1 : Nat
  w2 : W64
  deriving DecidableEq, Repr, Inhabited

def VRec.act (r : VRec) : Nat := bits r.w0 0 1
def VRec.rd (r : VRec) (n : Nat) : Nat := if n = 0 then r.rd0 else r.rd1
def VRec.setRd (r : VRec) (n v : Nat) : VRec := if n = 0 then { r with rd0 := v } else { r with rd1 := v }
def VRec.wopen (r : VRec) : Bool := r.w2.getLsbD 0

/-- The atomic at the record's home slice (R254): the core's own sector is written back and is no longer valid there, and the line is
recalled. None, with nothing changed, where a reserved bit is set or `f` gives nothing. -/
def versionAct (s : State) (u : UnitRef) (core ia : Nat) (cs : List Nat) (f : VRec → Option VRec) : Option VRec × State :=
  let s := flushSector s core ia
  let s := recallLine (promoteFor s (lineOf ia) cs none) (lineOf ia) none
  let s := mscFill (s.countHome ia (s.coreTag core) 0x05) ia 0 (s.coreTag core)
  let w (k : Nat) : W64 := BitVec.ofNat 64 (natOf ((List.range 8).map fun i => readOf s (ia + 8 * k + i) (homeByte s (ia + 8 * k + i))))
  let r : VRec := ⟨w 0, bits (w 1) 0 32, bits (w 1) 32 32, w 2⟩
  match (if bits r.w2 1 63 ≠ 0 then none else f r) with
  | none => (none, s)
  | some x =>
    let s := if x.act = r.act then s else (s.forget fun p => p = .version ia).pass (.unit u) (.version ia)
    (some r, mscWrite s ia (s.coreTag core) (bytesOf 8 x.w0.toNat ++ bytesOf 4 x.rd0 ++ bytesOf 4 x.rd1 ++ bytesOf 8 x.w2.toNat))

/-- A version instruction as one returning atomic at scope 3 (R254): checked with kind read-write and 64-byte alignment; a reserved
bit, or a condition under which `f` gives nothing, raises cause 0x13. One whose home parks it keeps its unit parked, or with a
destination waits by itself, as `wait` gives (R393, R426). -/
def versionAt (c : Ctx) (va : Nat) (rel acq : Bool) (f : VRec → Option VRec) (done : VRec → State → State) (s : State)
    (dst : Option (Nat × Nat) := none) (wait : Option (Nat → ParkPlace → State → State) := none) : State :=
  match recordCheck c va 64 .rw 64 with
  | some k => raiseAddr c k va s dst
  | none =>
    match translate c.team.wins c.secure .rw va 64 with
    | .error k => raiseAddr c k va s dst
    | .ok ia =>
      if orderWait s c rel || (!c.again && overlaps s c.u true [(ia, 24)]) || redAhead s c.core ia s.nextId then parkAt c .retry s
      else if (homeSlice ia).isNone then raiseAddr c 0x06 va s dst
      else
        let home : ScalarAns := match wait with
          | none => scalarHome c true ia va 24 s
          | some w =>
            match homeCheck s c.u c.secure true ia with
            | (.ok, s) => .ok s
            | (.fault k st, s) => .fault k st s
            | (.park p, s) => .parked (w ia p s)
        match home with
        | .parked s => s
        | .fault k st s => raiseUniform c k (BitVec.ofNat 64 (st * 1024)) va 1 s dst
        | .ok s =>
          if (List.range 24).any fun i => homeBad s (ia + i) then raiseUniform c 0x0A 1024 va 1 s dst
          else
            match versionAct (if rel then releaseAll s c else s) c.u c.core ia (ctxScope s c 3) f with
            | (none, s) => raiseHere c 0x13 0 0 s
            | (some r, s) => done r (if acq then (acquireL1 s c.core).pass (.version ia) (.unit c.u) else s)

/-- The requirements of VPUBOPEN (R282, R283). -/
def encVpubOpen (f : RForm) : Enc :=
  { ok := eOk f && f.d = 0 && f.b = 0 && !f.feb && f.mod = 0, uses := [useU f.a f.fea], mask := f.mask }

/-- VPUB_OPEN (R255): the inactive buffer is open for writing. A MOD above 1 raises cause 0x01 here (log 26). -/
def execVpubOpen (f : RForm) (s : State) : Host.Outcome State Fault Refusal :=
  issue (.vpubOpen f) (encVpubOpen f) s fun c s =>
    versionAt c (sval s c f.a).toNat false false (fun r =>
      if r.wopen || r.rd (1 - r.act) ≠ 0 then none else some { r with w2 := 1 }) (fun _ => advance c 1) s

/-- The requirements of VPUBPUB (R282, R283). -/
def encVpubPub (f : RForm) : Enc :=
  { ok := eOk f && f.d = 0 && f.b = 0 && !f.feb && f.mod = 1, uses := [useU f.a f.fea], mask := f.mask }

/-- VPUB_PUB (R255): a release at scope 3, and then the open buffer becomes the active one. -/
def execVpubPub (f : RForm) (s : State) : Host.Outcome State Fault Refusal :=
  issue (.vpubPub f) (encVpubPub f) s fun c s =>
    versionAt c (sval s c f.a).toNat true false (fun r =>
      if !r.wopen then none
      else some { r with w2 := 0, w0 := setBits (r.w0 + 2) 0 1 (1 - r.act) }) (fun _ => advance c 1) s

/-- The requirements of VPIN (R282, R283). -/
def encVpin (f : RForm) : Enc :=
  { ok := eOk f && f.b = 0 && !f.feb && f.mod = 0, uses := [Use.dst f.d 1 .reg, useU f.a f.fea], mask := f.mask }

/-- One more pin of the active buffer (R255). -/
def pinned (r : VRec) : Option VRec := if r.rd r.act = 2 ^ 32 - 1 then none else some (r.setRd r.act (r.rd r.act + 1))

/-- VPIN (R172, R255): word 0 at write-back, and one more pin of the active buffer; an acquire. -/
def execVpin (f : RForm) (s : State) : Host.Outcome State Fault Refusal :=
  issue (.vpin f) (encVpin f) s fun c s =>
    let va := (sval s c f.a).toNat
    versionAt c va false true pinned (fun r s =>
        let (id, s) := s.fresh
        let s : State := { s with inflight := s.inflight ++ [
          { id := id, u := c.u, core := c.core, kind := .unit, dst := some f.d.toNat, regs := 1, scope := 3, hint := 0
            pol := c.launch.nfpol, rep := repFor c id (some f.d.toNat) 1, uni := true
            lanes := [⟨0, 0, 0, 0, [], [], .done (words32 2 r.w0.toNat)⟩] }] }
        advance c 1 (s.modUnit c.u fun u => u.mark f.d.toNat 1 true)) s (some (f.d.toNat, 1))
      (some fun ia w => queueRequest c f.d.toNat [] 24 ⟨0, va, ia, some w⟩)

/-- The requirements of VUNPIN (R282, R283). -/
def encVunpin (f : RForm) : Enc :=
  { ok := eOk f && f.d = 0 && f.mod = 0, uses := [useU f.a f.fea, useU f.b f.feb], mask := f.mask }

/-- VUNPIN (R172, R255): one pin less, after the unit's earlier loads have returned; a release. -/
def execVunpin (f : RForm) (s : State) : Host.Outcome State Fault Refusal :=
  issue (.vunpin f) (encVunpin f) s fun c s =>
    let n := bits (sval s c f.b) 0 1
    versionAt c (sval s c f.a).toNat true false (fun r =>
      if r.rd n = 0 then none else some (r.setRd n (r.rd n - 1))) (fun _ => advance c 1) s

end Sys2Proof.Machine
end

