-- ==== Sys2Proof/Machine/Lanes.lean ====
section
/-! DEFINITION. Lanes of texture, ray and hash-grid operations that waited at their home (R134, R135, R139, R389, R393), the steps of
an HSCAT (R252, R253), and a PCNT or VPIN that waited (R393, R419, R426). -/

namespace Sys2Proof.Machine

/-- The operands with which an engine's operation was issued, in the unit's registers. -/
def withOperands (u : UnitState) (a : Access) : UnitState :=
  let scal : List (Nat × W64) := match a.rep.instr with
    | some (.trace f) => [(f.b.toNat, a.heldS.getD 0 0), (f.b.toNat + 1, a.heldS.getD 1 0)]
    | some (.tfetch f) => [(f.c.toNat, a.heldS.getD 0 0)]
    | _ => []
  { u with
    vregs := a.held.foldl (fun t p => tset 0 t p.1 p.2) u.vregs
    sregs := scal.foldl (fun t p => if 0x100 ≤ p.1 ∧ p.1 < 0x180 then tset 0 t (p.1 - 0x100) p.2 else t) u.sregs }

/-- The context in which an engine goes on with an access. -/
def engineCtx (s : State) (a : Access) : Option Ctx :=
  match s.team? a.u.team, s.unit? a.u with
  | some t, some u =>
    (s.launch? t.launch).map fun l =>
      { u := a.u, slot := a.rep.slot, us := withOperands u a, team := t, launch := l, core := a.core, caller := false, w := l.width
        x := u.x, em := a.rep.em, secure := s.coreSecure a.core, rep := a.rep, again := true }
  | _, _ => none

/-- What a lane's operation gives, as its access keeps it: the words of D, and for a later check or write the words that follow. -/
def engineLane (c : Ctx) (a : Access) (l : Nat) (r : TexRun) : List W32 × TexRun :=
  let img := imageDesc (BitVec.ofNat 128 (natOf (a.record.getD 0 [])))
  match a.rep.instr with
  | some (.tex f) =>
    match img, samplerDesc (BitVec.ofNat 128 (natOf (a.record.getD 1 []))) with
    | some i, some sm =>
      let (v, r) := texLane c f i sm l r
      (v.map fun x => BitVec.ofNat 32 (policy a.pol .f32 x.toNat), r)
    | _, _ => ([], r)
  | some (.tfetch f) => match img with | some i => fetchLane r.s c f i l r | none => ([], r)
  | some (.trace f) =>
    let (w, r) := traceLane c f.a.toNat (a.heldS.getD 0 0).toNat (a.heldS.getD 1 0).toNat l r
    (w.1 ++ [if w.2 then 1 else 0], r)
  | some (.hgath f) =>
    let p := position c f.a.toNat l
    let (v, r) := laneFeatures c ((gridLevels c (a.record.getD 0 [])).getD []) p r
    ((if posFinite p then 0 else 1) :: v.map fun x => BitVec.ofNat 32 x.2, r)
  | _ => ([], r)

/-- The formats of the features of a grid, level after level. -/
def featFormats (ls : List GridLevel) : List Fmt := ls.flatMap fun g => List.replicate g.feat g.fmt

/-- Whether a lane's result stops its instruction under policy 2 (R183). -/
def engineTraps (s : State) (c : Ctx) (a : Access) (l : Nat) (w : List W32) : Bool :=
  match a.rep.instr with
  | some (.tex _) => w.any fun v => traps a.pol .f32 v.toNat
  | some (.trace _) => traceTraps a.pol (w.take 7, w.getD 7 0 = 1)
  | some (.hgath _) =>
    let ls := (gridLevels c (a.record.getD 0 [])).getD []
    (((featFormats ls).zip (w.drop 1)).zip (racedFeatures s a.id l ls)).any fun p => !p.2 && traps a.pol p.1.1 p.1.2.toNat
  | _ => false

/-- The last lane has its result: a non-finite one under policy 2 raises cause 0x10 before anything is written, and the instruction is
issued again (R183; log 112); else an HGATH's features are written (R250), and the write-back follows. -/
def completeEngine (c : Ctx) (s : State) (id : Nat) : State :=
  match s.access? id with
  | none => s
  | some a =>
    if a.held = [] && a.record = [] || a.lanes.any (·.open) then s
    else
      let words (l : LaneAcc) : List W32 := match l.st with | .done v => v | _ => []
      if a.lanes.any fun l => engineTraps s c a l.lane (words l) then
        let em := maskOf (a.lanes.map (·.lane))
        let s : State := { s with inflight := s.inflight.filter fun x => x.id ≠ id }
        s.modUnit a.u fun u =>
          if u.exited then u
          else { u with pending := u.pending ++ [{ cause := 0x10, level := 1, f := em, addr := 0, info := 0, rep := { a.rep with em := em } }] }
      else
        let s : State := match a.feats with
          | none => s
          | some (out, row, _) =>
            let ls := (gridLevels c (a.record.getD 0 [])).getD []
            let fs := featFormats ls
            a.lanes.foldl (fun s (l : LaneAcc) =>
              writeFeatures s a.core a.u out (row + l.lane) a.pol (fs.zip (((words l).drop 1).map fun (x : W32) => x.toNat))
                (racedFeatures s a.id l.lane ls)) s
        s.modAccess id fun (a : Access) =>
          { a with lanes := a.lanes.map (fun l => { l with st := .done ((words l).take a.regs) }), held := [], record := [] }

/-- A lane of an engine's access that waits goes on (R134, R135): it has its result, is refused, or waits again. -/
def engineAccess (s : State) (a : Access) (lane : Nat) : State :=
  match engineCtx s a, a.lane? lane with
  | some c, some l =>
    match a.kind with
    | .scatter _ _ => scatterStep c s a
    | _ =>
      if l.st ≠ .waiting || !replayTurn s a.id lane (pageOf l.ia) then s
      else
        let s := replayDone s a.id lane
        let (v, r) := engineLane c a lane { s := s, stop := none, addr := 0, id := some a.id, lane := lane }
        let s := r.s
        completeEngine c (match r.stop with
          | none => s.modAccess a.id fun a => a.setLane lane (.done v)
          | some (.fault k i) =>
            dropLane (addPending s a.u { cause := k, level := 0, f := 1#64 <<< lane, addr := BitVec.ofNat 64 r.addr, info := i
                                         rep := { a.rep with em := 1#64 <<< lane } }) a.id lane
          | some _ =>
            let s := s.modAccess a.id fun a => { a with lanes := a.lanes.map fun x =>
              if x.lane = lane then { x with va := r.addr, ia := r.place.1, st := if r.place.2.isSome then .parked else .waiting } else x }
            match r.place.2 with
            | some w => parkLane s w a.id lane
            | none => s) a.id
  | _, _ => s

/-! ## PCNT and VPIN (R393) -/

/-- A request that its unit does not wait for raises a cause (R419, R426): it is delivered at the unit's next boundary, and the
instruction is issued again (log 102). -/
def raiseRequest (s : State) (a : Access) (cause : Byte) (info : W64) : State :=
  dropLane (addPending s a.u { cause := cause, level := if a.u.grp.isSome then 1 else 3, f := if a.u.grp.isSome then a.rep.em else 0
                               addr := 0, info := info, rep := a.rep }) a.id 0

/-- A request that waited goes on: it has its word, raises a cause, is refused, or waits again. -/
def requestAccess (s : State) (a : Access) : State :=
  match engineCtx s a, a.lane? 0 with
  | some c, some l =>
    if l.st ≠ .waiting || !replayTurn s a.id 0 (pageOf l.ia) || redAhead s a.core l.ia a.id || olderOpen s a.u a.id l.ia l.size then s
    else
      let s := replayDone s a.id 0
      let answer (w : W64) (s : State) : State := s.modAccess a.id fun a => a.setLane 0 (.done (words32 2 w.toNat))
      let again (h : HeldLane) (s : State) : State :=
        let s := s.modAccess a.id fun a => { a with lanes := [{ l with va := h.va, ia := h.ia, st := h.status }] }
        match h.w with | some w => parkLane s w a.id 0 | none => s
      match a.rep.instr with
      | some (.vpin _) =>
        match homeCheck s a.u c.secure true l.ia with
        | (.park w, s) => again ⟨0, l.va, l.ia, some w⟩ s
        | (.fault k st, s) => laneFault s a l k st
        | (.ok, s) =>
          if (List.range 24).any fun i => homeBad s (l.ia + i) then laneFault s a l 0x0A 1
          else
            match versionAct s a.u a.core l.ia (ctxScope s c 3) pinned with
            | (none, s) => raiseRequest s a 0x13 0
            | (some r, s) => answer r.w0 (s.pass (.version l.ia) (.unit a.u))
      | some (.pcnt _) =>
        let va := (a.heldS.getD 0 0).toNat
        match pcntRun c a.id va (a.heldS.getD 1 0).toNat s with
        | (.word w, s) => answer w (pcntAcquire s a.u c.team.ctx va w)
        | (.tile, s) => raiseRequest s a 0x07 0
        | (.failed opid, s) => let (i, s) := tellFailure s a.u.team va opid; raiseRequest s a 0x12 i
        | (.refused k i at', s) =>
          dropLane (addPending s a.u { cause := k, level := 0, f := laneMask a l, addr := BitVec.ofNat 64 at', info := i
                                       rep := { a.rep with em := laneMask a l } }) a.id 0
        | (.wait h, s) => again h s
      | _ => s
  | _, _ => s

end Sys2Proof.Machine
end

