-- ==== Sys2Proof/Machine/Graphics.lean ====
section
/-! DEFINITION. Geometry and fragment instructions (R234, R236, R427 to R431), and the unassigned opcode (R297). -/

namespace Sys2Proof.Machine

/-! ## Streams -/

def State.stream? (s : State) (k : Nat) : Option Stream := tfind s.streams k
def State.modStream (s : State) (k : Nat) (f : Stream → Stream) : State :=
  match s.stream? k with
  | some x => { s with streams := tput s.streams k (f x) }
  | none => s

/-- The geometry stream of a team, its draw and the draw's NATTR. -/
def geometryOf (s : State) (c : Ctx) : Option (Nat × Stream × Nat × Nat) :=
  match c.launch.role with
  | .geometry k draw =>
    (s.stream? k).map fun st => (k, st, draw, (st.draws.getD (draw - st.draw0) (0, 0)).2)
  | _ => none

def rsNview (st : Stream) : Nat := bits st.desc 64 8
def rsGmax (st : Stream) : Nat := bits st.desc 112 3 + 1
def rsSpill (st : Stream) : Nat := bits st.desc 256 57
def rsRtn (st : Stream) : Nat := bits st.desc 441 3

/-! ## What the raster engines write (R231, R242, R243) -/

/-- Whether a stream's context is secure (R25). -/
def stSecure (s : State) (st : Stream) : Bool := (s.context st.ctx).secure

/-- A refused write, or a write whose target cannot be read, is dropped, noted with its address and reported by the stream (R46,
R243). -/
def dropWrite (s : State) (k : Nat) (st : Stream) (va : Nat) : State :=
  ((s.noteBit st.ctx 195).noteAddr st.ctx va).modStream k fun st => { st with fault := true }

/-- A write of the raster engines: dropped where it is refused (R243); none while a page
moves. -/
def rasterWrite (s : State) (k : Nat) (st : Stream) (va : Nat) (bs : Bytes) : Option State :=
  if bs = [] then some s
  else
    match engineCheck s st.wins (stSecure s st) true va bs.length with
    | .ok => some (engineWrite s st.wins (stSecure s st) va (s.partOf st.ctx) bs)
    | .wait => none
    | .stop c i a => some (dropWrite (engineNote s st.wins true (.stop c i a) (s.partOf st.ctx)) k st a)

/-- Word 4 of a target entry. -/
def targetWord (st : Stream) (e : Nat) : W64 := (st.targets.getD e []).getD 4 0

/-- x limited to [0, 1]. -/
def clamp01 (x : Num) : Num :=
  match x with
  | .nan => .nan
  | .inf neg => if neg then .fin false 0 else .fin false 1
  | .fin _ q => if q < 0 then .fin false 0 else if 1 < q then .fin false 1 else x

/-- N-bit UNORM of a value (R240, R242). -/
def unorm (n : Nat) (x : Num) : Nat := roundTo (.int n false) ((clamp01 x).mul (Num.ofInt (2 ^ n - 1))) .rne

/-- A blend factor (R231). -/
def factor (code : Nat) (sa da : Num) : Num :=
  let one := Num.ofInt 1
  match code with
  | 0 => Num.ofInt 0
  | 1 => one
  | 2 => sa
  | 3 => one.add .rne sa.neg
  | 4 => da
  | _ => one.add .rne da.neg

/-- Bytes of a channel in a colour format. -/
def chanBytes (fmt : Nat) : Nat := match fmt with | 1 => 1 | 2 => 2 | _ => 4

/-- A stored channel as a value. -/
def chanValue (fmt code : Nat) : Num :=
  match fmt with
  | 1 => f32Val (f32Round (Num.ofRat (mkRat code 255)))
  | 2 => valueOf .f16 code
  | _ => valueOf .f32 code

/-- The format of a stored channel. -/
def chanFmt (fmt : Nat) : Fmt := match fmt with | 1 => .int 8 false | 2 => .f16 | _ => .f32

/-- A value as a stored channel, under a policy (R182 to R184, R242). -/
def chanCode (pol fmt : Nat) (v : Num) : Nat :=
  if fmt = 1 then unorm 8 v else policy pol (chanFmt fmt) (roundTo (chanFmt fmt) v .rne)

/-- The value that blending gives a channel: source and target channel, source and target alpha (R242). -/
def blended (w : W64) (s d sa da : Num) : Num :=
  f32Val (f32Round ((s.mul (factor (bits w 4 4) sa da)).add .rne (d.mul (factor (bits w 8 4) sa da))))

/-- Values of a target channel, and of its alpha, between which every blend lies: a blend is a polynomial of them whose extremes are
at the largest values of the format, at 0, at 1/2 or at 1. -/
def targetSamples (fmt : Nat) : List Num :=
  let m : Num := valueOf (chanFmt fmt) (chanFmt fmt).maxCode
  [m.neg, .ofInt 0, .ofRat (mkRat 1 2), .ofInt 1, m]

/-- Whether what a lane sends to a colour target is sure to be stored there as a NaN or an infinity (R184, R242): without blending, the
code stored in an enabled channel; with it, a source or a factor that is non-finite, or a blend that is it, whatever the target holds
(log 60). -/
def sendsNonFinite (w : W64) (rgba : List W32) : Bool :=
  let fmt := bits w 0 4
  let s (c : Nat) : Num := f32Val (rgba.getD c 0)
  let bad (x : Num) : Bool := match x with | .fin _ _ => false | _ => true
  let wild := w.getLsbD 16 && (bad (factor (bits w 4 4) (s 3) (.ofInt 0)) || bad (factor (bits w 8 4) (s 3) (.ofInt 0)))
  let codes (c : Nat) : List Nat := (targetSamples fmt).flatMap fun da =>
    (if c = 3 then [da] else targetSamples fmt).map fun d => chanCode 0 fmt (blended w (s c) d (s 3) da)
  let always (c : Nat) : Bool := (codes c).all fun k => nonFinite (chanFmt fmt) k && k = (codes c).headD 0
  decide (2 ≤ fmt) && (List.range 4).any fun c => w.getLsbD (12 + c) &&
    (wild || (if w.getLsbD 16 then bad (s c) || always c else nonFinite (chanFmt fmt) (chanCode 0 fmt (s c))))

/-! ## VEMIT and PEMIT -/

/-- The requirements of VEMIT (R282, R283). -/
def encVemit (f : RForm) : Enc :=
  let vec := decide (f.b.toNat < 0x100)
  { ok := eOk f && f.d = 0 && f.mod = 0, cal := false
    uses := [Use.src f.a f.fea 1 .vec, Use.src f.b f.feb 1 (if vec then .vec else .sca)], mask := f.mask }

/-- VEMIT (R234, R428). -/
def execVemit (f : RForm) (s : State) : Host.Outcome State Fault Refusal :=
  let vec := decide (f.b.toNat < 0x100)
  issue (.vemit f) (encVemit f) s fun c s =>
    match geometryOf s c with
    | none => raiseHere c 0x15 0 0 s
    | some (_, _, _, nattr) =>
      match coordGate c f.a f.fea (4 + nattr) with
      | .illegal => raiseHere c 0x01 0 0 s
      | .budget => raiseHere c 0x03 0 0 s
      | .empty => raiseHere c 0x04 0 0 s
      | .wait => parkAt c .retry s
      | _ =>
        let slot (l : Nat) : Nat := if vec then (c.us.vreg f.b.toNat l).toNat else (sval s c f.b).toNat + l
        if c.lanes.any fun l => decide (255 < slot l) then raiseHere c 0x15 0 0 s
        else
          advance c 1 (s.modTeam c.u.team fun t => { t with verts := c.lanes.foldl (fun v l =>
            tset [] v (slot l) (dataWords s c f.a (4 + nattr) l)) t.verts })

/-- The places of the next `n` bytes of a spill record's content among those still free: which ones is open (R236; log 37). -/
def spillPlaces : List Nat → Nat → Nat → List Nat
  | _, _, 0 => []
  | free, k, n + 1 =>
    match free[Config.spillPlace k % max 1 free.length]? with
    | some o => o :: spillPlaces (free.erase o) (k + 1) n
    | none => []

/-- The places of the sequence, the view mask, NATTR, and three vertices of up to 20 words. -/
def recordPlaces : List Nat := spillPlaces (List.range 512) 0 272

/-- The 512 bytes of a spill record (R236): what a PEMIT holds, and zeros elsewhere. -/
def spillBytes (m : Emit) : Bytes :=
  let held := bytesOf 8 m.seq ++ bytesOf 16 m.mask.toNat ++ bytesOf 8 m.nattr ++ m.verts.flatMap fun v => v.flatMap fun w => bytesOf 4 w.toNat
  (held.zip recordPlaces).foldl (fun bs b => bs.set b.2 b.1) (List.replicate 512 0)

/-- What a spill record says. -/
def emitOf (bs : Bytes) : Emit :=
  let held := recordPlaces.map fun p => bs.getD p 0
  let num (o n : Nat) : Nat := natOf ((held.drop o).take n)
  let nattr := min 16 (num 24 8)
  { seq := num 0 8, mask := BitVec.ofNat 128 (num 8 16), nattr := nattr
    verts := (List.range 3).map fun v => (List.range (4 + nattr)).map fun j => BitVec.ofNat 32 (num (32 + 4 * (v * (4 + nattr) + j)) 4) }

/-- The PEMIT that is forwarded: itself, or what its spill record holds by then (R236); none while the record's page moves. A record
whose page was moving at the PEMIT is written here, and one that cannot be read is dropped, as its refused write was (log 61). -/
def spilledEmit (s : State) (k : Nat) (st : Stream) (m : Emit) : Option (Option Emit × State) :=
  match m.record with
  | none => some (some m, s)
  | some va =>
    (if m.late then rasterWrite s k st va (spillBytes m) else some s).bind fun s =>
      match engineCheck s st.wins (stSecure s st) false va 512 with
      | .wait => none
      | .ok =>
        let (bad, bs, s) := engineRead s st.wins (stSecure s st) va 512 (s.partOf st.ctx)
        some (if bad then (none, dropWrite s k st va) else (some (emitOf bs), s))
      | .stop c i a => some (none, dropWrite (engineNote s st.wins false (.stop c i a) (s.partOf st.ctx)) k st a)

/-- Address of the record that a die's spill ring takes next. -/
def spillAddr (st : Stream) (die : Nat) : Nat :=
  (rsSpill st + die * (rsGmax st * 2 ^ 21) + 512 * ((tget default st.sources die).spilled % (rsGmax st * 4096))) % 2 ^ 64

/-- Whether a team forwards its PEMITs as it emits them (R236). -/
def forwards (st : Stream) (die team : Nat) : Bool := (tget [] st.live die).head? = some team

/-- The record of a PEMIT accepted while an earlier team of the die is live (R236); none while its page moves. A refused write is
dropped as one to a target is (log 61). -/
def spillRecord (s : State) (k die : Nat) (st : Stream) (m : Emit) : Option State := rasterWrite s k st (spillAddr st die) (spillBytes m)

/-- A PEMIT joins its source's list. -/
def queueEmit (s : State) (k die team spilled : Nat) (m : Emit) : State :=
  (s.modStream k fun st =>
    let src := tget default st.sources die
    { st with sources := tput st.sources die { src with emits := src.emits ++ [(team, m)], spilled := src.spilled + spilled } }).modTeam team
      fun t => { t with emits := t.emits + 1 }

/-- A PEMIT accepted by the emission port of a die (R234): forwarded by the oldest team, and written to a record by a later one, which
never waits for it (R236, R393). -/
def acceptEmit (s : State) (k die team : Nat) (m : Emit) : State :=
  match s.stream? k with
  | none => queueEmit s k die team 0 m
  | some st =>
    if forwards st die team then queueEmit s k die team 0 m
    else
      let m := { m with record := some (spillAddr st die) }
      match spillRecord s k die st m with
      | some s => queueEmit s k die team 1 m
      | none => queueEmit s k die team 1 { m with late := true }

/-- The requirements of PEMIT (R282, R283). -/
def encPemit (f : RForm) : Enc :=
  let quad := decide (f.b.toNat < 0x100)
  { ok := eOk f && f.d = 0 && f.mod = 0, cal := false
    uses := [Use.src f.a f.fea 1 .vec, if quad then Use.src f.b f.feb 4 .vec else Use.src f.b f.feb 1 .sca], mask := f.mask }

/-- PEMIT (R234, R429). -/
def execPemit (f : RForm) (s : State) : Host.Outcome State Fault Refusal :=
  let quad := decide (f.b.toNat < 0x100)
  issue (.pemit f) (encPemit f) s fun c s =>
    match geometryOf s c with
    | none => raiseHere c 0x15 0 0 s
    | some (k, _, draw, nattr) =>
      let word (l : Nat) : W32 := c.us.vreg f.a.toNat l
      if 4096 < c.team.emits + c.lanes.length || c.lanes.any (fun l => bits (word l) 24 8 ≠ 0) then raiseHere c 0x15 0 0 s
      else
        let mask (l : Nat) : BitVec 128 :=
          BitVec.ofNat 128 (if quad then ofWords32 (dataWords s c f.b 4 l) else (sval s c f.b).toNat)
        let vert (n : Nat) : List W32 :=
          let v := tget [] c.team.verts n
          (List.range (4 + nattr)).map fun j => v.getD j 0
        advance c 1 ((c.lanes.zip (List.range c.lanes.length)).foldl (fun s p =>
          acceptEmit s k (c.core / 32) c.u.team
            { seq := draw * 2 ^ 32 + c.team.index * 4096 + (c.team.emits + p.2), mask := mask p.1, nattr := nattr
              verts := [vert (bits (word p.1) 0 8), vert (bits (word p.1) 8 8), vert (bits (word p.1) 16 8)] }) s)

/-- The requirements of FOUT (R282, R283). -/
def encFout (f : RForm) : Enc :=
  { ok := f.lit.isNone && f.b = 0 && !f.feb && f.c = 0 && !f.fec && f.mod = 0, cal := false
    uses := [Use.imp f.d 4 .vec, useU f.a f.fea], mask := f.mask }

/-- FOUT (R242, R430). -/
def execFout (f : RForm) (s : State) : Host.Outcome State Fault Refusal :=
  issue (.fout f) (encFout f) s fun c s =>
    match c.launch.role with
    | .fragment k _ =>
      let rtn := match s.stream? k with | some st => rsRtn st | none => 0
      let w := match s.stream? k with | some st => targetWord st (sval s c f.a).toNat | none => 0
      let target := (sval s c f.a).toNat
      if target = 0 || rtn < target then raiseHere c 0x15 0 0 s
      else
        let g := c.u.grp.getD 0
        let value (l : Nat) : List W32 := dataWords s c f.d 4 l
        -- under policy 2 the group takes cause 0x10 at its next clause boundary (R184)
        let bad := c.lanes.filter fun l => sendsNonFinite w (value l)
        let s := if c.launch.nfpol = 2 && bad ≠ [] then
            addPending s c.u { cause := 0x10, level := 1, f := maskOf bad, addr := 0, info := 0, rep := { c.rep with instr := none } }
          else s
        advance c 1 (s.modTeam c.u.team fun t => { t with outs := c.lanes.foldl (fun o l =>
          (o.filter fun x => !(x.unit = g && x.lane = l && x.target = target)) ++ [⟨g, l, target, value l⟩]) t.outs })
    | _ => raiseHere c 0x15 0 0 s

/-- Every write of a stream with a sequence of at most q has been performed (R171, R431). -/
def performedUpTo (st : Stream) (q : Nat) : Bool :=
  let src := st.sources.all fun p => (match p.2.w with | some w => decide (q < w) | none => true) && p.2.emits.all fun m => decide (q < m.2.seq)
  let own := st.owners.all fun p =>
    p.2.inbound.all (fun l => l.2.all fun x => decide (q < x.seq)) && p.2.frags.all (fun x => decide (q < x.seq)) &&
    p.2.live.all fun x => decide (q < x.1)
  src && own

/-- The requirements of RFENCE (R282, R283). -/
def encRfence (f : RForm) : Enc :=
  { ok := eOk f && f.d = 0 && f.mod = 0, uses := [useU f.a f.fea, useU f.b f.feb], mask := f.mask }

/-- RFENCE (R171, R431). -/
def execRfence (f : RForm) (s : State) : Host.Outcome State Fault Refusal :=
  issue (.rfence f) (encRfence f) s fun c s =>
    let va := (sval s c f.a).toNat
    let q := (sval s c f.b).toNat
    let open_ := s.streams.any fun p => p.2.ctx = c.team.ctx && p.2.rsdesc = va && !performedUpTo p.2 q
    if open_ || acquiring s c.u then parkAt c .retry s else advance c 1 (acquireL1 s c.core)

/-- UNASSIGNED_OPCODE (R297): cause 0x01 at issue. -/
def execUnassignedOpcode (cls : BitVec 3) (word : W64) (s : State) : Host.Outcome State Fault Refusal :=
  issue (.unassignedOpcode cls word) { ok := false, uses := [], mask := 0 } s fun _ s => s

end Sys2Proof.Machine
end

