-- ==== Sys2Proof/Machine/Package.lean ====
section
/-! DEFINITION. The package: power, clocks and cooling (R14 to R20), boot (R21, R22), the board sideband (R32), correctable
errors and retirement (R27 to R29), and the loss of a die-to-die link (R268). A step whose condition does not hold leaves
the state as it is (log 38). -/

namespace Sys2Proof.Machine

/-! ## Clock steps (R17, R19) -/

def State.die (s : State) (d : Nat) : Die := s.pkg.dies.getD d .reset
def State.setDie (s : State) (d : Nat) (x : Die) : State := { s with pkg := { s.pkg with dies := s.pkg.dies.set d x } }

/-- A die takes an ACLK step; a change sets CLKSTAT.CHG (R19). -/
def State.setStep (s : State) (d n : Nat) : State :=
  let x := s.die d
  s.setDie d { x with step := n, chg := x.chg || decide (n ≠ x.step) }

def hottest (x : Die) : Nat := x.temps.foldl max 0

/-- Every die at the 400 MHz step. -/
def slowAll (s : State) : State := (List.range 4).foldl (fun s d => s.setStep d 3) s

/-! ## Losing power (R14, R15) -/

/-- What a loss of power leaves: what the flash, the fuses and the boot counter hold. Where the input stays, so do the alert causes,
the sideband's address and answers, and what is known of the input (log 77). -/
def powerLoss (s : State) (b : BootState) (input : Bool) : State :=
  { State.reset with
    pkg := { Package.reset with
      power := .off, boot := b, alerts := if input then s.pkg.alerts else default, i3c := if input then s.pkg.i3c else none
      sideband := if input then s.pkg.sideband else [], inputHold := input && s.pkg.inputHold, inputHigh := input && s.pkg.inputHigh
      flashA := s.pkg.flashA, flashB := s.pkg.flashB, fusedRsa := s.pkg.fusedRsa
      fusedSlh := s.pkg.fusedSlh, fusedSvn := s.pkg.fusedSvn, serial := s.pkg.serial, macs := s.pkg.macs, boots := s.pkg.boots }
    wire := s.wire, wireMarks := s.wireMarks, agenda := s.agenda, turn := s.turn, freeCtr := s.freeCtr, nextId := s.nextId }

/-- INPUT_OVERVOLTAGE_DISCONNECT (R14). -/
def execInputOvervoltageDisconnect (s : State) : Host.Outcome State Fault Refusal := .next (powerLoss s .inReset false)

/-- INPUT_VOLTAGE_HIGH_BAND (R14). -/
def execInputVoltageHighBand (s : State) : Host.Outcome State Fault Refusal :=
  .next ({ s with pkg := { s.pkg with inputHold := false, inputHigh := true } }.alert fun a => { a with voltage := true })

/-- The input is below 40 V: every die at 400 MHz, and the alert (R14). -/
def inputLow (s : State) : State :=
  let s := slowAll { s with pkg := { s.pkg with inputHold := true, inputHigh := false } }
  s.alert fun a => { a with voltage := true }

/-- INPUT_VOLTAGE_LOW_BAND (R14). -/
def execInputVoltageLowBand (s : State) : Host.Outcome State Fault Refusal := .next (inputLow s)

/-- INPUT_VOLTAGE_RESTORED (R14). -/
def execInputVoltageRestored (s : State) : Host.Outcome State Fault Refusal :=
  .next { s with pkg := { s.pkg with inputHold := false, inputHigh := false } }

/-- INPUT_DROPOUT (R14). -/
def execInputDropout (s : State) : Host.Outcome State Fault Refusal := .next (inputLow s)

/-- INPUT_DROPOUT_EXPIRY (R14). -/
def execInputDropoutExpiry (s : State) : Host.Outcome State Fault Refusal := .next (powerLoss s .inReset false)

/-- INPUT_POWER_RETURN (R15): the module is powered again and stands before its reset. -/
def execInputPowerReturn (s : State) : Host.Outcome State Fault Refusal :=
  .next (if s.pkg.power = .off then
      let s := powerLoss s .inReset false
      { s with pkg := { s.pkg with power := .active } }
    else s)

/-! ## Power cap and cooling (R16, R20) -/

/-- POWER_CAP_CHECK (R16): above the cap the die drops one step and may not climb above it; within it, it may. -/
def execPowerCapCheck (watts die : Nat) (s : State) : Host.Outcome State Fault Refusal :=
  .next <|
    let x := s.die die
    if s.pkg.cap < watts then
      let n := min 3 (x.step + 1)
      (s.setDie die { x with capFloor := n }).setStep die n
    else s.setDie die { x with capFloor := 0 }

/-- A die at or above 95 °C drops one step (R20). -/
def dropStep (s : State) (die : Nat) : State :=
  (s.setStep die (min 3 ((s.die die).step + 1))).alert fun a => { a with thermal := true }

/-- THERMAL_THRESHOLD_CROSSED (R20): a sensor reads a temperature; sensors 8d to 8d + 7 are those of compute die d and its
base die. -/
def execThermalThresholdCrossed (sensor celsius : Nat) (s : State) : Host.Outcome State Fault Refusal :=
  .next <|
    let d := sensor / 8
    let x := s.die d
    let x := { x with temps := x.temps.set (sensor % 8) celsius }
    let overrides := decide (95 ≤ hottest x)
    let s := s.setDie d { x with hot := overrides }
    if overrides && !x.hot then dropStep s d else s

/-- THERMAL_DROP_TIMER (R20). -/
def execThermalDropTimer (die : Nat) (s : State) : Host.Outcome State Fault Refusal :=
  .next (if (s.die die).hot && decide (95 ≤ hottest (s.die die)) then dropStep s die else s)

/-- ACLK_CLIMB_TIMER (R14, R20): one step up, within what the cap allows, below 90 °C and with the input at 40 V or more. -/
def execAclkClimbTimer (die : Nat) (s : State) : Host.Outcome State Fault Refusal :=
  .next <|
    let x := s.die die
    if s.pkg.inputHold || decide (90 ≤ hottest x) then s else s.setStep die (max x.capFloor (x.step - 1))

/-! ## Boot (R21, R22) -/

/-- Whether the root of trust accepts an image (R22). -/
def imageOk (s : State) (img : Image) : Bool :=
  let msg := Config.headerBytes img ++ img.bytes
  img.keyRsa = s.pkg.fusedRsa && img.keySlh = s.pkg.fusedSlh && Config.verifyRsa img.keyRsa msg img.sigRsa &&
  Config.verifySlh img.keySlh msg img.sigSlh && decide (s.pkg.fusedSvn.toNat ≤ img.svn.toNat)

/-- Bits `lo` to `lo + w - 1`. -/
def fieldMask (lo w : Nat) : W64 := BitVec.ofNat 64 ((2 ^ w - 1) * 2 ^ lo)

/-- Fields of a region descriptor that can be written (R24). -/
def regionRw : W64 := fieldMask 62 2 ||| fieldMask 51 6 ||| fieldMask 0 31

/-- Connection 0 of a port: a valid management connection, whatever the image's entry says of that (R41, R43). -/
def conn0Entry (e : BitVec 512) : BitVec 512 := setBit (setBit (setBit e 0 true) 1 false) 2 true

/-- Steps 4 to 6 of R21: the measurement, and what the management processor does. The root register of the page map is a free
value (R131). -/
def bringUp (s : State) (img : Image) (recov : Bool) : State :=
  let (mm, s) := s.draw 384
  let (root, s) := s.draw 52
  let cfg := img.cfg
  let s : State := { s with
    pkg := { s.pkg with
      boot := .running, mroot := Config.sha384 img.bytes, mmgmt := mm, bootRecov := recov, boots := s.pkg.boots + 1
      worldSets := cfg.worldSets, worldCopy := cfg.worldCopy, worldColl := cfg.worldColl, worldPorts := cfg.worldPorts
      worldTu := cfg.worldTu, worldLock := true, reserve := cfg.frames
      regionDesc := (cfg.regionDesc.zip (List.range 64)).foldl (fun t p => tset 0 t p.2 (p.1 &&& regionRw)) [] }
    mgmt := { s.mgmt with key := cfg.mgmtKey, nbase := cfg.nbase, qtab := cfg.qtab }
    mem := { s.mem with l2Reserve := cfg.l2Reserve, root := root.toNat } }
  let s := cfg.secureCtx.foldl (fun s c => s.modContext c fun x => { x with secure := true }) s
  (List.range 8).foldl (fun s p => s.setConn (connKey p 0) ({ Conn.reset with entry := conn0Entry cfg.conn0 }).restart) s

/-- MODULE_RESET (R21): everything but what outlives a loss of power, and RETIRED, starts anew; then slot A, slot B, or the
recovery state. -/
def execModuleReset (s : State) : Host.Outcome State Fault Refusal :=
  .next <|
    if s.pkg.power = .off then s
    else
      let r := s.pkg.retired
      let s := powerLoss s .inReset true
      let s := { s with pkg := { s.pkg with power := .active, retired := r } }
      let s := if s.pkg.inputHold then slowAll s else s
      if imageOk s s.pkg.flashA then bringUp s s.pkg.flashA false
      else if imageOk s s.pkg.flashB then bringUp s s.pkg.flashB false
      else { s with pkg := { s.pkg with boot := .recovery } }

/-! ## Sideband (R16, R32) -/

/-- DYNAMIC_ADDRESS_ASSIGNMENT (R32). -/
def execDynamicAddressAssignment (addr : BitVec 7) (s : State) : Host.Outcome State Fault Refusal :=
  .next { s with pkg := { s.pkg with i3c := some addr } }

/-- A request of the board controller reaches the module once it has an address (R32; DESIGN CHOICE, log 77). -/
def sideband (s : State) (f : State → State) : Host.Outcome State Fault Refusal :=
  .next (if s.pkg.i3c.isSome then f s else s)

def State.answer (s : State) (a : SidebandAnswer) : State := { s with pkg := { s.pkg with sideband := s.pkg.sideband ++ [a] } }

/-- READ_BOOT_STATE (R32). -/
def execReadBootState (s : State) : Host.Outcome State Fault Refusal := sideband s fun s => s.answer (.boot s.pkg.boot)

/-- The cap that is stored (R16). -/
def storedCap (watts : Nat) : Nat := max 1500 (min 3000 watts)

/-- SET_POWER_CAP (R16): the sideband reads back the stored value, as the answer to this operation (DESIGN CHOICE, log 104). -/
def execSetPowerCap (watts : Nat) (s : State) : Host.Outcome State Fault Refusal :=
  sideband s fun s => { s with pkg := { s.pkg with cap := storedCap watts } }.answer (.cap (storedCap watts))

/-- READ_JUNCTION_SENSORS (R32). -/
def execReadJunctionSensors (s : State) : Host.Outcome State Fault Refusal :=
  sideband s fun s => s.answer (.sensors (s.pkg.dies.map (·.temps)) (s.pkg.dies.map (·.step)))

/-- READ_ALERT_CAUSES (R32). -/
def execReadAlertCauses (s : State) : Host.Outcome State Fault Refusal := sideband s fun s => s.answer (.alerts s.pkg.alerts)

/-- CLEAR_ALERT_CAUSES (R32): bits 0 to 3 name lasting fault, containment, thermal and input voltage, which stays set while the input
is above 60 V (R14). -/
def execClearAlertCauses (mask : BitVec 4) (s : State) : Host.Outcome State Fault Refusal :=
  sideband s fun s => s.alert fun a =>
    { lasting := a.lasting && !mask.getLsbD 0, contain := a.contain && !mask.getLsbD 1, thermal := a.thermal && !mask.getLsbD 2
      voltage := a.voltage && (!mask.getLsbD 3 || s.pkg.inputHigh) }

/-- The alert pin (R32). -/
def Alerts.pin (a : Alerts) : Bool := a.lasting || a.contain || a.thermal || a.voltage

/-- DELIVER_IMAGE (R21): in the recovery state only. -/
def execDeliverImage (img : Image) (s : State) : Host.Outcome State Fault Refusal :=
  sideband s fun s => if s.pkg.boot = .recovery && imageOk s img then bringUp s img true else s

/-! ## Correctable errors (R27, R28) -/

/-- Default configuration of a unit by its structure (R28, R42). -/
def ceuReset (structure_ : Nat) : W64 := BitVec.ofNat 64 (if structure_ = 7 then 8 + 32 * 256 else if structure_ = 8 then 3 + 32 * 256 else 4 + 30 * 256)

def State.ceu (s : State) (u : Nat) : Ceu := (tfind s.pkg.ceus u).getD ⟨ceuReset (ceuKind u), []⟩
def State.setCeu (s : State) (u : Nat) (x : Ceu) : State := { s with pkg := { s.pkg with ceus := tput s.pkg.ceus u x } }

/-- T, W and COUNT of a unit's configuration (R28). -/
def ceuT (x : Ceu) : Nat := bits x.cfg 0 8
def ceuW (x : Ceu) : Nat := 2 ^ bits x.cfg 8 6

/-- CORRECTABLE_ERROR (R27): the unit counts a correction at an address unit; `now` is its local clock. -/
def execCorrectableError (ceu addr now : Nat) (s : State) : Host.Outcome State Fault Refusal :=
  .next <|
    let x := s.ceu ceu
    let x := { x with cfg := setBits x.cfg 32 32 (bits x.cfg 32 32 + 1), track := x.track.filter fun t => decide (now < t.start + ceuW x) }
    let (n, track) : Nat × List Track := match x.track.find? fun t => t.addr = addr with
      | some t => (t.count + 1, x.track.map fun y => if y.addr = addr then { y with count := y.count + 1 } else y)
      | none => (1, (if 8 ≤ x.track.length then x.track.drop 1 else x.track) ++ [⟨addr, 1, now⟩])
    if ceuT x ≠ 0 && decide (ceuT x ≤ n) then
      let s := s.setCeu ceu { x with track := track.filter fun t => t.addr ≠ addr }
      if (ceu, addr) ∈ s.pkg.retire then s else { s with pkg := { s.pkg with retire := s.pkg.retire ++ [(ceu, addr)] } }
    else s.setCeu ceu { x with track := track }

/-- TRACKING_WINDOW_EXPIRY (R27). -/
def execTrackingWindowExpiry (ceu addr : Nat) (s : State) : Host.Outcome State Fault Refusal :=
  .next <|
    let x := s.ceu ceu
    s.setCeu ceu { x with track := x.track.filter fun t => t.addr ≠ addr }

/-! ## Retirement (R29) -/

/-- Spare banks of a structure: two for each partition's registers, four for each store (R28). -/
def spareLimit (kind : Nat) : Nat := if kind = 0 then 2 else 4

/-- The group of banks that share spares: the registers of one partition, or a whole store. -/
def spareKey (ceu addr : Nat) : Nat := 64 * ceu + if ceuKind ceu = 0 then Config.bankPart ceu addr % 64 else 0

/-- BANK_RETIREMENT (R29): a spare takes the bank's contents; without one, the core takes no further team, and the alert is raised
as for a lasting fault (DESIGN CHOICE, log 78). -/
def execBankRetirement (ceu addr : Nat) (s : State) : Host.Outcome State Fault Refusal :=
  .next <|
    let kind := ceuKind ceu
    if (ceu, addr) ∉ s.pkg.retire || decide (6 < kind) then s
    else
      let s := dropRetire s (ceu, addr)
      let used := tget 0 s.pkg.spares (spareKey ceu addr)
      if used < spareLimit kind then noteRetired { s with pkg := { s.pkg with spares := tset 0 s.pkg.spares (spareKey ceu addr) (used + 1) } }
      else
        let core := ceuBlock ceu
        ({ s with pkg := { s.pkg with noPlace := if core ∈ s.pkg.noPlace then s.pkg.noPlace else s.pkg.noPlace ++ [core] } }).alert
          fun a => { a with lasting := true }

/-- MSC_WAY_RETIREMENT (R29): dirty lines are written back; pinned or landing lines are waited for. -/
def execMscWayRetirement (slice way : Nat) (s : State) : Host.Outcome State Fault Refusal :=
  .next <|
    match s.pkg.retire.find? fun p => ceuKind p.1 = 7 && ceuBlock p.1 = slice with
    | none => s
    | some p =>
      let here := s.mem.msc.filter fun l => homeSlice (128 * l.1) = some slice && l.2.way = way
      if here.any fun l => decide (l.2.pins ≠ 0 || l.2.landing ≠ 0) then s
      else
        let s := here.foldl (fun s l => (mscClean s l.1).delMsc l.1) (dropRetire s p)
        let off := tget 0 s.mem.waysOff slice
        noteRetired { s with mem := { s.mem with waysOff := tset 0 s.mem.waysOff slice (off ||| 2 ^ way) } }

/-- HBM_PAGE_RETIREMENT (R29): a present page with data in a faulty row of the unit moves to a frame of the reserve, and is retired
when the move ends; without a frame, a lasting-fault event. The row is done with once no page has data in it (R28). -/
def execHbmPageRetirement (ceu page : Nat) (s : State) : Host.Outcome State Fault Refusal :=
  .next <|
    let due := ceuKind ceu = 8 && s.pkg.retire.any fun p => p.1 = ceu && page ∈ rowPages s p
    if !due || pageState s page ≠ 1 || s.mem.changes.any (fun c => c.page = page && c.who = .migr none) then s
    else
      match s.pkg.reserve with
      | [] => s.alert fun a => { a with lasting := true }
      | f :: rest =>
        { s with
          pkg := { s.pkg with reserve := rest }
          mem := { s.mem with changes := s.mem.changes ++ [⟨page, presentEntry f 0 false, .migr none⟩] } }

/-! ## Die-to-die links (R268) -/

/-- The two base dies of a link (R12). -/
def linkEnds (link : Nat) : Nat × Nat :=
  match link with
  | 0 => (0, 1) | 1 => (0, 2) | 2 => (0, 3) | 3 => (1, 2) | 4 => (1, 3) | _ => (2, 3)

/-- DIE_LINK_FAILURE (R268). -/
def execDieLinkFailure (link : Nat) (s : State) : Host.Outcome State Fault Refusal :=
  .next <|
    let s := { s with pkg := { s.pkg with links := setBit s.pkg.links link false } }
    collLinkLost s (linkEnds link).1 (linkEnds link).2

end Sys2Proof.Machine
end

