-- ==== Sys2Proof/Machine/Ports.lean ====
section
/-! DEFINITION. The ports: links (R34, R39), inbound requests (R35, R38, R40, R47, R48), acknowledgements, retransmission
and congestion (R36 to R39, R52, R53). -/

namespace Sys2Proof.Machine

/-! ## Links -/

def Port.link (p : Port) : Bool := p.status.getLsbD 0

/-- LINK_UP (R39): the traffic of a link that returns in time is recovered by retransmission. In the recovery state the
ports stay down (R21). -/
def execLinkUp (port : Nat) (s : State) : Host.Outcome State Fault Refusal :=
  .next <|
    if s.pkg.boot ≠ .running then s
    else
      let p := s.port port
      s.setPort port { p with status := setBit p.status 0 true, holding := false }

/-- LINK_LOSS (R39). -/
def execLinkLoss (port : Nat) (s : State) : Host.Outcome State Fault Refusal :=
  .next <|
    let p := s.port port
    if p.link then s.setPort port { p with status := setBit p.status 0 false, holding := true } else s

/-- DOWNS saturates (R34). -/
def bumpDowns (p : Port) : Port := { p with status := setBits p.status 16 16 (min 0xFFFF (bits p.status 16 16 + 1)) }

/-- LINK_HOLD_EXPIRY (R39): every connection of the port enters the error state together. -/
def execLinkHoldExpiry (port : Nat) (s : State) : Host.Outcome State Fault Refusal :=
  .next <|
    let p := s.port port
    if !p.holding then s
    else
      let s := s.setPort port (bumpDowns { p with holding := false })
      (s.conns.filter fun c => c.1 / 4096 = port).foldl (fun s c => connFail s c.1 2) s

/-- MEDIA_CHANGE (R34). -/
def execMediaChange (port : Nat) (media : BitVec 2) (s : State) : Host.Outcome State Fault Refusal :=
  .next <|
    let p := s.port port
    s.setPort port { p with status := setBits p.status 1 2 media.toNat }

/-! ## Answers of the responder -/

/-- Kind of R52 with which operations fail when this side has sent the negative acknowledgement (DEDUCED, log 106). -/
def nakCode (k : NakKind) : Nat := match k with | .remoteAccess => 3 | .remoteOperational => 4 | _ => 5

/-- A negative acknowledgement that ends the connection (R35, R40, R47). -/
def refuseInbound (s : State) (port conn : Nat) (psn : BitVec 24) (k : NakKind) : State :=
  connFail (s.send (.nak port conn psn k)) (connKey port conn) (nakCode k)

/-- Whether a PSN is one that has been executed before. -/
def isDuplicate (c : Conn) (psn : BitVec 24) : Bool :=
  let d := (c.expect - psn).toNat
  decide (0 < d) && decide (d ≤ 2 ^ 23)

/-- What an inbound request is (R35, R38, R40): its packet, how many PSNs it takes, and the bytes of its message. -/
def InReq.packet : InReq → InPacket
  | .write p | .read p _ | .send p | .atomic p _ _ _ => p
def InReq.bytes : InReq → Nat
  | .write p | .send p => p.data.length
  | .read _ n => n
  | .atomic _ _ _ _ => 8
def InReq.packets (c : Conn) (r : InReq) : Nat := c.packets r.bytes
/-- READ and atomic requests, which R36 limits. -/
def InReq.limited : InReq → Bool
  | .read _ _ | .atomic _ _ _ _ => true
  | _ => false

/-- A packet out of sequence (R38): a duplicate of a request that is still held has no answer yet; others are answered from the
response cache, from the packet that is asked for again on, or acknowledged again; the first packet beyond the expected one gets a
sequence-error NAK. -/
def outOfSequence (s : State) (port conn : Nat) (psn : BitVec 24) : State :=
  let key := connKey port conn
  let c := s.conn key
  if !c.valid || c.err then s
  else if isDuplicate c psn then
    if c.parked.any fun q => decide ((psn - q.2.packet.psn).toNat < q.2.packets c) then s
    else
      match c.cache.find? fun e => decide ((psn - e.1).toNat < c.packets e.2.length) with
      | some e => s.send (.response port conn psn (e.2.drop ((psn - e.1).toNat * c.mtu)))
      | none => s.send (.ack port conn psn)
  else if psn = c.expect || c.nakSent then s
  else (s.setConn key { c with nakSent := true }).send (.nak port conn psn .sequence)

/-- A marked packet is notified, at most once in 50 µs for a connection: whether that time has passed since the last notification is
a free value (R37; log 20). -/
def noteMarked (s : State) (port conn : Nat) (marked : Bool) : State :=
  let key := connKey port conn
  let c := s.conn key
  if !marked then s
  else
    let (b, s) := s.draw 1
    if c.notified && b = 0 then s else (s.setConn key { c with notified := true }).send (.cnp port conn)

/-- A packet whose event does not say so may be marked: a free value (R37; log 20). -/
def freeMark (s : State) (port conn : Nat) : State :=
  let (m, s) := s.draw 1
  noteMarked s port conn (m = 1)

/-- OUT_OF_SEQUENCE_PACKET (R37, R38). -/
def execOutOfSequencePacket (port conn : Nat) (psn : BitVec 24) (s : State) : Host.Outcome State Fault Refusal :=
  .next <|
    let c := s.conn (connKey port conn)
    if !c.valid || c.err || psn = c.expect then s else outOfSequence (freeMark s port conn) port conn psn

/-- With PFCEN = 1 a port that takes a packet may send a pause frame for priority RPRI: when it does, and for how long, is a free
value (R37; log 20). -/
def relieve (s : State) (port : Nat) : State :=
  let st := (s.port port).status
  if st.getLsbD 3 then
    let (v, s) := s.draw 17
    if v.getLsbD 16 then s.send (.pause port (bits st 4 3) (v.extractLsb' 0 16)) else s
  else s

/-- A response, kept for duplicates of its request (R38). -/
def respond (s : State) (p : InPacket) (data : Bytes) : State :=
  let key := connKey p.port p.conn
  let s := s.modConn key fun c => { c with cache := (c.cache.drop (c.cache.length - 15)) ++ [(p.psn, data)] }
  s.send (.response p.port p.conn p.psn data)

/-! ## The management region (R41) -/

def mgmtSlotBytes : Nat := 0x10000

/-- A word of the header (R41). -/
def mgmtWord (s : State) (w : Nat) : W64 :=
  match w with
  | 0 => 0x544D474D
  | 1 => 0x100001
  | 2 => BitVec.ofNat 64 s.mgmt.nbase
  | 3 => BitVec.ofNat 64 s.mgmt.qtab
  | 4 => BitVec.ofNat 64 Config.ceuCount
  | 5 => BitVec.ofNat 64 s.mem.l2Reserve
  | _ => 0

/-- A byte of the region. -/
def mgmtByte (s : State) (o : Nat) : Byte :=
  if o < 0x1000 then BitVec.ofNat 8 ((mgmtWord s (o / 8)).toNat >>> (8 * (o % 8))) else tget 0 s.mgmt.mem o

/-- Bytes stored in the region. -/
def mgmtStore (s : State) (o : Nat) (bs : Bytes) : State := { s with mgmt := { s.mgmt with mem := tsetBytes s.mgmt.mem o bs } }

/-- Where a host's write stores: in the slots, less their response headers. The header is read-only, and the rest of the region holds
nothing (R5, R41; log 82). -/
def mgmtOpen (o : Nat) : Bool :=
  decide (0x10000 ≤ o) && decide (o < 0x110000) && !(decide (0x1000 ≤ o % 0x10000) && decide (o % 0x10000 < 0x1040))

/-- A write into the region: one that holds the GO bit of a slot's header submits the slot's request where that is 1, and replaces one
not yet taken. -/
def mgmtWrite (s : State) (p : InPacket) : State :=
  let mem := (p.data.zipIdx.filter fun b => mgmtOpen (p.va + b.2)).foldl (fun m b => tset 0 m (p.va + b.2) b.1) s.mgmt.mem
  (List.range 16).foldl (fun s slot =>
    let go := mgmtSlotBytes * (slot + 1) + 2
    if p.va ≤ go && go < p.va + p.data.length then
      let rest := s.mgmt.pending.filter fun q => q.1 ≠ slot
      { s with mgmt := { s.mgmt with pending := if (mgmtByte s go).getLsbD 0 then rest ++ [(slot, p.port, p.conn)] else rest } }
    else s) { s with mgmt := { s.mgmt with mem := mem } }

/-! ## Regions (R40, R44, R47) -/

def State.region (s : State) (port n : Nat) : BitVec 256 := tget 0 s.regions (4096 * port + n)

def rgVbase (r : BitVec 256) : Nat := bits r 0 57
def rgIbase (r : BitVec 256) : Nat := bits r 64 52
def rgKind (r : BitVec 256) : Nat := bits r 116 4
def rgLen (r : BitVec 256) : Nat := bits r 128 64
def rgCtx (r : BitVec 256) : Nat := bits r 224 12

/-- The lowest-numbered valid region of a port that holds a key and an address. -/
def regionOf (s : State) (port : Nat) (key : W32) (va : Nat) : Option (BitVec 256) :=
  ((s.regions.filter fun e => e.1 / 4096 = port).map (·.2)).find? fun r =>
    r.getLsbD 123 && bits r 192 32 = key.toNat && decide (rgVbase r ≤ va) && decide (va < rgVbase r + rgLen r)

/-- What an inbound operation does. -/
inductive InKind where
  | write
  | read
  | atomic
  deriving DecidableEq, Repr, Inhabited

/-- The permissions of R40. -/
def regionAllows (r : BitVec 256) (k : InKind) (off len : Nat) : Bool :=
  match rgKind r, k with
  | 0, .write => r.getLsbD 120
  | 0, .read => r.getLsbD 121
  | 0, .atomic => r.getLsbD 122
  | 1, .write | 1, .read => true
  | 2, .write => off = 0 && len = 8
  | _, _ => false

/-- What an inbound access meets: its region and intermediate address, a wait for a moving page, or its refusal. -/
inductive InAns where
  | ok (r : BitVec 256) (ia : Nat)
  | wait
  | refuse (k : NakKind)
  deriving DecidableEq, Repr, Inhabited

/-- What the translation units answer for the pages of an inbound access, in ascending order (R47): nothing for a notify page. -/
def inVerdicts (s : State) (port : Nat) (r : BitVec 256) (ia len : Nat) (k : InKind) : List (Nat × Verdict) :=
  let write : Bool := match k with | .read => false | _ => true
  if rgKind r = 2 then [] else (rangePoints 16 ia (max 1 len)).map fun a => (a, verdict s (portSecure s port) write a)

/-- The checks of an inbound access (R25, R40, R47). DEDUCED: a notify page is the device's own page, with no entry of the
page map to pass (log 40). -/
def inCheck (s : State) (port : Nat) (key : W32) (va len : Nat) (k : InKind) : InAns :=
  match regionOf s port key va with
  | none => .refuse .remoteAccess
  | some r =>
    let off := va - rgVbase r
    if rgLen r < off + len || !regionAllows r k off len then .refuse .remoteAccess
    else
      let ia := rgIbase r + off
      let vs := inVerdicts s port r ia len k
      if rgKind r = 2 && secureAddr s ia && !portSecure s port then .refuse .remoteAccess
      else if vs.any (fun v => match v.2 with | .refuse _ _ => true | _ => false) then .refuse .remoteAccess
      else if vs.any (fun v => v.2 = .moving) then .wait
      else .ok r ia

/-- Bytes written at their home in pieces of at most 16 bytes. -/
def iaWrite (s : State) (ia : Nat) (bs : Bytes) : State :=
  if bs = [] then s
  else (rangePoints 4 ia bs.length).foldl (fun s a =>
    let n := min (ia + bs.length - a) (16 - a % 16)
    agentWrite s a 0 ((bs.drop (a - ia)).take n)) s

/-- A write to a registered notify page makes its word visible (R56). -/
def notifyVisible (s : State) (ia : Nat) (bs : Bytes) : State :=
  { s with mem := { s.mem with notify := s.mem.notify ++ [((ia - s.mgmt.nbase) / 4096, wordOfBytes bs)] } }

/-- Bytes read at their home, and whether uncorrectable data was met. -/
def iaRead (s : State) (ia len : Nat) : Bool × Bytes × State :=
  if len = 0 then (false, [], s)
  else (rangePoints 4 ia len).foldl (fun p a =>
    let n := min (ia + len - a) (16 - a % 16)
    let (bad, bs, s) := agentRead p.2.2 a n 0
    (p.1 || bad, p.2.1 ++ bs, s)) (false, [], s)

/-! ## Inbound requests -/

/-- A plane batch or a standard transfer that a WRITE with immediate has brought (R260, R261). -/
def handToEngine (s : State) (p : InPacket) (ia : Nat) : State :=
  match p.imm with
  | none => s
  | some opid =>
    let die := p.port / 2
    let ctx := (s.conn (connKey p.port p.conn)).ctx
    let holds (x : CollOp) : Bool :=
      let base := engineIa x.wins (engineSecure s x) false x.work
      decide (base ≤ ia) && decide (ia < base + 256 + x.nt * (1088 + 1024 * coP x.record))
    match s.collOps.find? fun x => x.die = die && x.ctx = ctx && x.opid = opid && holds x with
    | none => s
    | some op =>
      let base := engineIa op.wins (engineSecure s op) false op.work
      let off := ia - base
      let stage := 256 + 1088 * op.nt
      let np := coP op.record
      let rest := off - stage
      if ia < base || off < stage || 1024 * np * op.nt ≤ rest then s
      else
        let t := rest / 1024 / np
        let from_ := rest / 1024 % np
        let r := op.record
        let body : CollBody := if coEnc r = 0 then .standard t from_ p.data
          else .planes t from_ (rest % 1024 / 32 + 1) p.data np (coOp r) (coEnc r) (coLen r)
        { s with collMsgs := s.collMsgs ++ [⟨die, ctx, opid, op.rank, from_, body⟩] }

/-- Whether an inbound operation names the management region (R41). -/
def isMgmt (s : State) (p : InPacket) (len : Nat) : Bool :=
  (s.conn (connKey p.port p.conn)).mgmt && p.rkey = s.mgmt.key && decide (p.va + len ≤ 0x200000)

/-- What the translation units have refused of an inbound access, or hold back on a moving page: counted there, and an invalid
entry noted as an event of its owner (R46, R132, R151). -/
def inAnswered (s : State) (p : InPacket) (len : Nat) (k : InKind) : State :=
  match regionOf s p.port p.rkey p.va with
  | none => s
  | some r =>
    let off := p.va - rgVbase r
    if rgLen r < off + len || !regionAllows r k off len then s
    else
      let vs := inVerdicts s p.port r (rgIbase r + off) len k
      let refused := vs.filter fun v => match v.2 with | .refuse _ _ => true | _ => false
      if refused = [] then
        match vs.find? fun v => v.2 = .moving with
        | some v => (countXlat s v.1 0).countHome v.1 0 0x08
        | none => s
      else refused.foldl (fun s v => (countXlat (noteInvalid s v.1) v.1 0).countHome v.1 0 0x07) s

/-- A refused access. -/
def refuseAccess (s : State) (p : InPacket) (len : Nat) (k : InKind) : State :=
  refuseInbound (inAnswered s p len k) p.port p.conn p.psn .remoteAccess

/-- Uncorrectable data found by a read (R47). -/
def refuseBad (s : State) (p : InPacket) (r : BitVec 256) (ia : Nat) : State :=
  refuseInbound ((s.noteBit (rgCtx r) 198).noteAddr (rgCtx r) ia) p.port p.conn p.psn .remoteOperational

/-- A request that is a WRITE or a SEND is acknowledged by its last packet. -/
def acknowledge (s : State) (p : InPacket) : State :=
  s.send (.ack p.port p.conn (p.psn + BitVec.ofNat 24 ((s.conn (connKey p.port p.conn)).packets p.data.length - 1)))

/-- An RDMA WRITE (R40, R41, R48, R173); none while its page is moving. -/
def performWrite (s : State) (p : InPacket) : Option State :=
  if isMgmt s p p.data.length then some (acknowledge (mgmtWrite s p) p)
  else
    match inCheck s p.port p.rkey p.va p.data.length .write with
    | .wait => none
    | .refuse _ => some (refuseAccess s p p.data.length .write)
    | .ok r ia =>
      let mgmt := (s.conn (connKey p.port p.conn)).mgmt
      let s := if rgKind r = 2 then notifyVisible s ia p.data else iaWrite s ia p.data
      some (acknowledge (if mgmt then s else handToEngine s p ia) p)

/-- An RDMA READ (R38, R40, R47). -/
def performRead (s : State) (p : InPacket) (len : Nat) : Option State :=
  if isMgmt s p len then some (respond s p ((List.range len).map fun i => mgmtByte s (p.va + i)))
  else
    match inCheck s p.port p.rkey p.va len .read with
    | .wait => none
    | .refuse _ => some (refuseAccess s p len .read)
    | .ok r ia =>
      let (bad, bs, s) := iaRead s ia len
      some (if bad then refuseBad s p r ia else respond s p bs)

/-- A SEND (R40, R259): to the management processor, which defines no use of one, or to the collective engine of the port's base
die. -/
def performSend (s : State) (p : InPacket) : State :=
  let c := s.conn (connKey p.port p.conn)
  if c.mgmt then acknowledge s p
  else
    match (Config.collDecode p.data).bind fun l => msgOfNats (p.port / 2) c.ctx l with
    | none => refuseInbound s p.port p.conn p.psn .invalidRequest
    | some m => acknowledge (if m.body = .abort then abortParty s m else { s with collMsgs := s.collMsgs ++ [m] }) p

/-- An atomic (R35, R40, R48): FETCH_ADD or CMP_SWAP on 64 bits at the slice's ALU. -/
def performAtomic (s : State) (p : InPacket) (cas : Bool) (operand compare : W64) : Option State :=
  if p.va % 8 ≠ 0 then some (refuseInbound s p.port p.conn p.psn .invalidRequest)
  else if isMgmt s p 8 then some (refuseInbound s p.port p.conn p.psn .remoteAccess)
  else
    match inCheck s p.port p.rkey p.va 8 .atomic with
    | .wait => none
    | .refuse _ => some (refuseAccess s p 8 .atomic)
    | .ok r ia =>
      let (bs, s) := aluRead (countXlat s ia 0) ia 8 0
      some <|
        if (List.range 8).any fun i => homeBad s (ia + i) then refuseBad s p r ia
        else
          let old : W64 := BitVec.ofNat 64 (natOf bs)
          let new := if cas then (if old = compare then operand else old) else old + operand
          respond (mscWrite s ia 0 (bytesOf 8 new.toNat)) p bs

/-- A request in sequence is performed, unless its page is moving. -/
def perform (s : State) : InReq → Option State
  | .write p => performWrite s p
  | .read p len => performRead s p len
  | .send p => some (performSend s p)
  | .atomic p cas x y => performAtomic s p cas x y

/-- The kind of access that a request makes, for the translation units (R47). -/
def InReq.kind : InReq → Option InKind
  | .write _ => some .write
  | .read _ _ => some .read
  | .send _ => none
  | .atomic _ _ _ _ => some .atomic

/-- A request that names the management processor, which runs in every power state but off (R15). -/
def forMgmt (s : State) : InReq → Bool
  | .send p => (s.conn (connKey p.port p.conn)).mgmt
  | r => isMgmt s r.packet r.bytes

/-- A request is held behind those before it, or for a moving page, and is replayed in order (R47, R48). -/
def holdRequest (s : State) (r : InReq) : State :=
  let first := (s.conn (connKey r.packet.port r.packet.conn)).parked = []
  let s := match r.kind with | some k => if first then inAnswered s r.packet r.bytes k else s | none => s
  let (id, s) := s.fresh
  s.modConn (connKey r.packet.port r.packet.conn) fun c => { c with parked := c.parked ++ [(id, r)] }

/-- An inbound request (R36 to R38, R47): ignored on a dead connection, and with the clocks stopped lost but for one to the
management processor (R15; log 82); out of sequence; too long (DEDUCED, log 113), or a seventeenth READ or atomic; or performed, or held. -/
def inbound (r : InReq) (s : State) : Host.Outcome State Fault Refusal :=
  .next <|
    let p := r.packet
    let key := connKey p.port p.conn
    let c := s.conn key
    if !c.valid || c.err || !(s.port p.port).link then s
    else if s.pkg.power ≠ .active && !forMgmt s r then s
    else
      let s := relieve (noteMarked s p.port p.conn p.marked) p.port
      if p.psn ≠ c.expect then outOfSequence s p.port p.conn p.psn
      else
        let s := s.modConn key fun c => { c with expect := c.expect + BitVec.ofNat 24 (r.packets c), nakSent := false }
        if decide (2 ^ 31 < r.bytes) || (r.limited && decide (16 ≤ (c.parked.filter fun q => q.2.limited).length)) then
          refuseInbound s p.port p.conn p.psn .invalidRequest
        else if c.parked ≠ [] then holdRequest s r
        else (perform s r).getD (holdRequest s r)

/-- The first request that a connection holds is tried again at its home (R47, R139). -/
def replayInbound (s : State) (id : Nat) : State :=
  match s.conns.find? fun e => (e.2.parked.head?.map (·.1)) = some id with
  | none => s
  | some e =>
    match e.2.parked with
    | [] => s
    | q :: l => (perform (s.modConn e.1 fun c => { c with parked := l }) q.2).getD s

/-- TRANSLATION_ACCESS (R134): an access reaches its home: one of a unit or of an engine, or an inbound one that was held. -/
def execTranslationAccess (id lane : Nat) (s : State) : Host.Outcome State Fault Refusal :=
  .next (match s.access? id with
    | some a => match a.kind with
      | .unit | .scatter _ _ => engineAccess s a lane
      | .request => requestAccess s a
      | _ => accessHome s a lane
    | none => replayInbound s id)

/-- INBOUND_RDMA_WRITE (R40, R48, R173). -/
def execInboundRdmaWrite (p : InPacket) (s : State) : Host.Outcome State Fault Refusal := inbound (.write p) s

/-- INBOUND_RDMA_READ (R38, R40, R47). -/
def execInboundRdmaRead (p : InPacket) (len : Nat) (s : State) : Host.Outcome State Fault Refusal := inbound (.read p len) s

/-- INBOUND_SEND (R40, R259). -/
def execInboundSend (p : InPacket) (s : State) : Host.Outcome State Fault Refusal := inbound (.send p) s

/-- INBOUND_ATOMIC (R35, R40, R48). -/
def execInboundAtomic (p : InPacket) (cas : Bool) (operand compare : W64) (s : State) : Host.Outcome State Fault Refusal :=
  inbound (.atomic p cas operand compare) s

/-- INBOUND_INVALID_REQUEST (R35, R36). -/
def execInboundInvalidRequest (port conn : Nat) (psn : BitVec 24) (s : State) : Host.Outcome State Fault Refusal :=
  .next <|
    let c := s.conn (connKey port conn)
    if !c.valid || c.err || !(s.port port).link then s else refuseInbound (freeMark s port conn) port conn psn .invalidRequest

/-! ## The requester (R36, R38, R52) -/

/-- A completed operation delivers what it brought (R52, R53, R139, R193, R424). -/
def completeOwner (s : State) (o : NetOwner) (data : Bytes) : State :=
  match o with
  | .fetch _ _ acc lane n =>
    s.modAccess acc fun a =>
      let k := data.length / max 1 n
      ((lanesFrom a lane n).zip (List.range n)).foldl (fun a p =>
        a.setLane p.1 (.done (words32 4 (natOf ((data.drop (k * p.2)).take k))))) a
  | .copyRead ch off _ =>
    { s with channels := s.channels.map fun x =>
        if x.1 = ch then (ch, { x.2 with got := x.2.got ++ [(off, data)], got_n := x.2.got_n - 1 }) else x }
  | .copyWrite ch pos _ =>
    { s with channels := s.channels.map fun x => if x.1 = ch then (ch, { x.2 with got_n := x.2.got_n - 1, acked := x.2.acked ++ [pos] }) else x }
  | .migrate page =>
    { s with mem := { s.mem with migrations := s.mem.migrations.map fun m => if m.page = page then { m with fetched := some data } else m } }
  | .store _ _ | .signal _ _ | .completion _ | .event _ | .mgmt _ | .coll _ _ _ _ _ => s

/-- Bytes that a request's response carries. -/
def NetOp.answer : NetOp → Nat
  | .read _ _ n => n
  | .fetchAdd _ _ _ | .cmpSwap _ _ _ _ => 8
  | _ => 0

/-- An acknowledgement of `psn`, or the response of a READ or an atomic from `psn` on, over the requests outstanding: those that it
completes, and those it leaves with what it acknowledges of them (R38). A READ or atomic that has not been answered stays. -/
def ackStep (mtu : Nat) (psn : BitVec 24) (data : Bytes) : List Request → List Request × List Request
  | [] => ([], [])
  | q :: l =>
    let k := (psn - q.psn).toNat
    if k < q.npkt then
      if q.op.limited then
        let got := q.got ++ data
        if k ≠ q.acked then ([], q :: l)
        else if got.length = q.op.answer then ([{ q with acked := q.npkt, got := got }], l)
        else if data ≠ [] && data.length % mtu = 0 && decide (got.length < q.op.answer) then
          ([], { q with acked := q.acked + data.length / mtu, got := got } :: l)
        else ([], q :: l)
      else if data ≠ [] then ([], q :: l)
      else if k + 1 = q.npkt then ([{ q with acked := q.npkt }], l)
      else ([], { q with acked := max q.acked (k + 1) } :: l)
    else if isDuplicate { Conn.reset with expect := psn } (q.psn + BitVec.ofNat 24 (q.npkt - 1)) && !q.op.limited then
      let (done, left) := ackStep mtu psn data l
      (q :: done, left)
    else ([], q :: l)

/-- NETWORK_ACK_RECEIVED (R37, R52): an acknowledgement, or a response with its data, whose packet may be marked. Progress gives
the connection its retries again (DESIGN CHOICE, log 83). -/
def execNetworkAckReceived (port conn : Nat) (psn : BitVec 24) (data : Bytes) (s : State) : Host.Outcome State Fault Refusal :=
  .next <|
    let key := connKey port conn
    let c := s.conn key
    if !c.valid || c.err || !(s.port port).link then s
    else
      let (done, left) := ackStep c.mtu psn data c.outstanding
      let s := s.setConn key { c with outstanding := left, retries := if left = c.outstanding then c.retries else 0 }
      let s := done.foldl (fun s q => completeOwner s q.owner q.got) s
      freeMark s port conn

/-- Every packet from the first unacknowledged one is sent again (R38). -/
def resend (s : State) (port conn : Nat) : State :=
  let c := s.conn (connKey port conn)
  c.outstanding.foldl (fun s q => s.send (.request port conn (q.psn + BitVec.ofNat 24 q.acked) (q.op.rest c.mtu q.acked))) s

/-- A retry, or the error state when none is left (R38). -/
def retry (s : State) (port conn : Nat) : State :=
  let key := connKey port conn
  let c := s.conn key
  if bits c.entry 11 3 ≤ c.retries then connFail s key 1
  else resend (s.setConn key { c with retries := c.retries + 1 }) port conn

/-- NAK_RECEIVED (R37, R38, R52). -/
def execNakReceived (port conn : Nat) (psn : BitVec 24) (kind : NakKind) (s : State) : Host.Outcome State Fault Refusal :=
  .next <|
    let key := connKey port conn
    let c := s.conn key
    if !c.valid || c.err || !(s.port port).link || !(c.outstanding.any fun q => decide ((psn - q.psn).toNat < q.npkt)) then s
    else
      let s := freeMark s port conn
      match kind with
      | .sequence => retry s port conn
      | k => connFail s key (nakCode k)

/-- ACK_TIMEOUT (R38); a port that has lost LINK holds its connections (R39). -/
def execAckTimeout (port conn : Nat) (s : State) : Host.Outcome State Fault Refusal :=
  .next <|
    let c := s.conn (connKey port conn)
    if !c.valid || c.err || (s.port port).holding || c.outstanding = [] then s else retry s port conn

/-- PENDING_REQUEST_SEND (R36): the first waiting request is sent. A pause has run out by then (log 20). -/
def execPendingRequestSend (port conn : Nat) (s : State) : Host.Outcome State Fault Refusal :=
  .next <|
    let key := connKey port conn
    let s := unpause s port
    let c := s.conn key
    match c.waiting with
    | [] => s
    | (op, o) :: l => if !c.err && maySend s port c op then transmit (s.setConn key { c with waiting := l }) port conn op o else s

/-! ## Congestion and pause (R37) -/

/-- CONGESTION_NOTIFICATION_RECEIVED (R37): rates in Mb/s, held exactly (log 81). -/
def execCongestionNotificationReceived (port conn : Nat) (s : State) : Host.Outcome State Fault Refusal :=
  .next (s.modConn (connKey port conn) fun c =>
    let cut : Rat := c.rate - c.rate / ((2 ^ bits (s.port port).cong 9 3 : Nat) : Rat)
    { c with rate := if cut < 1000 then 1000 else cut })

/-- RATE_RECOVERY_TIMER (R37). -/
def execRateRecoveryTimer (port conn : Nat) (s : State) : Host.Outcome State Fault Refusal :=
  .next (s.modConn (connKey port conn) fun c =>
    let more : Rat := c.rate + ((1000 * bits (s.port port).cong 24 7 : Nat) : Rat)
    { c with rate := if 800000 < more then 800000 else more })

/-- PAUSE_FRAME_RECEIVED (R37): obeyed with PFCEN = 1, for priority RPRI only. -/
def execPauseFrameReceived (port : Nat) (prio : BitVec 3) (quanta : BitVec 16) (s : State) : Host.Outcome State Fault Refusal :=
  .next <|
    let p := s.port port
    if p.status.getLsbD 3 && bits p.status 4 3 = prio.toNat then
      (if quanta = 0 then unpause s port else s.setPort port { p with paused := true })
    else s

end Sys2Proof.Machine
end

