-- ==== Sys2Proof/Machine/Queues.lean ====
section
/-! DEFINITION. Host queues: notify words (R54, R56, R57), the mapper (R59 to R61), ring entries (R55), barrier records
(R66), and completion (R67 to R69). -/

namespace Sys2Proof.Machine

/-! ## Descriptors (R54) -/

def State.queue (s : State) (q : Nat) : Queue := tget default s.queues q
def State.setQueue (s : State) (q : Nat) (x : Queue) : State := { s with queues := tset default s.queues q x }
def State.modQueue (s : State) (q : Nat) (f : Queue → Queue) : State := s.setQueue q (f (s.queue q))

def Queue.valid (x : Queue) : Bool := x.desc.getLsbD 0
def Queue.enabled (x : Queue) : Bool := x.desc.getLsbD 1
def Queue.prio (x : Queue) : Nat := bits x.desc 2 3
def Queue.logn (x : Queue) : Nat := bits x.desc 5 5
def Queue.ctx (x : Queue) : Nat := bits x.desc 16 12
def Queue.rbase (x : Queue) : Nat := bits x.desc 64 52
def Queue.allowance (x : Queue) : Nat := bits x.desc 256 64

/-- Status of a queue whose descriptor breaks R54, or whose ring lies in a secure region for a non-secure context. A misaligned CADDR
is no such break (DESIGN CHOICE, log 107). -/
def descBad (s : State) (x : Queue) : Option Byte :=
  if x.logn < 4 || 16 < x.logn || bits x.desc 10 6 ≠ 0 || bits x.desc 28 36 ≠ 0 || x.rbase % 4096 ≠ 0 ||
      bits x.desc 116 12 ≠ 0 || bits x.desc 195 1 ≠ 0 || bits x.desc 208 16 ≠ 0 || bits x.desc 361 151 ≠ 0 then some 1
  else if !(s.context x.ctx).secure && (rangePoints 21 x.rbase (128 * 2 ^ x.logn)).any (fun a => secureAddr s a) then some 7
  else none

/-! ## Completion (R67 to R69) -/

/-- Status codes that halt the queue (R69). -/
def halts (st : Byte) : Bool := st ≠ 0 && st ≠ 5

/-- A message to the host on the queue's completion connection; one that the connection cannot take is lost (R68). -/
def postHost (s : State) (q : Nat) (op : NetOp) : State :=
  let x := s.queue q
  let port := bits x.desc 192 3
  let conn := bits x.desc 196 12
  if (s.conn (connKey port conn)).valid then post s port conn op (.completion q) else s.modQueue q fun x => { x with clost := true }

/-- The completion word with a status, and the SEND after it (R55, R68); nothing is written while HALT is 1 (R69). -/
def writeWord (s : State) (q : Nat) (st : Byte) (sendc : Bool) : State :=
  let x := s.queue q
  if x.halt then s
  else
    let w := x.ridx.toNat + st.toNat * 2 ^ 32 + (if x.cont then 2 ^ 40 else 0)
    let s := s.setQueue q { x with cont := false }
    let s := postHost s q (.write (bits x.desc 128 64) (x.desc.extractLsb' 224 32) (bytesOf 8 w) none)
    if sendc then postHost s q (.send [] (some x.ridx)) else s

/-- A word with a halting status, and then HALT (R57, R69). -/
def haltQueue (s : State) (q : Nat) (st : Byte) : State :=
  (writeWord s q st false).modQueue q fun x => { x with halt := true }

def Entry.word (e : Entry) (n : Nat) : W64 := e.words.getD n 0
def Entry.type (e : Entry) : Nat := bits (e.word 0) 0 8
def Entry.cmpl (e : Entry) : Bool := (e.word 0).getLsbD 8
def Entry.sendc (e : Entry) : Bool := (e.word 0).getLsbD 9
def Entry.waitPrev (e : Entry) : Bool := (e.word 0).getLsbD 10
def Entry.ended (e : Entry) : Bool := match e.st with | .done _ => true | _ => false
def Entry.isBarrier (e : Entry) : Bool := e.fmt = 0 && e.type = 3

/-- An entry that ended with a halting status is still to be passed by SEQ (R69). -/
def Queue.stopping (x : Queue) : Bool := x.window.any fun e => match e.st with | .done st => halts st | _ => false

def Queue.entry? (x : Queue) (i : Nat) : Option Entry := x.window.find? fun e => e.idx = i

def setEntry (s : State) (q i : Nat) (st : EntryState) : State :=
  s.modQueue q fun x => { x with window := x.window.map fun e => if e.idx = i then { e with st := st } else e }

/-- SEQ passes every entry up to the first that has not completed (R67 to R69). -/
def passEntries (q : Nat) : Nat → State → State
  | 0, s => s
  | n + 1, s =>
    let x := s.queue q
    match x.entry? x.ridx.toNat with
    | some { st := .done st, .. } =>
      let e := (x.entry? x.ridx.toNat).getD default
      let st : Byte := if x.cont && st = 0 then 5 else st          -- CONTAIN: an event with no other error
      let s := s.setQueue q { x with ridx := x.ridx + 1, window := x.window.filter fun o => o.idx ≠ e.idx
                                     arrivals := x.arrivals.filter fun a => a.1 ≠ e.idx }
      let s := if st ≠ 0 || e.cmpl then writeWord s q st (e.cmpl && e.sendc) else s
      passEntries q n (if halts st then s.modQueue q fun x => { x with halt := true } else s)
    | _ => s

/-! ## Barrier records (R66) -/

/-- Fields that give FORMAT. -/
def barrierBad (s : State) (ctx : Nat) (e : Entry) : Bool :=
  let w := e.word 3
  let sc := bits w 8 5
  bits w 2 6 ≠ 0 || bits w 13 51 ≠ 0 || bits w 0 2 = 3 || (e.words.drop 6).any (fun v => v ≠ 0) ||
  (e.word 1).toNat % 8 ≠ 0 || (e.word 4).toNat % 8 ≠ 0 || (4 < sc && !(s.ctxReg ctx 0x20).getLsbD sc)

/-- The mapper reads WADDR and, when COND holds, stores SVAL: the status that the barrier completes with, or none while it
waits. Every refusal at WADDR or SADDR gives FORMAT, those that R66 does not list too (DESIGN CHOICE, log 85). -/
def pollBarrier (s : State) (ctx : Nat) (e : Entry) : Option Byte × State :=
  let c := s.context ctx
  let cs := scopeCoresNone s c.reg c.secure (bits (e.word 3) 8 5)
  let tag := s.partOf ctx
  let cond := bits (e.word 3) 0 2
  if barrierBad s ctx e then (some 1, s)
  else
    let (ans, s) : Option Byte × State :=          -- 0: COND holds
      if cond = 2 then (some 0, s)
      else
        match engineCheck s c.regs c.secure false (e.word 1).toNat 8 with
        | .wait => (none, s)
        | .ok =>
          let ia := engineIa c.regs c.secure false (e.word 1).toNat
          let (bad, bs, s) := agentRead (promoteFor s (lineOf ia) cs none) ia 8 tag
          let v := wordOfBytes bs
          let holds := if cond = 0 then decide ((e.word 2).toNat ≤ v.toNat) else v = e.word 2
          (if bad then some 1 else if holds then some 0 else none, s)
        | a => (some 1, engineNote s c.regs false a tag)
    if ans ≠ some 0 || e.word 4 = 0 then (ans, s)
    else
      match engineCheck s c.regs c.secure true (e.word 4).toNat 8 with
      | .wait => (none, s)
      | .ok => (some 0, agentWrite s (engineIa c.regs c.secure true (e.word 4).toNat) tag (bytesOf 8 (e.word 5).toNat))
      | a => (some 1, engineNote s c.regs true a tag)

/-! ## Starting entries (R55, R66, R67, R69) -/

/-- Whether an entry may start: those before it in the window have started, no barrier before it waits, and a barrier or a
WAITPREV entry waits for every earlier completion. -/
def mayStart (x : Queue) (e : Entry) : Bool :=
  e.st = .decoded && x.slot.isSome && !x.halt && !x.stopping &&
  ((x.window.takeWhile fun o => o.idx ≠ e.idx).all fun o => o.st ≠ .decoded && !(o.isBarrier && !o.ended)) &&
  (!(e.waitPrev || e.isBarrier) || e.idx = x.ridx.toNat)

/-- Completions pass, and then entries start that need nothing else: malformed ones, which end with their status, and
barriers. -/
def settle (q : Nat) : Nat → State → State
  | 0, s => s
  | n + 1, s =>
    let s := passEntries q (s.queue q).window.length s
    let x := s.queue q
    match x.window.find? fun e => mayStart x e && (e.fmt ≠ 0 || e.isBarrier) with
    | none => s
    | some e =>
      if e.fmt ≠ 0 then settle q n (setEntry s q e.idx (.done e.fmt))
      else
        match pollBarrier (setEntry s q e.idx .started) x.ctx e with
        | (some st, s) => settle q n (setEntry s q e.idx (.done st))
        | (none, s) => s

def settleQueue (s : State) (q : Nat) : State := settle q ((s.queue q).window.length + 1) s

/-- An entry completes with a status (R67). -/
def completeEntry (s : State) (q i : Nat) (st : Byte) : State := settleQueue (setEntry s q i (.done st)) q

/-! ## ENTRY_DECODE (R55, R61) -/

/-- A header with an unknown TYPE or a reserved bit gives FORMAT. -/
def headerBad (w : W64) : Bool := bits w 11 53 ≠ 0 || !(bits w 0 8 = 1 || bits w 0 8 = 2 || bits w 0 8 = 3)

/-- What reading an entry gives: its words, a status, or a wait for a move. -/
def readRingEntry (s : State) (x : Queue) (ia : Nat) : Option (List W64 × Byte) × State :=
  let sec := (s.context x.ctx).secure
  match verdict s sec false ia with
  | .moving => (none, s)
  | .refuse k _ => (some ([], if k = 8 then 7 else 1), (noteInvalid s ia).noteAddr x.ctx ia)
  | .ok =>
    let cs := (List.range 128).filter fun n => s.coreSecure n = sec
    let (bad, bs, s) := agentRead (promoteFor s (lineOf ia) cs none) ia 128 (s.partOf x.ctx)
    let ws := (List.range 16).map fun k => wordOfBytes ((bs.drop (8 * k)).take 8)
    if bad then (some ([], 1), s.noteAddr x.ctx ia)
    else (some (ws, if headerBad (ws.headD 0) then 1 else 0), s)

/-- ENTRY_DECODE (R55, R57, R61, R69). -/
def execEntryDecode (q : Nat) (s : State) : Host.Outcome State Fault Refusal :=
  .next <|
    let x := s.queue q
    if s.pkg.power ≠ .active || x.slot.isNone || !x.enabled || x.halt || x.stopping || x.fidx = x.widx || 8 ≤ (x.window.filter fun e => !e.ended).length then s
    else
      match readRingEntry s x (x.rbase + 128 * (x.fidx.toNat % 2 ^ x.logn)) with
      | (none, s) => s
      | (some (ws, fmt), s) =>
        let i := x.fidx.toNat
        let known := x.arrivals.find? fun a => a.1 = i
        let n := match known with | some a => a.2 | none => s.arrivals
        let s := if known.isSome then s else { s with arrivals := s.arrivals + 1 }
        let s := s.modQueue q fun x =>
          { x with fidx := x.fidx + 1, window := x.window ++ [⟨i, ws, fmt, .decoded, n⟩]
                   arrivals := if known.isSome then x.arrivals else x.arrivals ++ [(i, n)] }
        settleQueue s q

/-! ## NOTIFY_WRITE (R54, R56, R57) -/

/-- A notify word on a queue that exists. -/
def notifyQueue (s : State) (q : Nat) (w : W64) : State :=
  let x := s.queue q
  let widx : W32 := w.extractLsb' 0 32
  match descBad s x with
  | some st => haltQueue s q st
  | none =>
    let ahead := (widx - x.ridx).toNat
    if bits w 33 31 ≠ 0 || 2 ^ x.logn < ahead || ahead < (widx - x.fidx).toNat then haltQueue s q 6
    else
      let refill := w.getLsbD 32
      s.setQueue q { x with widx := widx, allow := if refill then x.allowance else x.allow
                            refill := x.refill || (refill && x.slot.isNone) }

/-- NOTIFY_WRITE (R56): the first notify word that has become visible and has not acted. -/
def execNotifyWrite (s : State) : Host.Outcome State Fault Refusal :=
  .next <|
    match s.mem.notify with
    | [] => s
    | (q, w) :: l =>
      let s := { s with mem := { s.mem with notify := l } }
      if (s.queue q).valid then notifyQueue s q w else s

/-! ## The mapper (R59 to R61, R66) -/

/-- A started launch of the queue still has pending teams. -/
def pendingLaunch (s : State) (q : Nat) : Bool :=
  s.launches.any fun p => p.2.queue = q && (p.2.requeued ≠ [] || decide (p.2.next < p.2.count))

def isWaiting (s : State) (q : Nat) (x : Queue) : Bool :=
  x.valid && x.enabled && !x.halt && x.slot.isNone && (x.fidx ≠ x.widx || x.refill || pendingLaunch s q) && (descBad s x).isNone

def effPrio (x : Queue) : Nat := min 7 (x.prio + x.wait / 64)

def isIdle (x : Queue) : Bool := x.fidx = x.widx && x.window.all Entry.ended

/-- Unmap (R61): entries that have not started leave the window, and FIDX returns to the first of them. -/
def unmapQueue (s : State) (n q : Nat) : State :=
  s.modQueue q fun x =>
    let left := x.window.filter fun e => e.st ≠ .decoded
    let first := (x.window.find? fun e => e.st = .decoded).map (·.idx)
    { x with slot := none, lrs := n, window := left, fidx := match first with | some i => BitVec.ofNat 32 i | none => x.fidx }

def waitingQueues (s : State) : List (Nat × Queue) := s.queues.filter fun p => isWaiting s p.1 p.2

/-- The slots that no queue holds. -/
def freeQueueSlots (s : State) : List Nat := (List.range 64).filter fun k => s.queues.all fun p => p.2.slot ≠ some k

/-- The evictable queue that goes first: lowest PRIO, then longest mapped, then lowest number. No slot is free for one of the
queues `w` that wait with at least its PRIO (log 57). -/
def evictOf (w : List (Nat × Queue)) (s : State) (n : Nat) : Option (Nat × Queue) :=
  pickBest (fun a b => decide (a.2.prio < b.2.prio) || (a.2.prio = b.2.prio &&
      (decide (a.2.mapped < b.2.mapped) || (a.2.mapped = b.2.mapped && decide (a.1 < b.1)))))
    (s.queues.filter fun p => p.2.slot.isSome && !isIdle p.2 && decide (p.2.mapped + 16 ≤ n) &&
      decide ((freeQueueSlots s).length < (w.filter fun x => decide (p.2.prio ≤ effPrio x.2)).length))

/-- At most four evictions, each for a queue that was waiting when the first was made and that has no free slot (R59, R60; log 57). -/
def evictQueues (n : Nat) (w : List (Nat × Queue)) : Nat → State → State
  | 0, s => s
  | k + 1, s =>
    match evictOf w s n with
    | some p => evictQueues n w k (unmapQueue s n p.1)
    | none => s

/-- Waiting queues take the free slots: highest effective priority, then lowest LRS, then lowest number. -/
def mapQueues (n : Nat) : Nat → State → State
  | 0, s => s
  | k + 1, s =>
    let best := pickBest (fun a b => decide (effPrio b.2 < effPrio a.2) || (effPrio a.2 = effPrio b.2 &&
        (decide (a.2.lrs < b.2.lrs) || (a.2.lrs = b.2.lrs && decide (a.1 < b.1))))) (waitingQueues s)
    match (freeQueueSlots s).head?, best with
    | some j, some p => mapQueues n k (s.modQueue p.1 fun x => { x with slot := some j, mapped := n, refill := false, wait := 0 })
    | _, _ => s

/-- Barriers that have started are read once. -/
def pollQueue (s : State) (q : Nat) : State :=
  let x := s.queue q
  match x.window.find? fun e => e.isBarrier && e.st = .started with
  | none => settleQueue s q
  | some e =>
    match pollBarrier s x.ctx e with
    | (some st, s) => completeEntry s q e.idx st
    | (none, s) => s

/-! ## QUEUE_HALT_CLEAR (R69) -/

/-- HALT is cleared: the current SEQ with status OK at once, and the entries left in the window start. -/
def clearHalt (s : State) (q : Nat) : State :=
  let x := s.queue q
  if x.halt then settleQueue (writeWord (s.setQueue q { x with halt := false }) q 0 false) q else s

/-! ## THERMAL_HALT (R20) -/

/-- Queues of the contexts that run (R20): those with an entry that has started and not completed (DESIGN CHOICE, log 105). -/
def runningQueues (s : State) : List Nat := (s.queues.filter fun p => p.2.window.any fun e => e.st = .started).map (·.1)

/-- The completion words that wait on a connection are sent, however its port is paused (R20). -/
def sendWords (s : State) (key : Nat) : State :=
  ((s.conn key).waiting.filter fun w => match w.2 with | .completion _ => true | _ => false).foldl
    (fun s w => transmit s (key / 4096) (key % 4096) w.1 w.2) s

/-- THERMAL_HALT (R20): a completion of each running context with an error status that the spec does not name, and then
the off state. -/
def execThermalHalt (sensor celsius : Nat) (s : State) : Host.Outcome State Fault Refusal :=
  .next <|
    if celsius < 110 || s.pkg.power = .off then s
    else
      let s := s.setDie (sensor / 8) { s.die (sensor / 8) with temps := (s.die (sensor / 8)).temps.set (sensor % 8) celsius }
      let s := (runningQueues s).foldl (fun s q =>
        let (st, s) := s.draw 8
        writeWord s q (BitVec.ofNat 8 (1 + st.toNat % 255)) false) s
      let s := (List.range 8).foldl unpause (s.conns.foldl (fun s c => sendWords s c.1) s)
      powerLoss (s.alert fun a => { a with thermal := true }) .halted true

end Sys2Proof.Machine
end

