-- ==== Sys2Proof/Machine/Launch.lean ====
section
/-! DEFINITION. Starting launches and raster streams (R62 to R65, R90, R230 to R233), and what the end of a team does to
its launch (R67, R238, R243). -/

namespace Sys2Proof.Machine

/-! ## Records read for a context -/

/-- A read that the device makes for a context: it waits for a move, is refused at an address, or gives bytes. -/
inductive CtxRead where
  | wait
  | bad (addr : Nat)
  | ok (bs : Bytes)
  deriving DecidableEq, Repr, Inhabited

/-- Bytes read through a context's windows with kind read, as an acquire at device scope where `acq` (R62, R64, R230). -/
def readCtx (s : State) (ctx : Nat) (acq : Bool) (va len : Nat) : CtxRead × State :=
  let c := s.context ctx
  if len = 0 then (.ok [], s)
  else
    match engineCheck s c.regs c.secure false va len with
    | .wait => (.wait, s)
    | .stop k i a => (.bad a, engineNote s c.regs false (.stop k i a) (s.partOf ctx))
    | .ok =>
      let cs := (List.range 128).filter fun n => s.coreSecure n = c.secure
      let s := if acq then
          (rangePoints 7 va len).foldl (fun s a => promoteFor s (lineOf (engineIa c.regs c.secure false a)) cs none) s
        else s
      let (bad, bs, s) := engineRead s c.regs c.secure va len (s.partOf ctx)
      if bad then (.bad (((rangePoints 5 va len).find? fun a => homeBad s (engineIa c.regs c.secure false a)).getD va), s)
      else (.ok bs, s)

def wordsOf (bs : Bytes) : List W64 := (List.range (bs.length / 8)).map fun k => wordOfBytes ((bs.drop (8 * k)).take 8)

/-! ## Budgets (R63, R90, R92) -/

/-- The registers that a budget word gives. -/
def budgetOf (w : W64) : Budget := ⟨8 * bits w 0 6, 16 * bits w 8 4, bits w 16 7, 256 * bits w 32 13⟩

/-- The fields of a budget word with their limits. -/
def budgetFields (w : W64) : List (Nat × Nat × Nat) :=
  [(bits w 0 6, 1, 32), (bits w 8 4, 1, 8), (bits w 16 7, 16, 64), (bits w 32 13, 0, 4032)]

def inRange (f : Nat × Nat × Nat) : Bool := decide (f.2.1 ≤ f.1) && decide (f.1 ≤ f.2.2)

/-- Reserved bits of a budget word. -/
def budgetReserved (w : W64) : Bool := bits w 6 2 ≠ 0 || bits w 12 4 ≠ 0 || bits w 23 9 ≠ 0 || bits w 45 19 ≠ 0

/-- Launch values where they are not zero, declared values otherwise; none for BUDGET. -/
def mergeBudget (launch decl : W64) : Option Budget :=
  let ok := ((budgetFields launch).zip (budgetFields decl)).all fun p => p.1.1 = 0 || (inRange p.1 && decide (p.2.1 ≤ p.1.1))
  let l := budgetOf launch
  let d := budgetOf decl
  let pick (a b : Nat) : Nat := if a = 0 then b else a
  if ok then some ⟨pick l.vregs d.vregs, pick l.sregs d.sregs, pick l.cregs d.cregs, pick l.scr d.scr⟩ else none

/-- Bytes of a save slot that a team needs (R92). -/
def saveSize (rsave groups width : Nat) (b : Budget) : Nat :=
  21 * 1024 + 65536 * rsave + groups * (ceilDiv (2048 + 8 * b.sregs + 4 * width * b.vregs) 1024 * 1024) + b.scr

/-- Whether the context's slots can hold such a team (R90). -/
def slotsFit (s : State) (ctx groups width : Nat) (b : Budget) : Bool :=
  let w := s.ctxReg ctx 0x82
  bits w 32 16 ≠ 0 && decide (saveSize (bits w 48 6) groups width b ≤ bits w 0 16 * 65536)

/-! ## Kernel records (R64) -/

/-- Fields of a kernel record that give KERNEL; a reserved bit of its DECL word is one of them (DESIGN CHOICE, log 86). -/
def kernelBad (w : List W64) : Bool :=
  (w.drop 4).any (fun v => v ≠ 0) || w.getD 1 0 = 0 || budgetReserved (w.getD 3 0) || !(budgetFields (w.getD 3 0)).all inRange

/-! ## LAUNCH_START of a launch record (R62) -/

/-- 0 stands for 2,048. -/
def shapeOf (n : Nat) : Nat := if n = 0 then 2048 else n

/-- Fields that give FORMAT. -/
def launchBad (e : Entry) : Bool :=
  let w3 := e.word 3
  let count := bits (e.word 2) 0 32 * bits (e.word 2) 32 16 * bits (e.word 2) 48 16
  let lanes := shapeOf (bits w3 0 11) * shapeOf (bits w3 11 11) * shapeOf (bits w3 22 11)
  let pair := w3.getLsbD 33
  bits (e.word 1) 57 7 ≠ 0 || (e.word 1).toNat % 64 ≠ 0 || bits w3 43 21 ≠ 0 || budgetReserved (e.word 4) ||
  bits (e.word 7) 57 7 ≠ 0 || (e.word 7).toNat % 8 ≠ 0 || bits (e.word 8) 16 48 ≠ 0 || (e.word 8).toNat % 8 ≠ 0 ||
  (e.words.drop 9).any (fun v => v ≠ 0) || count = 0 || 2 ^ 40 < count || (if pair then 2048 else 1024) < lanes ||
  (pair && bits w3 34 2 = 3) || count % 2 ^ bits w3 34 2 ≠ 0 || bits w3 36 2 = 3 || bits w3 38 2 = 3

/-- What starting a record gives: a wait, a status, or a state in which it has started. -/
inductive StartAns where
  | wait
  | status (st : Byte)
  | started
  deriving DecidableEq, Repr, Inhabited

def startLaunch (s : State) (q : Nat) (e : Entry) : StartAns × State :=
  let x := s.queue q
  let ctx := x.ctx
  let w3 := e.word 3
  if launchBad e then (.status 1, s)
  else
    match readCtx s ctx true (e.word 1).toNat 64 with
    | (.wait, s) => (.wait, s)
    | (.bad _, s) => (.status 2, s)
    | (.ok kb, s) =>
      let k := wordsOf kb
      if kernelBad k then (.status 2, s)
      else
        let tx := shapeOf (bits w3 0 11)
        let ty := shapeOf (bits w3 11 11)
        let tz := shapeOf (bits w3 22 11)
        let width := 16 * 2 ^ bits w3 36 2
        match mergeBudget (e.word 4) (k.getD 3 0) with
        | none => (.status 3, s)
        | some b =>
          if !slotsFit s ctx (ceilDiv (tx * ty * tz) width) width b then (.status 3, s)
          else
            match readCtx s ctx false (e.word 7).toNat (e.word 8).toNat with
            | (.wait, s) => (.wait, s)
            | (.bad a, s) => (.status 1, s.noteAddr ctx a)
            | (.ok args, s) =>
              let gx := bits (e.word 2) 0 32
              let gy := bits (e.word 2) 32 16
              let l : Launch :=
                { queue := q, entry := e.idx, ctx := ctx, gx := gx, gy := gy, tx := tx, ty := ty, tz := tz, pair := w3.getLsbD 33
                  setsz := 2 ^ bits w3 34 2, width := width, nfpol := bits w3 38 2, stage := bits w3 40 3, budget := b
                  dkey := e.word 5, cbudget := (e.word 6).toNat, gentry := (k.getD 0 0).toNat, centry := (k.getD 1 0).toNat
                  htab := (k.getD 2 0).toNat, args := args, requeued := [], next := 0, count := gx * gy * bits (e.word 2) 48 16
                  ended := 0, skips := 0, arrival := e.arrival, status := 0, role := .none }
              let (id, s) := s.fresh
              (.started, { s with launches := tput s.launches id l })

/-! ## LAUNCH_START of a raster stream (R65, R230 to R233, R241) -/

/-- Fields of the record that give FORMAT. -/
def streamBad (e : Entry) : Bool :=
  ([1, 2, 3].any fun n => bits (e.word n) 57 7 ≠ 0 || (e.word n).toNat % 64 ≠ 0) || bits (e.word 4) 32 32 = 0 ||
  bits (e.word 7) 2 62 ≠ 0 || (e.words.drop 8).any fun v => v ≠ 0

/-- Limits and reserved bits of the descriptor (R230). -/
def rsBad (d : BitVec 512) : Bool :=
  let w (n : Nat) : W64 := d.extractLsb' (64 * n) 64
  bits (w 0) 57 7 ≠ 0 || (w 0).toNat % 64 ≠ 0 || bits (w 1) 0 8 = 0 || 128 < bits (w 1) 0 8 || bits (w 1) 9 2 = 3 || bits (w 1) 11 5 ≠ 0 ||
  bits (w 1) 16 15 = 0 || 16384 < bits (w 1) 16 15 || bits (w 1) 31 1 ≠ 0 || bits (w 1) 32 15 = 0 || 16384 < bits (w 1) 32 15 ||
  bits (w 1) 47 1 ≠ 0 || bits (w 1) 51 13 ≠ 0 || bits (w 2) 57 7 ≠ 0 || (w 2).toNat % 4 ≠ 0 || bits (w 3) 57 7 ≠ 0 ||
  (w 3).toNat % 32 ≠ 0 || bits (w 4) 57 7 ≠ 0 || (w 4).toNat % 64 ≠ 0 || bits (w 5) 0 57 % 256 ≠ 0 || bits (w 5) 57 5 < 8 ||
  16 < bits (w 5) 57 5 || bits (w 5) 62 2 ≠ 0 || bits (w 6) 0 57 % 64 ≠ 0 || bits (w 6) 57 3 = 0 || 4 < bits (w 6) 57 3 ||
  bits (w 6) 60 4 ≠ 0 || w 7 ≠ 0

/-- Fields of a target entry that give FORMAT (R231); entry 0 is the depth target. -/
def targetBad (e : Nat) (w : List W64) : Bool :=
  let v := w.getD 4 0
  (w.drop 5).any (fun x => x ≠ 0) || 3 < bits v 0 4 || bits v 17 47 ≠ 0 ||
  (if e = 0 then decide (7 < bits v 4 4) || bits v 9 8 ≠ 0 else decide (5 < bits v 4 4) || decide (5 < bits v 8 4))

/-- Fields of a draw entry that give FORMAT (R233). -/
def drawBad (w : List W64) : Bool :=
  let a := w.getD 0 0
  bits a 0 20 = 0 || bits a 20 11 = 0 || 1024 < bits a 20 11 || bits a 31 1 ≠ 0 || 16 < bits a 32 5 || bits a 37 27 ≠ 0 ||
  bits (w.getD 1 0) 57 7 ≠ 0 || bits (w.getD 2 0) 16 48 ≠ 0 || (w.getD 2 0).toNat % 8 ≠ 0 || w.getD 3 0 ≠ 0

/-- Records of a table read one after another; the first that is refused or malformed decides. -/
def readTable (ctx size : Nat) (bad : Nat → List W64 → Bool) : List (Nat × Nat) → State → Except StartAns (List (List W64)) × State
  | [], s => (.ok [], s)
  | (n, va) :: l, s =>
    match readCtx s ctx true va size with
    | (.wait, s) => (.error .wait, s)
    | (.bad _, s) => (.error (.status 1), s)
    | (.ok bs, s) =>
      if bad n (wordsOf bs) then (.error (.status 1), s)
      else match readTable ctx size bad l s with
        | (.ok r, s) => (.ok (wordsOf bs :: r), s)
        | x => x

/-- The argument blocks of the draws, read before the first team is placed. -/
def readArgs (ctx : Nat) : List (List W64) → State → Except StartAns (List Bytes) × State
  | [], s => (.ok [], s)
  | w :: l, s =>
    match readCtx s ctx false (bits (w.getD 1 0) 0 57) (w.getD 2 0).toNat with
    | (.wait, s) => (.error .wait, s)
    | (.bad a, s) => (.error (.status 1), s.noteAddr ctx a)
    | (.ok bs, s) =>
      match readArgs ctx l s with
      | (.ok r, s) => (.ok (bs :: r), s)
      | x => x

/-- NFPOL of a stream as a policy of R183. -/
def streamPolicy (code : Nat) : Nat := match code with | 1 => 0 | 2 => 2 | _ => 1

/-- A launch of the stream: a draw's geometry teams, or the fragment teams of an owner die. -/
def streamLaunch (s : State) (q : Nat) (e : Entry) (k : List W64) (lanes count : Nat) (args : Bytes) (role : RasterRole) : Launch :=
  { queue := q, entry := e.idx, ctx := (s.queue q).ctx, gx := max 1 count, gy := 1, tx := lanes, ty := 1, tz := 1, pair := false
    setsz := 1, width := 32, nfpol := streamPolicy (bits (e.word 7) 0 2), stage := 0, budget := budgetOf (k.getD 3 0), dkey := e.word 5
    cbudget := (e.word 6).toNat, gentry := (k.getD 0 0).toNat, centry := (k.getD 1 0).toNat, htab := (k.getD 2 0).toNat, args := args
    requeued := [], next := 0, count := count, ended := 0, skips := 0, arrival := e.arrival, status := 0, role := role }

/-- Geometry teams of a stream that are assigned to a die. -/
def assignedTo (draws : List (Nat × Nat)) (die : Nat) : Nat := draws.foldl (fun n d => n + (d.1 + 3 - die) / 4) 0

/-- The first sequence of the m-th geometry team assigned to a die; the draws are numbered from `draw` (R233, R234). -/
def teamSeq : List (Nat × Nat) → Nat → Nat → Nat → Option Nat
  | [], _, _, _ => none
  | d :: ds, draw, die, m =>
    let n := (d.1 + 3 - die) / 4
    if m < n then some (draw * 2 ^ 32 + (die + 4 * m) * 4096) else teamSeq ds (draw + 1) die (m - n)

def addLaunch (s : State) (l : Launch) : State :=
  let (id, s) := s.fresh
  { s with launches := tput s.launches id l }

def startStream (s : State) (q : Nat) (e : Entry) : StartAns × State :=
  let ctx := (s.queue q).ctx
  if streamBad e then (.status 1, s)
  else
    match readTable ctx 64 (fun _ w => kernelBad w) [(0, (e.word 1).toNat), (1, (e.word 2).toNat)] s with
    | (.error .wait, s) => (.wait, s)
    | (.error _, s) => (.status 2, s)
    | (.ok ks, s) =>
      let gk := ks.getD 0 []
      let fk := ks.getD 1 []
      match readCtx s ctx true (e.word 3).toNat 64 with
      | (.wait, s) => (.wait, s)
      | (.bad _, s) => (.status 1, s)
      | (.ok rb, s) =>
        let d : BitVec 512 := BitVec.ofNat 512 (natOf rb)
        if rsBad d then (.status 1, s)
        else if (budgetOf (fk.getD 3 0)).vregs < 8 || (budgetOf (fk.getD 3 0)).sregs < 16 then (.status 2, s)
        else
          let draw0 := bits (e.word 4) 0 32
          let dcnt := bits (e.word 4) 32 32
          let nview := bits d 64 8
          let rtn := bits d 441 3
          match readTable ctx 64 (fun _ _ => false) ((List.range nview).map fun v => (v, bits d 0 57 + 64 * v)) s with
          | (.error a, s) => (a, s)
          | (.ok views, s) =>
            match readTable ctx 64 targetBad ((List.range (rtn + 1)).map fun t => (t, bits d 384 57 + 64 * t)) s with
            | (.error a, s) => (a, s)
            | (.ok targets, s) =>
              match readTable ctx 32 (fun _ w => drawBad w) ((List.range dcnt).map fun j => (j, bits d 192 57 + 32 * j)) s with
              | (.error a, s) => (a, s)
              | (.ok dws, s) =>
                match readArgs ctx dws s with
                | (.error a, s) => (a, s)
                | (.ok args, s) =>
                  let groups (n : Nat) : Nat := ceilDiv n 32
                  let most := dws.foldl (fun n w => max n (groups (bits (w.getD 0 0) 20 11))) 0
                  if !slotsFit s ctx most 32 (budgetOf (gk.getD 3 0)) || !slotsFit s ctx 8 32 (budgetOf (fk.getD 3 0)) then (.status 3, s)
                  else
                    let draws := dws.map fun w => (bits (w.getD 0 0) 0 20, bits (w.getD 0 0) 32 5)
                    let (k, s) := s.fresh
                    let source (die : Nat) : Source :=
                      { emits := [], w := teamSeq draws draw0 die 0, spilled := 0 }
                    let st : Stream :=
                      { queue := q, entry := e.idx, ctx := ctx, rsdesc := (e.word 3).toNat, desc := d
                        views := (List.range nview).map fun v => (v, words32 16 (natOf ((views.getD v []).flatMap fun x => bytesOf 8 x.toNat)))
                        targets := targets, omap := [], gkrec := gk, fkrec := fk, draw0 := draw0, dcnt := dcnt, draws := draws
                        dkey := e.word 5, cbudget := (e.word 6).toNat, pol := streamPolicy (bits (e.word 7) 0 2)
                        wins := (s.context ctx).regs.filter fun r => decide (r.1 < 0x80), live := []
                        assigned := (List.range 4).map fun die => (die, assignedTo draws die)
                        sources := (List.range 4).map fun die => (die, source die)
                        owners := (List.range 4).map fun die => (die, default), fault := false }
                    let s := { s with streams := tput s.streams k st }
                    let s := (((List.range dws.length).zip dws).zip args).foldl (fun s p =>
                      let n := draw0 + p.1.1
                      addLaunch s (streamLaunch s q e gk (bits (p.1.2.getD 0 0) 20 11) (bits (p.1.2.getD 0 0) 0 20) (bytesOf 8 n ++ p.2)
                        (.geometry k n))) s
                    (.started, (List.range 4).foldl (fun s die => addLaunch s (streamLaunch s q e fk 256 0 [] (.fragment k die))) s)

/-- A WAITPREV entry starts as an acquire at device scope (R67): on every core, before a team of it is placed (log 65). -/
def startAcquire (s : State) (e : Entry) : State := if e.waitPrev then (List.range 128).foldl acquireL1 s else s

/-- LAUNCH_START (R62 to R65, R90): a decoded launch or raster stream whose turn it is starts, or completes with a status. -/
def execLaunchStart (q idx : Nat) (s : State) : Host.Outcome State Fault Refusal :=
  .next <|
    match (s.queue q).entry? idx with
    | none => s
    | some e =>
      if !mayStart (s.queue q) e || e.fmt ≠ 0 || e.isBarrier then s
      else
        match (if e.type = 1 then startLaunch s q e else startStream s q e) with
        | (.wait, s) => s
        | (.status st, s) => completeEntry (setEntry s q idx .started) q idx st
        | (.started, s) => settleQueue (setEntry (startAcquire s e) q idx .started) q

/-! ## The end of a team, as its launch sees it (R67, R238, R243) -/

/-- A launch whose every team has ended completes its entry; a stream's launches end with their stream. -/
def launchDone (s : State) (lid : Nat) : State :=
  match s.launch? lid with
  | none => s
  | some l =>
    if l.role ≠ .none || l.ended < l.count then s
    else completeEntry { s with launches := tdel s.launches lid } l.queue l.entry l.status

/-- One more team of a launch has ended; `fault` for one that ended by R123. -/
def teamGone (s : State) (lid : Nat) (fault : Bool) : State :=
  let s := s.modLaunch lid fun l => { l with ended := l.ended + 1, status := if fault && l.status = 0 then 4 else l.status }
  let s := match s.launch? lid with
    | some l =>
      match l.role with
      | .none => s
      | .geometry k _ | .fragment k _ => s.modStream k fun st => { st with fault := st.fault || fault }
    | none => s
  launchDone s lid

end Sys2Proof.Machine
end

