-- ==== Sys2Proof/Machine/Distributor.lean ====
section
/-! DEFINITION. The distributor: ready launches (R71, R83), placement units and what they occupy (R72 to R78, R90, R100),
a team's first residency (R79, R102, R104, R147, R241) and its restoration (R94, R96, R98), and GROW (R331). -/

namespace Sys2Proof.Machine

/-! ## What is in use (R75) -/

/-- A resident team of a core as its launch describes it. -/
def launchesOn (s : State) (core : Nat) : List (Nat × Team × Launch) :=
  (s.onCore core).filterMap fun p => (s.launch? p.2.launch).map fun l => (p.1, p.2, l)

/-- A partition's use: half slots, vector and scalar registers. -/
structure PartUse where
  halves : List Nat
  vregs : Nat
  sregs : Nat
  deriving DecidableEq, Repr, Inhabited

def partUse (s : State) (core part : Nat) : PartUse :=
  (launchesOn s core).foldl (fun u p =>
    let gs := p.2.1.groups.filter fun g => g.core = core && g.part = part
    ⟨u.halves ++ gs.flatMap (·.halves), u.vregs + gs.length * (p.2.2.width * p.2.2.budget.vregs), u.sregs + gs.length * p.2.2.budget.sregs⟩)
    ⟨[], 0, 0⟩

/-- Half slots that a group of a width takes, if the partition has them (R75, R76). -/
def takeHalves (w : Nat) (used : List Nat) : Option (List Nat) :=
  let free := (List.range 16).filter fun k => 2 * k ∉ used && 2 * k + 1 ∉ used
  if w = 16 then
    match (List.range 16).find? fun k => decide (2 * k ∈ used) != decide (2 * k + 1 ∈ used) with
    | some k => some [if 2 * k ∈ used then 2 * k + 1 else 2 * k]
    | none => free.head?.map fun k => [2 * k]
  else if w = 32 then free.head?.map fun k => [2 * k, 2 * k + 1]
  else match free with
    | a :: b :: _ => some [2 * a, 2 * a + 1, 2 * b, 2 * b + 1]
    | _ => none

/-- Where one group goes: the partition with the most free slot capacity in which it fits, then the lowest number. -/
def placeGroup (l : Launch) (us : List PartUse) : Option (Nat × List Nat) :=
  let cand := (List.range us.length).filterMap fun p =>
    let u := us.getD p default
    match takeHalves l.width u.halves with
    | some h => if u.vregs + l.width * l.budget.vregs ≤ 32768 && u.sregs + l.budget.sregs ≤ 1024 then some (p, h, u.halves.length) else none
    | none => none
  (pickBest (fun a b => decide (a.2.2 < b.2.2) || (a.2.2 = b.2.2 && decide (a.1 < b.1))) cand).map fun x => (x.1, x.2.1)

/-- The groups of a core in index order, each in its partition and half slots; none when one does not fit. -/
def placeGroups (l : Launch) : Nat → List PartUse → Option (List (Nat × List Nat))
  | 0, _ => some []
  | n + 1, us =>
    match placeGroup l us with
    | none => none
    | some (p, h) =>
      let us := us.modify p fun u => ⟨u.halves ++ h, u.vregs + l.width * l.budget.vregs, u.sregs + l.budget.sregs⟩
      (placeGroups l n us).map fun r => (p, h) :: r

def coreParts (s : State) (core : Nat) : List PartUse := (List.range 16).map fun p => partUse s core p

/-- Vector registers that a core has free. -/
def freeVregs (s : State) (core : Nat) : Nat := 16 * 32768 - ((coreParts s core).foldl (fun n u => n + u.vregs) 0)

/-- Team places in use on a core. -/
def usedPlaces (s : State) (core : Nat) : List Nat := (s.onCore core).map fun p => p.2.placeOn core

def freePlace (s : State) (core : Nat) : Option Nat := (List.range 16).find? fun k => k ∉ usedPlaces s core

def callerRegs (s : State) (core : Nat) : Nat :=
  (launchesOn s core).foldl (fun n p => if p.2.1.home = core then n + p.2.2.budget.cregs else n) 0

/-- Scratchpad ranges in use on a core: those of its teams, and of exited members whose set has not exited (R149). -/
def scratchRanges (s : State) (core : Nat) : List (Nat × Nat) :=
  s.teams.filterMap fun p =>
    match s.launch? p.2.launch with
    | some l => if p.2.home = core && !p.2.cores.isEmpty && (p.2.resident || p.2.life = .ended) && l.budget.scr ≠ 0 then some (p.2.scratch, l.budget.scr) else none
    | none => none

/-- The lowest contiguous 256-byte aligned range of a size that is free below the top 16 KiB. -/
def freeScratch (s : State) (core n : Nat) : Option Nat :=
  let rs := scratchRanges s core
  let clear (b : Nat) : Bool := decide (b + n ≤ 1032192) && rs.all fun r => decide (b + n ≤ r.1) || decide (r.1 + r.2 ≤ b)
  pickBest (fun a b => decide (a < b)) ((0 :: rs.map fun r => r.1 + r.2).filter clear)

/-! ## Partitions and contexts (R71, R94, R99, R100) -/

/-- Whether a core holds teams of a partition. -/
def holdsPart (s : State) (core part : Nat) : Bool := (s.onCore core).any fun p => s.partOf p.2.ctx = part

def heldCores (s : State) (part : Nat) : Nat := ((List.range 128).filter fun c => holdsPart s c part).length

/-- CORES of a partition. -/
def quotaOf (s : State) (part : Nat) : Nat := bits (s.devReg part) 0 8

/-- The core may take a team of the context, its quota apart: its world, its partition, and no saved team of another
context that must return to it. -/
def coreOpen (s : State) (ctx core : Nat) : Bool :=
  s.coreSecure core = (s.context ctx).secure && core ∉ s.pkg.noPlace &&
  (s.onCore core).all (fun p => s.partOf p.2.ctx = s.partOf ctx) &&
  s.teams.all fun p => !(p.2.life = .pending && p.2.save.isSome && p.2.affine && core ∈ p.2.cores && p.2.ctx ≠ ctx)

/-- Cores newly taken for the partition stay within its quota. -/
def quotaFits (s : State) (part : Nat) (cores : List Nat) : Bool :=
  let new := (cores.filter fun c => !holdsPart s c part).length
  new = 0 || decide (heldCores s part + new ≤ quotaOf s part)

/-! ## Placement units (R72, R74, R78) -/

/-- A team to be placed: a new one by its index, or one that exists. -/
inductive Member where
  | fresh (index : Nat)
  | known (id : Nat)
  deriving DecidableEq, Repr, Inhabited

/-- The next placement unit of a launch: re-queued teams first, a set as a whole, and then new indices, of the last set those that exist
(DESIGN CHOICE, log 109). -/
def nextUnit (s : State) (lid : Nat) (l : Launch) : List Member :=
  match l.requeued with
  | r :: _ =>
    match s.team? r with
    | none => []
    | some t =>
      let set := s.teams.filter fun p => p.2.launch = lid && p.2.index / l.setsz = t.index / l.setsz && p.2.life ≠ .ended
      if set.all fun p => p.2.life = .pending && p.1 ∈ l.requeued then
        ((List.range l.setsz).filterMap fun m => set.find? fun p => p.2.index % l.setsz = m).map fun p => .known p.1
      else []
  | [] =>
    ((List.range l.setsz).filter fun m => decide (l.next + m < l.count)).map fun m =>
      match s.teams.find? fun p => p.2.launch = lid && p.2.index = l.next + m with
      | some p => .known p.1                 -- a fragment team that has been formed (R241)
      | none => .fresh (l.next + m)

def Member.team? (s : State) : Member → Option Team
  | .fresh _ => none
  | .known id => s.team? id

/-- A member that has never run. -/
def Member.isNew (s : State) (m : Member) : Bool := match m.team? s with | some t => t.save.isNone | none => true

def Member.index (s : State) : Member → Nat
  | .fresh n => n
  | .known id => match s.team? id with | some t => t.index | none => 0

/-! ## Fit (R75 to R78, R90, R98, R233, R432) -/

/-- Where a member goes: for each of its cores, its place, and for each group its core, partition and half slots. -/
structure Spot where
  cores : List Nat
  places : List Nat
  groups : List (Nat × Nat × List Nat)
  scratch : Nat
  deriving DecidableEq, Repr, Inhabited

/-- Groups of a team (R104); a fragment team has those its fragments fill (R241). -/
def groupsOf (s : State) (l : Launch) (m : Member) : Nat :=
  let frags := match m.team? s with | some t => t.fragList.length | none => 0
  ceilDiv (if frags = 0 then l.tx * l.ty * l.tz else frags) l.width

/-- The synchronisation objects of a saved team are free on the cores (R98), and the reel slots it returns to. -/
def objectsFree (s : State) (cores : List Nat) (m : Member) : Bool :=
  match m.team? s with
  | none => true
  | some t =>
    t.sync.all (fun o =>
      let c := s.core (cores.getD o.pos 0)
      match o.kind with
      | 0 => !(tget 0 c.barriers o.num).getLsbD 33
      | 1 => !(tget 0 c.tickets o.num).getLsbD 56
      | _ => !(tget 0 c.rings o.num).getLsbD 224) &&
    t.reelSaved.all fun r => (tget default (s.core (cores.headD 0)).reel r.1).holder.isNone

/-- Fit of a member on one core, or on both cores of a pair (R76, R77). -/
def fitOn (s : State) (l : Launch) (m : Member) (cores : List Nat) : Option Spot :=
  let home := cores.headD 0
  let n := groupsOf s l m
  let first := if cores.length = 2 then ceilDiv n 2 else n
  let places := cores.filterMap fun c => freePlace s c
  if !(cores.all fun c => coreOpen s l.ctx c) || places.length ≠ cores.length || 1024 < callerRegs s home + l.budget.cregs ||
      !objectsFree s cores m then none
  else
    match freeScratch s home l.budget.scr, placeGroups l first (coreParts s home), placeGroups l (n - first) (coreParts s (cores.getD 1 0)) with
    | some b, some g0, some g1 =>
      some ⟨cores, places, g0.map (fun g => (home, g.1, g.2)) ++ g1.map (fun g => (cores.getD 1 0, g.1, g.2)), b⟩
    | _, _, _ => none

/-- The cores, or pairs, of an eight-core set or of the package. -/
def coreChoices (l : Launch) (lo n : Nat) : List (List Nat) :=
  if l.pair then (List.range (n / 2)).map fun k => [lo + 2 * k, lo + 2 * k + 1] else (List.range n).map fun k => [lo + k]

/-- R76 and R77: the fewest resident teams, then the most free vector registers for a single core, then the lowest number. -/
def betterSpot (s : State) (a b : Spot) : Bool :=
  let teams (x : Spot) : Nat := (x.cores.map fun c => (s.onCore c).length).foldl min 16
  let free (x : Spot) : Nat := if x.cores.length = 1 then freeVregs s (x.cores.headD 0) else 0
  let key (x : Spot) : Nat := x.cores.headD 0
  decide (teams a < teams b) || (teams a = teams b && (decide (free b < free a) || (free a = free b && decide (key a < key b))))

/-- Geometry teams stay on the die of their index, while fewer than GMAX of the stream are live there and its emission port
has a free set (R233, R432); fragment teams on the die of their owner (R76). -/
def rasterAllows (s : State) (l : Launch) (m : Member) (core : Nat) : Bool :=
  match l.role with
  | .none => true
  | .fragment _ die => core / 32 = die
  | .geometry k _ =>
    let die := m.index s % 4
    core / 32 = die &&
    (!m.isNew s ||
      (match s.stream? k with
       | some st =>
         decide ((tget [] st.live die).length < rsGmax st) &&
         decide ((s.teams.filter fun p => p.2.life ≠ .ended && p.2.index % 4 = die && p.2.save.isSome &&
            (match s.launch? p.2.launch with | some x => (match x.role with | .geometry _ _ => true | _ => false) | none => false)).length < 8)
       | none => false))

/-- The core or pair that an affine team was saved from (R94). -/
def pinnedTo (s : State) (m : Member) : Option (List Nat) :=
  match m.team? s with
  | some t => if t.affine && t.save.isSome then some t.cores else none
  | none => none

/-- Members that are not pinned take cores in ascending order, within the quota: the lowest cores with which every member fits
(R78). -/
def fillMembers (s : State) (l : Launch) (held : List (List Nat)) : List Member → List (List Nat) → List Nat → Option (List Spot)
  | [], _, _ => some []
  | m :: ms, choices, taken =>
    match pinnedTo s m with
    | some cs =>
      match fitOn s l m cs with
      | some x => (fillMembers s l held ms choices (taken ++ cs)).map fun r => x :: r
      | none => none
    | none =>
      let ok (cs : List Nat) : Bool :=
        cs ∉ held && (cs.all fun c => c ∉ taken) && quotaFits s (s.partOf l.ctx) (taken ++ cs ++ held.flatten).eraseDups
      (choices.filter ok).findSome? fun cs =>
        match fitOn s l m cs with
        | some x => (fillMembers s l held ms (choices.filter fun d => decide (cs.headD 0 < d.headD 0)) (taken ++ cs)).map fun r => x :: r
        | none => none

/-- The whole set on one eight-core set (R78): the one with the fewest resident teams, then the lowest number. A partner-pair team
counts once (DESIGN CHOICE, log 89). -/
def fitSet (s : State) (l : Launch) (u : List Member) : Option (List Spot) :=
  let held := u.filterMap fun m => pinnedTo s m
  let cand := (List.range 16).filterMap fun k =>
    if held.all fun cs => cs.headD 0 / 8 = k then
      (fillMembers s l held u (coreChoices l (8 * k) 8) []).map fun x => (k, x)
    else none
  let good := cand.filter fun x => quotaFits s (s.partOf l.ctx) (x.2.flatMap (·.cores))
  let teams (k : Nat) : Nat := (s.residents.filter fun p => p.2.cores.any fun c => c / 8 = k).length
  (pickBest (fun a b => decide (teams a.1 < teams b.1) || (teams a.1 = teams b.1 && decide (a.1 < b.1))) good).map (·.2)

/-- Free save slots for new teams (R90). -/
def usedSlots (s : State) (ctx : Nat) : List Nat := s.teams.filterMap fun p => if p.2.ctx = ctx && p.2.life ≠ .ended then p.2.save else none

def freeSlots (s : State) (ctx n : Nat) : Option (List Nat) :=
  let used := usedSlots s ctx
  let free := ((List.range (min (bits (s.ctxReg ctx 0x82) 32 16) (used.length + n))).filter fun k => k ∉ used).take n
  if free.length = n then some free else none

/-- Fit(u) (R72, R76 to R78, R90). -/
def fitUnit (s : State) (l : Launch) (u : List Member) : Option (List Spot) :=
  let new := (u.filter fun m => m.isNew s).length
  if u = [] || (freeSlots s l.ctx new).isNone then none
  else
    match u with
    | [m] =>
      if 1 < l.setsz then fitSet s l u
      else
        let choices := match pinnedTo s m with | some cs => [cs] | none => coreChoices l 0 128
        pickBest (betterSpot s) (choices.filterMap fun cs =>
          if rasterAllows s l m (cs.headD 0) && quotaFits s (s.partOf l.ctx) cs then fitOn s l m cs else none)
          |>.map fun x => [x]
    | _ => fitSet s l u

/-! ## Taking a core (R102, R147) -/

/-- The core passes to a partition: its counters are kept in the old one's block and taken from the new one's. A core without an owner
yet counts as partition 0's (DESIGN CHOICE, log 111). -/
def ownCore (s : State) (core part : Nat) : State :=
  let c := s.core core
  let old := c.lastPart.getD 0
  if old = part then s.modCore core fun c => { c with lastPart := some part }
  else
    let key (p k : Nat) : Nat := (128 * p + core) * 16 + k
    let s := { s with partPmc := (List.range 8).foldl (fun t k =>
      tset 0 (tset 0 t (key old k) (tget 0 c.pmc k)) (key old (8 + k)) (tget 0 c.pmcc k)) s.partPmc }
    s.modCore core fun c =>
      { c with lastPart := some part
               pmc := (List.range 8).foldl (fun t k => tset 0 t k (tget 0 s.partPmc (key part k))) c.pmc
               pmcc := (List.range 8).foldl (fun t k => tset 0 t k (tget 0 s.partPmc (key part (8 + k)))) c.pmcc }

/-- The typed stores and the reel are zero for another context. -/
def serveCtx (s : State) (core ctx : Nat) : State :=
  s.modCore core fun c =>
    if c.lastCtx.isSome && c.lastCtx ≠ some ctx then
      { c with weight := [], act := [], scale := [], stamps := [], badWords := c.badWords.filter fun b => b.1 = 3
               reel := c.reel.map fun r => (r.1, { r.2 with data := [] }), lastCtx := some ctx }
    else { c with lastCtx := some ctx }

def takeCores (s : State) (cores : List Nat) (ctx : Nat) : State :=
  cores.foldl (fun s c => serveCtx (ownCore s c (s.partOf ctx)) c ctx) s

/-! ## A first residency (R79, R104, R108, R128, R154, R241) -/

/-- The lanes of a group that exist (R104). -/
def groupMask (l : Launch) (g : Nat) : W64 := lowMask (min l.width (l.tx * l.ty * l.tz - g * l.width))

/-- A unit at its entry; register values at the start are 0 (log 16). -/
def newUnit (core part : Nat) (halves : List Nat) (x : W64) (entry cycle : Nat) : UnitState :=
  { (default : UnitState) with core := core, part := part, halves := halves, lastIssue := cycle, x := x, main := Thread.at entry cycle }

/-- The start registers of a fragment group (R241); any other group starts as it is. -/
def fragStart (t : Team) (g : Nat) (u : UnitState) : UnitState :=
  let mine := t.fragList.filter fun f => f.unit = g
  let live := maskOf (mine.map (·.lane))
  if t.fragList = [] then u
  else
    mine.foldl (fun u f =>
      let u := u.setVwords 0 f.lane
        [BitVec.ofNat 32 (f.w.px + 65536 * f.w.py), f.w.l1, f.w.l2, f.w.depth, BitVec.ofNat 32 (f.w.view + if f.w.back then 256 else 0)]
      u.setVwords 6 f.lane (words32 2 f.w.rcd)) ({ u with x := live }.setSreg 1 live)

/-- The team of a member that has never run, with what it takes at its first placement. -/
def newTeam (s : State) (lid : Nat) (l : Launch) (m : Member) (x : Spot) (slot : Nat) : Team :=
  let home := x.cores.headD 0
  let cycle (c : Nat) : Nat := (s.core c).cycles.toNat
  let base : Team := match m.team? s with | some t => t | none => { (default : Team) with launch := lid, index := m.index s, ctx := l.ctx }
  let groups := ((List.range x.groups.length).zip x.groups).map fun p =>
    fragStart base p.1 (newUnit p.2.1 p.2.2.1 p.2.2.2 (groupMask l p.1) l.gentry (cycle p.2.1))
  { base with
    life := .running, cores := x.cores, places := x.places, scratch := x.scratch, save := some slot, save0 := s.ctxReg l.ctx 0x81
    save1 := s.ctxReg l.ctx 0x82, budget := l.cbudget, wins := (s.context l.ctx).regs.filter fun r => decide (r.1 < 0x80)
    caller := newUnit home 0 [] 1 l.centry (cycle home), groups := groups }

/-! ## Restoration (R89, R92, R94, R96 to R98, R167, R216, R229) -/

/-- Intermediate address of a team's save slot (R89). -/
def slotBase (t : Team) : Nat := bits t.save0 0 57 + t.save.getD 0 * bits t.save1 0 16 * 65536

/-- What the pages of a team's save slot answer (R89). -/
def slotCheck (s : State) (t : Team) (l : Launch) (write : Bool) : EngAns :=
  let n := saveSize t.rsave t.groups.length l.width l.budget
  let sec := (s.context t.ctx).secure
  let vs := (rangePoints 16 (slotBase t) n).map fun a => (a, verdict s sec write a)
  match vs.find? fun v => match v.2 with | .refuse _ _ => true | _ => false with
  | some (a, .refuse k _) => .stop (if k = 0x0A then 0x0A else 0x06) 0 a
  | _ =>
    if vs.any fun v => v.2 = .moving then .wait
    else if !write && (List.range n).any fun i => homeBad s (slotBase t + i) then .stop 0x0A 0 (slotBase t)
    else .ok

/-- Invalid entries of a save slot's pages are noted (R46, R132). -/
def slotNote (s : State) (t : Team) (l : Launch) : State :=
  (rangePoints 16 (slotBase t) (saveSize t.rsave t.groups.length l.width l.budget)).foldl (fun s a => noteInvalid s a) s

/-- The outputs of a fragment team are handed to the render output unit of its die; a team that ended by R123 leaves its
fragments discarded (R242, R243). -/
def handFragments (s : State) (id : Nat) (t : Team) : State :=
  match s.launch? t.launch with
  | none => s
  | some l =>
    match l.role with
    | .fragment k die =>
      s.modStream k fun st =>
        let o := tget default st.owners die
        let outs (f : Frag) : List (Nat × List W32) := (t.outs.filter fun x => x.unit = f.unit && x.lane = f.lane).map fun x => (x.target, x.rgba)
        let o := { o with inUse := o.inUse.filter fun r => r.2 ≠ id }
        let o : Owner :=
          if t.fatal then { o with live := t.fragList.foldl (fun l f => l.erase (f.w.seq, f.w.view, f.w.px, f.w.py)) o.live }
          else { o with ready := o.ready ++ t.fragList.map (fun f => (f, outs f)) }
        { st with owners := tput st.owners die o }
    | _ => s

/-- A team whose save slot cannot be used ends as under R123, and its state is lost (R89). -/
def loseTeam (s : State) (id : Nat) (cause : Byte) : State :=
  match s.team? id with
  | none => s
  | some t =>
    let s := (recordFatal s ⟨id, none⟩ cause 0 0).noteAddr t.ctx (slotBase t)
    let s := s.modLaunch t.launch fun l => { l with requeued := l.requeued.erase id }
    teamGone ((handFragments s id { t with fatal := true }).delTeam id) t.launch true

/-- A unit at its new place. -/
def moveUnit (s : State) (u : UnitState) (x : Nat × Nat × List Nat) : UnitState :=
  { u with core := x.1, part := x.2.1, halves := x.2.2, lastIssue := (s.core x.1).cycles.toNat }

/-- A synchronisation object back in its core, under the team's place there. -/
def restoreObject (cores places : List Nat) (s : State) (o : SyncObj) : State :=
  let core := cores.getD o.pos 0
  let place := places.getD o.pos 0
  match o.kind with
  | 0 => s.modCore core fun c => { c with barriers := tset 0 c.barriers o.num (setBits (o.word.setWidth 64) 40 4 place) }
  | 1 => s.modCore core fun c => { c with tickets := tset 0 c.tickets o.num (setBits (o.word.setWidth 64) 57 4 place) }
  | _ => s.modCore core fun c => { c with rings := tset 0 c.rings o.num (setBits o.word 225 4 place), filled := c.filled ++ o.filled.map fun i => (o.num, i) }

/-- What a save withdrew is issued again, withdrawn engine operations included, before normal issue resumes (R98). -/
def reissue (t : Team) (g : Option Nat) (u : UnitState) : UnitState :=
  let mine := (t.withdrawn.filter fun p => p.1 = g).map (·.2)
  { u with replays := (mine.foldl (fun l r => insertReplay r l) u.replays).map fun r => { r with restored := true } }

/-- A saved team becomes resident again: every block of its save area is restored (R98). -/
def restoreTeam (s : State) (id : Nat) (t : Team) (l : Launch) (x : Spot) : State :=
  let home := x.cores.headD 0
  let u : Team :=
    { t with
      life := .running, cores := x.cores, places := x.places, scratch := x.scratch, budget := l.cbudget, expired := false, grace := none
      wins := (s.context t.ctx).regs.filter fun r => decide (r.1 < 0x80)
      caller := moveUnit s (reissue t none t.caller) (home, 0, [])
      groups := (t.groups.zipIdx.zip x.groups).map fun p => moveUnit s (reissue t (some p.1.2) p.1.1) p.2
      withdrawn := []
      sync := [], matSaved := [], reelSaved := [], cursorSaved := none, scratchSaved := [] }
  let s := s.setTeam id u
  let s := (u.refs id).foldl (fun s r => s.pass (.team id) (.unit r)) s
  let s := x.cores.foldl (fun s c => acquireL1 s c) s
  let s := t.sync.foldl (restoreObject x.cores x.places) s
  let s := s.modCore home fun c =>
    { c with
      scratch := (List.range l.budget.scr).foldl (fun b i => tset 0 b (x.scratch + i) (tget 0 t.scratchSaved i)) c.scratch
      reel := t.reelSaved.foldl (fun r p => tput r p.1 p.2) c.reel
      bindings := match t.cursorSaved with | some b => tput c.bindings (x.places.headD 0) b | none => c.bindings }
  -- its matrix operations are accepted again in their order (R216)
  t.matSaved.foldl (fun s op =>
    let (tag, s) := s.fresh
    s.modCore home fun c => { c with matq := c.matq ++ [{ op with tag := tag, active := false }] }) s

/-- A chain of a restored team runs again from its restart entry (R95, R96), on a channel that it takes or waits for as XCOPY does
(R192), each with a place of its own among those that wait. -/
def restartChain (s : State) (id : Nat) (r : Restart) : State :=
  match s.team? id with
  | none => s
  | some t =>
    let core := t.cores.getD r.pos t.home
    let me : UnitRef × Nat := (⟨id, none⟩, 100 + r.pos)
    match nextChannel s core me with
    | none =>
      let ahead := (t.restarts.takeWhile fun x => x ≠ r).filter fun x => x.pos = r.pos
      { s with copyWait := if ahead.length < s.copyWait.count me then s.copyWait else s.copyWait ++ [me] }
    | some n =>
      let s := { s with copyWait := s.copyWait.erase me }
      let pol := match s.launch? t.launch with | some l => l.nfpol | none => 0
      let s := (s.forget fun p => p = .chain n).pass (.team id) (.chain n)
      let s := startChain s n r.record core (t.placeOn core) id t.ctx pol t.wins
      let s := s.modChannel n fun c => { c with seq := r.seq, skip := r.skip, slot := r.reserved }
      s.setTeam id { t with restarts := t.restarts.erase r }

/-- Restart entries of resident teams are taken up. -/
def restartChains (s : State) : State :=
  (s.residents.filter fun p => p.2.life = .running && p.2.restarts ≠ []).foldl (fun s p =>
    p.2.restarts.foldl (fun s r => restartChain s p.1 r) s) s

/-! ## DISTRIBUTOR_DECISION (R71, R72, R331) -/

/-- A stage table entry: SEN, OCC, HIGH, LOW, MIN and MAX (R83). -/
structure Stage where
  occ : Nat
  high : Nat
  low : Nat
  min : Nat
  max : Nat
  deriving DecidableEq, Repr, Inhabited

/-- An enabled entry, or none (R83); one whose OCC is not aligned counts as none too (DESIGN CHOICE, log 88). -/
def stageOf (w : List W64) : Option Stage :=
  let a := w.getD 0 0
  let b := w.getD 1 0
  let c := w.getD 2 0
  let x : Stage := ⟨bits a 0 57, bits b 0 32, bits b 32 32, bits c 0 16, bits c 16 16⟩
  if !c.getLsbD 32 || bits a 57 7 ≠ 0 || bits c 33 31 ≠ 0 || w.getD 3 0 ≠ 0 || x.high ≤ x.low || x.max < x.min || x.min = 0 || x.occ % 8 ≠ 0 then none
  else some x

/-- EN = 1 and a period that is not 0 (R83). -/
def governed (s : State) (ctx : Nat) : Bool := (s.ctxReg ctx 0x83).getLsbD 0 && bits (s.ctxReg ctx 0x83) 16 16 ≠ 0

/-- The stage table entry of a stage, read through the context's windows; one that cannot be read counts as SEN = 0. -/
def stageEntry (s : State) (ctx n : Nat) : Option Stage × State :=
  match readCtx s ctx false (bits (s.ctxReg ctx 0x84) 0 57 + 32 * n) 32 with
  | (.ok bs, s) => (stageOf (wordsOf bs), s)
  | (_, s) => (none, s)

/-- Whether a launch is a stage launch (R83). -/
def isStage (s : State) (l : Launch) : Bool :=
  (s.ctxReg l.ctx 0x83).getLsbD 0 && l.role = .none && (stageEntry s l.ctx l.stage).1.isSome

/-- Teams of a launch that have never run, or that were saved. -/
def pendingTeams (l : Launch) : Bool := l.requeued ≠ [] || decide (l.next < l.count)

/-- An earlier launch of the same queue, or an earlier draw of the same stream, that must place its teams first (R67,
R233). -/
def heldBack (s : State) (lid : Nat) (l : Launch) : Bool :=
  s.launches.any fun p => p.2.queue = l.queue && decide (p.1 < lid) &&
    ((p.2.role = .none || p.2.entry ≠ l.entry) && l.next = 0 && p.2.next = 0 && p.2.count ≠ 0 ||
     (match p.2.role, l.role with | .geometry a _, .geometry b _ => a = b && pendingTeams p.2 | _, _ => false))

/-- Ready launches (R71): a partition that holds exactly its quota is not full, and the earlier launch on a stage is the one that started
first (DEDUCED, log 108). -/
def isReady (s : State) (lid : Nat) (l : Launch) : Bool :=
  let q := s.queue l.queue
  let part := s.partOf l.ctx
  q.slot.isSome && pendingTeams l && (q.allowance = 0 || 0 < q.allow) && !(s.ctxReg l.ctx 0x85).getLsbD 0 && quotaOf s part ≠ 0 &&
  decide (heldCores s part ≤ quotaOf s part) && !heldBack s lid l &&
  !(isStage s l && s.launches.any fun p => decide (p.1 < lid) && p.2.ctx = l.ctx && p.2.stage = l.stage && isStage s p.2)

/-- A launch that is not ready counts its skips from 0 (R72); events that make launches leave the ready set call this. -/
def settleSkips (s : State) : State :=
  { s with launches := s.launches.map fun p => if isReady s p.1 p.2 then p else (p.1, { p.2 with skips := 0 }) }

/-- The order of L: DKEY, queue priority, arrival; launches of one entry in the order in which they were made. -/
def launchBefore (s : State) (a b : Nat × Launch) : Bool :=
  let pa := (s.queue a.2.queue).prio
  let pb := (s.queue b.2.queue).prio
  decide (a.2.dkey.toNat < b.2.dkey.toNat) || (a.2.dkey = b.2.dkey && (decide (pb < pa) || (pa = pb &&
    (decide (a.2.arrival < b.2.arrival) || (a.2.arrival = b.2.arrival && decide (a.1 < b.1))))))

def insertLaunch (s : State) (x : Nat × Launch) : List (Nat × Launch) → List (Nat × Launch)
  | [] => [x]
  | y :: l => if launchBefore s x y then x :: y :: l else y :: insertLaunch s x l

/-- A team of a WAITPREV entry follows what the teams of the earlier entries of its queue have done (R67). -/
def startSync (s : State) (id : Nat) (t : Team) (l : Launch) : State :=
  if (match (s.queue l.queue).entry? l.entry with | some e => e.waitPrev | none => false) then
    s.order.know.foldl (fun s p =>
      match p.1 with
      | .entry q i => if q = l.queue && decide (i < l.entry) then (t.refs id).foldl (fun s r => s.learn (.unit r) p.2) s else s
      | _ => s) s
  else s

/-- One member at its spot: a first residency, or a restoration, which a save slot may refuse (R89). -/
def placeMember (lid : Nat) (s : State) (p : Member × Spot × Option Nat) : State :=
  match s.launch? lid with
  | none => s
  | some l =>
    let (m, x, slot) := p
    let s := takeCores s x.cores l.ctx
    match m.team? s, slot with
    | some t, none =>
      match m with
      | .known id =>
        match slotCheck s t l false with
        | .stop k _ _ => loseTeam (slotNote s t l) id k
        | _ => (restoreTeam s id t l x).modLaunch lid fun l => { l with requeued := l.requeued.erase id }
      | .fresh _ => s
    | _, _ =>
      -- the record that a rasteriser has written is visible to the team from its first issue (R241)
      let s := match l.role with | .fragment _ _ => x.cores.foldl acquireL1 s | _ => s
      let t := newTeam s lid l m x (slot.getD 0)
      let (id, s) : Nat × State := match m with
        | .known id => (id, s)
        | .fresh _ => s.fresh
      let s := startSync (s.setTeam id t) id t l
      let s := s.modLaunch lid fun l => { l with next := l.next + 1 }
      match l.role with
      | .geometry k _ =>
        let die := t.index % 4
        s.modStream k fun st =>
          { st with live := tput st.live die (tget [] st.live die ++ [id]), assigned := tput st.assigned die (tget 0 st.assigned die - 1) }
      | _ => s

/-- Place(u) (R72). -/
def placeUnit (s : State) (lid : Nat) (l : Launch) (u : List Member) (xs : List Spot) : State :=
  let new := (u.filter fun m => m.isNew s).length
  let slots := (freeSlots s l.ctx new).getD []
  let plan := (u.zip xs).foldl (fun (p : List (Member × Spot × Option Nat) × List Nat) y =>
    if y.1.isNew s then (p.1 ++ [(y.1, y.2, p.2.head?)], p.2.drop 1) else (p.1 ++ [(y.1, y.2, none)], p.2)) ([], slots)
  let s := plan.1.foldl (placeMember lid) s
  s.modLaunch lid fun l => { l with skips := 0 }

/-- The pages of the save slots of the members to be restored are not moving (R89). -/
def slotsStill (s : State) (l : Launch) (u : List Member) : Bool :=
  u.all fun m => match m.team? s with
    | some t => m.isNew s || slotCheck s t l false ≠ .wait
    | none => true

/-- The placement loop of R72. -/
def decide72 (s : State) : List (Nat × Launch) → State
  | [] => s
  | (lid, l) :: rest =>
    let u := nextUnit s lid l
    match (if slotsStill s l u then fitUnit s l u else none) with
    | some xs => placeUnit s lid l u xs
    | none =>
      let s := s.modLaunch lid fun l => { l with skips := l.skips + 1 }
      if 256 ≤ l.skips + 1 then s else decide72 s rest

/-- GROW_ANSWER (R331): the first request, if there is one. -/
def answerGrow (s : State) : State :=
  match s.growReqs with
  | [] => s
  | g :: l =>
    let s := { s with growReqs := l }
    match s.team? g.u.team with
    | none => s
    | some t =>
      let n := match s.launch? t.launch with | some x => x.count | none => 0
      let s := s.modLaunch t.launch fun x => { x with count := x.count + g.k }
      s.modUnit g.u fun u => u.modThread g.slot fun th =>
        match th.park with | .grow _ => { th with park := .grow (some (BitVec.ofNat 64 n)) } | _ => th

/-- DISTRIBUTOR_DECISION (R72): a GROW request is answered ahead of the placement; a launch that is not ready counts its
skips from 0. No core runs outside the Active state (R15). -/
def execDistributorDecision (s : State) : Host.Outcome State Fault Refusal :=
  .next <|
    if s.pkg.power ≠ .active then s
    else
    let s := restartChains (answerGrow s)
    let s := settleSkips s
    decide72 s ((s.launches.filter fun p => isReady s p.1 p.2).foldl (fun l x => insertLaunch s x l) [])

/-! ## MAPPER_PASS (R59 to R61, R66, R72) -/

/-- MAPPER_PASS (R59). FCLK is stopped outside the Active state (R15). -/
def execMapperPass (s : State) : Host.Outcome State Fault Refusal :=
  .next <|
    if s.pkg.power ≠ .active then s
    else
    let n := s.mapPass + 1
    let s := { s with mapPass := n }
    let s := (s.queues.filter fun p => p.2.slot.isSome && (isIdle p.2 || !p.2.enabled || p.2.halt)).foldl (fun s p => unmapQueue s n p.1) s
    let s := settleSkips (evictQueues n (waitingQueues s) 4 s)          -- launches of unmapped queues count from 0 (R72)
    let s := mapQueues n 64 s
    let s := (s.queues.map (·.1)).foldl (fun s q =>
      s.modQueue q fun x => { x with wait := if isWaiting s q x then x.wait + 1 else 0 }) s
    (s.queues.map (·.1)).foldl pollQueue s

end Sys2Proof.Machine
end

