-- ==== Sys2Proof/Machine/Teams.lean ====
section
/-! DEFINITION. Slices and budgets (R79 to R82), the stage governor (R84), saves (R89, R93 to R99, R216) and the end of a
team (R124, R167, R241, R243). -/

namespace Sys2Proof.Machine

/-! ## Sets and slices (R78, R80) -/

/-- The members of a team's set that have not ended (R78). -/
def setOf (s : State) (id : Nat) : List (Nat × Team) :=
  match s.team? id with
  | none => []
  | some t =>
    let n := match s.launch? t.launch with | some l => max 1 l.setsz | none => 1
    s.teams.filter fun p => p.2.launch = t.launch && p.2.index / n = t.index / n && p.2.life ≠ .ended

/-- The streams of a unit that have not arrived at a join, of those that may issue: its own, its handler's, or the sub-groups' of a
region that the handler opened (R115, R120). -/
def UnitState.standing (u : UnitState) : List Nat := allSlots.filter fun k => u.streamLive k

/-- Parked at SLICE in each of its streams, with no cause 0x0D that it takes at once (R80, R81, R115, R330; log 99). -/
def UnitState.atSlice (u : UnitState) : Bool :=
  u.standing ≠ [] && (u.standing.all fun k => (u.thread k).park = .slice) && (u.handler.isSome || !u.pending.any fun p => p.cause = 0x0D)

/-- The team is at its SLICE (R80): each unit has executed it or has exited. -/
def Team.atSlice (t : Team) : Bool := (t.caller :: t.groups).all fun u => u.exited || u.atSlice

def Team.allExited (t : Team) : Bool := (t.caller :: t.groups).all (·.exited)

def Team.raised (t : Team) : Bool := t.raisedBudget || t.raisedAllow

/-- Every member of the set is at its SLICE (R81). -/
def setAtSlice (s : State) (id : Nat) : Bool := (setOf s id).all fun p => p.2.life = .running && p.2.atSlice

/-- A unit continues after its SLICE (R80, R98). -/
def afterSlice (u : UnitState) : UnitState :=
  if !u.atSlice then u
  else u.standing.foldl (fun u k => u.modThread k fun th =>
    if th.idx + 1 < th.words.length then { th with idx := th.idx + 1, park := .none, run := false } else Thread.at th.nextPc th.lastIssue) u

def Team.mapUnits (t : Team) (f : UnitState → UnitState) : Team := { t with caller := f t.caller, groups := t.groups.map f }

/-! ## Cause 0x0D (R81, R82, R64) -/

/-- ALLOW of the trap information register (R337). -/
def allowInfo (allow : Bool) : W64 := if allow then 1#64 <<< 14 else 0

/-- Cause 0x0D raised for a team: a unit whose handler table has no entry for it ends the team at once (R64, R81); the
others take it at their boundary, each time that it is raised. A grace counter that runs goes on. -/
def raiseSlice (allow : Bool) (s : State) (id : Nat) : State :=
  match s.team? id with
  | none => s
  | some t =>
    if t.life ≠ .running then s
    else
      let s := s.modTeam id fun t =>
        { t with raisedBudget := t.raisedBudget || !allow, raisedAllow := t.raisedAllow || allow, grace := some (t.grace.getD 4096) }
      let s := (t.refs id).foldl (fun s r =>
        match s.unit? r with
        | some u =>
          if u.exited || u.handler.isSome then s
          else
            match readHtab s r 0x0D with
            | (.zero, s) => fatal s r 0x0D (tpcOf (u.thread 0).pc (max 1 (u.thread 0).idx)) 0
            | (_, s) => s
        | none => s) s
      match s.team? id with
      | some t => if t.life = .running then raiseTeam s id 0x0D (allowInfo allow) else s
      | none => s

/-- BUDGET_COUNTER_EXPIRY (R79, R81): the counter of a running team reaches 0. -/
def execBudgetCounterExpiry (team : Nat) (s : State) : Host.Outcome State Fault Refusal :=
  .next <|
    match s.team? team with
    | none => s
    | some t =>
      let cb := match s.launch? t.launch with | some l => l.cbudget | none => 0
      if t.life ≠ .running || cb = 0 || (!t.expired && t.budget = 0) then s
      else
        let s := if t.expired then s else s.elapse t.home t.budget
        if (match s.team? team with | some t => t.expired | none => false) then
          ((setOf s team).map (·.1)).foldl (raiseSlice false) (s.modTeam team fun t => { t with expired := false })
        else s

/-- ALLOWANCE_CHARGE (R82): a batch of 1,024 cycles of a team is charged to its queue. -/
def execAllowanceCharge (team : Nat) (s : State) : Host.Outcome State Fault Refusal :=
  .next <|
    match s.team? team with
    | none => s
    | some t =>
      match s.launch? t.launch with
      | none => s
      | some l =>
        let q := s.queue l.queue
        if t.life ≠ .running || q.allowance = 0 then s
        else
          let s := s.elapse t.home (1024 - t.uncharged)
          if (match s.team? team with | some t => decide (t.uncharged < 1024) | none => true) then s
          else
            let s := s.modTeam team fun t => { t with uncharged := t.uncharged - 1024 }
            let s := s.setQueue l.queue { q with allow := q.allow - 1024 }
            if q.allow = 0 || 1024 < q.allow then s
            else
              let mine := s.residents.filter fun p =>
                p.2.life = .running && (match s.launch? p.2.launch with | some x => x.queue = l.queue | none => false)
              (mine.flatMap fun p => (setOf s p.1).map (·.1)).eraseDups.foldl (raiseSlice true) (settleSkips s)

/-! ## The steps of a save before the last (R93, R95, R136, R145, R216) -/

/-- A texture, TRACE, HGATH or HSCAT operation in flight (R93 step 3, R253). -/
def engineOp (a : Access) : Bool :=
  match a.kind, a.rep.instr with
  | .scatter _ _, _ => true
  | .unit, some (.tex _) | .unit, some (.tfetch _) | .unit, some (.trace _) | .unit, some (.hgath _) => true
  | _, _ => false

/-- The instruction that a withdrawn operation is issued again with: its lanes, and for an HSCAT the step that each has reached
(R92, R253). -/
def engineReplay (a : Access) : Replay :=
  let lanes := (a.lanes.map fun l => l.lane % 64).eraseDups
  let step (l : Nat) : Nat := ((a.lanes.filter fun x => x.lane % 64 = l).map fun x => x.lane / 64).foldl min 64
  match a.kind with
  | .scatter _ _ => { a.rep with em := maskOf lanes, steps := lanes.foldl (fun t l => tput t l (step l)) a.rep.steps }
  | _ => { a.rep with em := maskOf lanes }

/-- The features that a withdrawn HGATH wrote hold free values until it is issued again (R251). -/
def spoilFeatures (s : State) (a : Access) : State :=
  match a.feats with
  | none => s
  | some (out, row, q) =>
    a.lanes.foldl (fun s l =>
      let (v, s) := s.draw (16 * q)
      (List.range q).foldl (fun s k =>
        storeWrite s a.core 0 (out + 512 * (k / 2) + 4 * (row + l.lane) + 2 * (k % 2)) (.unit a.u)
          (bytesOf 2 (bits v (16 * k) 16))) s) s

/-- Engine operations of the team in flight are withdrawn (R93 step 3): they are listed, and their destinations stay empty. -/
def withdrawEngines (s : State) (team : Nat) : State :=
  let mine := s.inflight.filter fun a => a.u.team = team && engineOp a
  let listed := mine.map fun a => (a.u.grp, engineReplay a)
  let s := mine.foldl spoilFeatures s
  { s with inflight := s.inflight.filter fun a => !(a.u.team = team && engineOp a) }.modTeam team fun t =>
    { t with withdrawn := t.withdrawn ++ listed }

/-- Accesses of the team parked at a translation unit go on their units' replay lists (R93 step 2). -/
def withdrawReplays (s : State) (team : Nat) : State :=
  let mine := s.inflight.filter fun a => a.u.team = team && a.lanes.any fun l => l.st = .parked
  let s := mine.foldl (fun s a =>
    let m := (a.lanes.filter fun l => l.st = .parked).foldl (fun m l => m ||| laneMask a l) 0
    s.modUnit a.u fun u => { u with replays := u.replays ++ [{ a.rep with em := m }] }) s
  withdrawParked s team

/-- Steps 2 and 3 of a save (R93), which an access that is parked later meets as well. -/
def withdrawAll (s : State) (team : Nat) : State := withdrawReplays (withdrawEngines s team) team

/-- Packets of a cancelled chain concern nobody. -/
def orphanOwner (n : Nat) (o : NetOwner) : NetOwner :=
  match o with
  | .copyRead ch _ _ | .copyWrite ch _ _ => if ch = n then .event 0 else o
  | _ => o

/-- A chain is cancelled (R95): its restart entry, if the team is to be restored. -/
def cancelChain (keep : Bool) (s : State) (n : Nat) : State :=
  let (skip, s) := deliverGot n s
  let s := dropLandings s n
  let ch := s.channel n
  let s : State := { s with conns := s.conns.map fun (p : Nat × Conn) =>
    (p.1, { p.2 with outstanding := p.2.outstanding.map (fun q => { q with owner := orphanOwner n q.owner })
                     waiting := p.2.waiting.map (fun q => (q.1, orphanOwner n q.2)) }) }
  let s := s.setChannel n { ch with st := .idle, slot := none, skip := [], plan := [], planEnd := none, acked := [], got := [], got_n := 0, failed := none, writes := none, wrote := [], err := none }
  let s := sweepRings s ch.core
  if !keep then s
  else s.modTeam ch.team fun t => { t with restarts := t.restarts ++
    [⟨(t.cores.findIdx? fun k => k = ch.core).getD 0, ch.cur, ch.seq, skip, ch.slot, rRing ch.record⟩] }

def cancelChains (s : State) (team : Nat) (keep : Bool) : State :=
  ((s.channels.filter fun p => p.2.team = team && p.2.st ≠ .idle).map (·.1)).foldl (cancelChain keep) s

/-- The pins of operations that leave the matrix queue end, and their request that waits is withdrawn. -/
def dropFetches (s : State) (core : Nat) (tags : List Nat) : State :=
  let running := (s.core core).matq.any fun m => m.kind.isSeq && m.active && m.tag ∈ tags
  let s := dropTiles s core fun t => t.tag ∈ tags
  if running then dropTileWait s core else s

/-- Operations leave the matrix queue. -/
def takeOps (s : State) (core : Nat) (p : MatOp → Bool) : State :=
  let tags := ((s.core core).matq.filter p).map (·.tag)
  (dropFetches s core tags).modCore core fun c => { c with matq := c.matq.filter fun m => !p m }

/-- An epilogue operation at the tail, which finishes its slot before the save ends (R216). -/
def finishing (m : MatOp) : Bool := !m.kind.isSeq && m.started && m.stop.isNone

/-- The operations of a team that are saved: all but one at the tail. -/
def holdMatrix (s : State) (id : Nat) (t : Team) : State :=
  let mine (m : MatOp) : Bool := m.team = id && !finishing m
  let held := (s.core t.home).matq.filter mine
  (takeOps s t.home mine).modTeam id fun t => { t with matSaved := t.matSaved ++ held }

/-- An issuer that waits for a copy channel leaves the order of waiting, and takes its place when it is issued again. -/
def leaveCopyWait (u : UnitState) : UnitState :=
  allSlots.foldl (fun u k => u.modThread k fun th => if th.park = .channel then { th with park := .retry } else th) u

/-- The save of a team begins (R93 steps 1 to 3). -/
def beginSave (coop : Bool) (s : State) (id : Nat) : State :=
  match s.team? id with
  | none => s
  | some t =>
    if t.life ≠ .running || t.allExited then s
    else
      let s := (t.refs id).foldl (fun s r => allSlots.foldl (fun s k => freePort s r k) s) s
      let s := s.modTeam id fun t => { t.mapUnits leaveCopyWait with life := .saving, coop := coop, grace := none }
      let s := { s with copyWait := s.copyWait.filter fun w => w.1.team ≠ id }
      closeFaults (withdrawAll s id) fun e => e.assignee.team = id

/-- A team and its set are saved (R81, R99). -/
def saveSet (coop : Bool) (s : State) (id : Nat) : State := ((setOf s id).map (·.1)).foldl (beginSave coop) s

/-- GRACE_EXPIRY (R81): 4,096 cycles after its cause was raised the set is not at its SLICE, so the hardware pre-empts it. -/
def execGraceExpiry (team : Nat) (s : State) : Host.Outcome State Fault Refusal :=
  .next <|
    match s.team? team with
    | none => s
    | some t =>
      if t.life ≠ .running then s
      else
        match t.grace with
        | none => s
        | some g =>
          let s := s.elapse t.home g
          if (match s.team? team with | some t => t.grace = some 0 | none => false) && !setAtSlice s team then saveSet false s team else s

/-- Writing PRE = 1 (R99): every resident team of the context is saved, set members together; a set at its SLICE with
cause 0x0D raised makes a cooperative save. -/
def preemptContext (s : State) (ctx : Nat) : State :=
  (s.residents.filter fun p => p.2.ctx = ctx).foldl (fun s p =>
    match s.team? p.1 with
    | some t => saveSet (t.raised && setAtSlice s p.1) s p.1
    | none => s) s

/-! ## SAVE_COMPLETE (R92, R93 steps 4, 6 and 7, R89, R98, R341) -/

/-- What step 4 of a save waits for (R93): accesses and network operations of the team. -/
def accessesOpen (s : State) (id : Nat) (t : Team) : Bool :=
  s.inflight.any (fun a => a.u.team = id) || (t.refs id).any fun r => netBusy s r

/-- Something of the team is still to be completed before its save can be written: an access, the rows of an epilogue operation (R216),
or an answer to PMAP, MIGR or GROW (R341). -/
def saveWaits (s : State) (id : Nat) (t : Team) : Bool :=
  accessesOpen s id t || (s.core t.home).matq.any (fun m => m.team = id && finishing m) ||
  (t.caller :: t.groups).any fun u => allSlots.any fun k =>
    match (u.thread k).park with | .grow none => true | .page none => true | _ => false

/-- The steps of a save in their order (R93): what is parked is withdrawn, and once the rest has completed the chains are cancelled and
the matrix operations held. -/
def saveSteps (s : State) (id : Nat) (t : Team) : State :=
  let s := withdrawAll s id
  if accessesOpen s id t then s else holdMatrix (cancelChains s id true) id t

/-- The instruction that awaited an answer, PMAP, MIGR or GROW, completes before its unit is written (R341). -/
def completeAnswer (u : UnitState) (k : Nat) : UnitState :=
  let th := u.thread k
  match th.park with
  | .grow (some v) | .page (some v) =>
    match decodeWords th.header.cls (th.words.drop th.idx) with
    | .ok (i, rest) =>
      let d := match i with | .grow f => f.d | .pmap f => f.d | .migr f => f.d | _ => 0x1FF
      (u.setSreg (d.toNat - 0x100) v).setThread k
        (if rest = [] then Thread.at th.nextPc th.lastIssue else { th with idx := th.words.length - rest.length, park := .none, run := false })
    | .error _ => u
  | _ => u

def completeAnswers (u : UnitState) : UnitState := allSlots.foldl completeAnswer u

/-- A thread of a unit that was stopped mid-clause: it continues at the saved instruction, its clause's waits met (R98); the words
of that clause are kept (log 76). -/
def stopThread (th : Thread) : Thread := { th with run := false, ahead := [] }

def stopUnit (u : UnitState) : UnitState :=
  { u with
    main := stopThread u.main
    handler := u.handler.map fun h => { h with th := stopThread h.th }
    region := { u.region with subs := u.region.subs.map fun g => { g with th := stopThread g.th } } }

/-- Lane-level causes of accesses that wait go on the replay list (R121, R93), a clause fetch is made again, and cause 0x0D is not
raised again (R81). The cause of a stopped coordinate binding stays to be delivered (R229). -/
def savePending (u : UnitState) : UnitState :=
  let ls := (u.pending.filter fun p => p.level = 0 && p.rep.acc.isSome).map (·.rep)
  { u with
    pending := u.pending.filter fun p => if p.level = 0 then p.ofBinding else p.cause ≠ 0x0D
    replays := ls.foldl (fun l r => insertReplay r l) u.replays }

/-- The synchronisation objects that a team holds (R92, R109, R198, R327). -/
def syncOf (s : State) (t : Team) : List SyncObj :=
  let home := t.home
  let place := t.placeOn home
  let bars := ((s.core home).barriers.filter fun p => p.2.getLsbD 33 && bits p.2 40 4 = place).map fun p => (⟨0, 0, p.1, p.2.setWidth 256, []⟩ : SyncObj)
  let tks := ((s.core home).tickets.filter fun p => p.2.getLsbD 56 && bits p.2 57 4 = place).map fun p => (⟨0, 1, p.1, p.2.setWidth 256, []⟩ : SyncObj)
  let rings := ((List.range t.cores.length).zip t.cores).flatMap fun c =>
    ((s.core c.2).rings.filter fun p => rgHeld p.2 && rgPlace p.2 = t.placeOn c.2 && !((s.core c.2).orphans.any fun o => o.1 = p.1)).map fun p =>
      (⟨c.1, 2, p.1, p.2, ((s.core c.2).filled.filter fun f => f.1 = p.1).map (·.2)⟩ : SyncObj)
  bars ++ tks ++ rings

/-- An object leaves its core. -/
def freeObject (cores : List Nat) (s : State) (o : SyncObj) : State :=
  let core := cores.getD o.pos 0
  match o.kind with
  | 0 =>
    let s := s.forget fun p => match p with | .arrive k b | .phase k b _ => k = core && b = o.num | _ => false
    s.modCore core fun c => { c with barriers := tset 0 c.barriers o.num 0 }
  | 1 => (s.forget fun p => p = .ticket core o.num).modCore core fun c => { c with tickets := tset 0 c.tickets o.num 0 }
  | _ => s.modCore core fun c => { c with rings := tset 0 c.rings o.num 0, filled := c.filled.filter fun f => f.1 ≠ o.num }

/-- Operations in the order of their acceptance. -/
def insertOp (m : MatOp) : List MatOp → List MatOp
  | [] => [m]
  | x :: l => if m.tag < x.tag then m :: x :: l else x :: insertOp m l

/-- A point holds what a team, its epilogues and its copy chains have done. -/
def SyncPt.ofTeam (s : State) (id : Nat) : SyncPt → Bool
  | .unit r => r.team = id
  | .epi t _ => t = id
  | .chain n => (s.channel n).team = id
  | _ => false

/-- A save and an end are releases of every write of the team (R67, R167). -/
def teamSync (s : State) (id : Nat) (p : SyncPt) : State :=
  (s.order.know.filter fun q => q.1.ofTeam s id).foldl (fun s q => s.learn p q.2) s

/-- A team has left its cores: reel slots, binding and places are free. -/
def leaveCores (s : State) (id : Nat) (t : Team) : State :=
  s.modCore t.home fun c =>
    { c with reel := c.reel.filter fun r => r.2.holder ≠ some id, bindings := tdel c.bindings (t.placeOn t.home) }

/-- A binding without its held heads and the units it has read, which are read again from UNIT and SUB (R226, R229). -/
def Binding.saved (b : Binding) : Binding :=
  { b with sa := { b.sa with head := none, raw := none }, sb := { b.sb with head := none, raw := none } }

/-- The split table of a group as its block holds it (R113). -/
def splitBytes (g : Region) : Bytes :=
  bytesOf 8 g.emask.toNat ++ bytesOf 8 g.resid.toNat ++
  bytesOf 8 (g.spc % 2 ^ 57 + (if g.kind then 2 ^ 57 else 0) + (if g.isOpen then 2 ^ 58 else 0)) ++ bytesOf 8 g.bmask.toNat ++
  (List.range 4).flatMap fun k =>
    match g.subs[k]? with
    | some e => bytesOf 8 (e.th.pc % 2 ^ 57 + 2 ^ 57 + if e.arr then 2 ^ 58 else 0) ++ bytesOf 8 e.xmask.toNat
    | none => List.replicate 16 0

/-- The registers of a group as its block holds them: scalars, then vectors in register-major, lane-minor order (R92). -/
def groupRegs (u : UnitState) (w : Nat) (b : Budget) : Bytes :=
  ((List.range b.sregs).flatMap fun r => bytesOf 8 (u.sreg r).toNat) ++
  (List.range b.vregs).flatMap fun r => (List.range w).flatMap fun l => bytesOf 4 (u.vreg r l).toNat

/-- Contents of a block that the spec gives no place there: each takes one of the block's words that are still free, and which one is
open (R92; log 39). -/
def placeWords (block : Nat) : List Nat → Nat → List W64 → List (Nat × Bytes)
  | _, _, [] => []
  | free, k, w :: ws =>
    match free[Config.slotPlace block k % max 1 free.length]? with
    | some o => (o, bytesOf 8 w.toNat) :: placeWords block (free.erase o) (k + 1) ws
    | none => []

/-- The 8-byte words from an offset on. -/
def wordsFrom (base n : Nat) : List Nat := (List.range n).map fun i => base + 8 * i

def natWord (n : Nat) : W64 := BitVec.ofNat 64 n
def flag (b : Bool) : W64 := if b then 1 else 0

/-- The header of a save slot (R92): launch, linear index, set member, cores, kind, AFFINE, and the sticky states of budget and
allowance. -/
def headerWords (t : Team) (l : Launch) : List W64 :=
  [natWord t.launch, natWord t.index, natWord (t.index % max 1 l.setsz), natWord (t.cores.headD 0), natWord (t.cores.getD 1 (t.cores.headD 0)),
   flag t.coop, flag t.affine, flag t.raisedBudget, flag t.raisedAllow]

/-- The handler state of a unit, with its barrier records (R92, R341). -/
def handlerWords (u : UnitState) : List W64 :=
  (match u.handler with
   | some h => [1, natWord h.th.pc, natWord h.th.idx, h.x, natWord h.slot, h.trap.f]
   | none => [0]) ++ [u.tinfo, u.taddr, u.tpc, u.tmask] ++ u.records.map fun p => natWord (p.1 * 256 + p.2)

/-- The caller block after its registers (R92): full/empty bits, clause address and index, handler state, and the team queues. -/
def callerWords (t : Team) : List W64 :=
  [t.caller.sEmpty.setWidth 64, natWord t.caller.main.pc, natWord t.caller.main.idx] ++ handlerWords t.caller ++
  (List.range 8).flatMap fun q =>
    let es := tget [] t.queues q
    [0, natWord (es.length % 16), natWord es.length] ++ es

/-- A matrix operation in the sequencer record (R92, R216): its descriptor, its state and step counter, and a captured bitmap. -/
def opWords (m : MatOp) : List W64 :=
  let state := if m.stop.isSome then 2 else if m.started then 1 else 0
  let (code, ws, bm) : Nat × List W64 × List W64 := match m.kind with
    | .mma sp cw aw bw l => (if sp then 1 else 0, [cw, aw, bw],
        if sp && m.started then (List.range ((l.getLastD 0) / 64 + 1)).map fun k => maskOf ((l.filter fun x => x / 64 = k).map (· % 64)) else [])
    | .zero => (2, [], [])
    | .rest va => (3, [natWord va], [])
    | .epi mod conv a b d => (4, [natWord (mod.toNat * 64 + conv), a, b, d], [])
    | .save va rel _ => (5, [natWord va, flag rel], [])
  [natWord (code + 8 * m.slot + 256 * state), natWord m.step, natWord m.row] ++ ws ++ bm

/-- An instruction to be issued again, as a list that a save writes holds it (R92, R98). -/
def replayWords (r : Replay) : List W64 :=
  [natWord r.pc, natWord r.idx, natWord r.slot, r.em] ++ r.steps.map fun p => natWord (p.1 * 256 + p.2)

/-- What the block of a group holds beside its split table and its registers (R92). -/
def groupWords (u : UnitState) : List W64 :=
  [natWord u.main.pc, natWord u.main.idx, u.region.resid, u.x] ++ handlerWords u ++
  [match u.net with | some p => natWord (p.1.toNat * 8 + p.2.toNat) | none => 0] ++
  ((List.range 4).map fun k => u.vEmpty.extractLsb' (64 * k) 64) ++ ((List.range 2).map fun k => u.sEmpty.extractLsb' (64 * k) 64) ++
  (u.region.subs.map fun g => natWord g.th.idx) ++ u.replays.flatMap replayWords

/-- The contents of a save slot with their offsets: what the spec places stands there (R92, R113, R198, R213, R226), and the rest at
places of its block that are open (log 39). -/
def savePieces (t : Team) (l : Launch) : List (Nat × Bytes) :=
  let group := ceilDiv (2048 + 8 * l.budget.sregs + 4 * l.width * l.budget.vregs) 1024 * 1024
  let groups := 21 * 1024 + 65536 * t.rsave
  let engines := 17 * 1024
  placeWords 0 (wordsFrom 0 128) 0 (headerWords t l) ++
  [(1024, (List.range 64).flatMap fun r => bytesOf 8 (t.caller.sreg r).toNat)] ++
  placeWords 1 (wordsFrom 1536 448) 0 (callerWords t) ++
  (t.sync.zipIdx.flatMap fun o =>
    let at_ := 5 * 1024 + 32 * o.2
    if o.1.kind = 2 then [(at_, bytesOf 32 o.1.word.toNat)]
    else placeWords 2 (wordsFrom at_ 4) 0 [natWord o.1.kind, natWord o.1.num, o.1.word.setWidth 64]) ++
  (t.restarts.zipIdx.flatMap fun r =>
    placeWords 3 (wordsFrom (engines + 32 * r.2) 4) 0
      [natWord r.1.record, natWord r.1.ring, r.1.seq.setWidth 64, match r.1.reserved with | some i => i.setWidth 64 + 2 ^ 32 | none => 0]) ++
  placeWords 4 (wordsFrom (engines + 1024) 32) 0 (t.matSaved.flatMap opWords) ++
  [(engines + 1280, bytesOf 32 (match t.cursorSaved with | some b => cursorOf b | none => 0))] ++
  placeWords 5 (wordsFrom (engines + 1312) 348) 0
    (t.withdrawn.flatMap fun p => natWord (match p.1 with | some g => g | none => 128) :: replayWords p.2) ++
  (t.reelSaved.zipIdx.map fun r => (21 * 1024 + 65536 * r.2, (List.range 128).flatMap fun row => rowBytes r.1.2 row)) ++
  (t.groups.zipIdx.flatMap fun g =>
    let at_ := groups + group * g.2
    [(at_, splitBytes g.1.region)] ++ placeWords 6 (wordsFrom (at_ + 96) 244) 0 (groupWords g.1) ++
    [(at_ + 2048, groupRegs g.1 l.width l.budget)]) ++
  [(groups + group * t.groups.length, (List.range l.budget.scr).map fun i => tget 0 t.scratchSaved i)]

/-- The bytes of a save area (R92): its contents, and free values in every byte that they leave. -/
def writeSlot (s : State) (t : Team) (l : Launch) : State :=
  let n := saveSize t.rsave t.groups.length l.width l.budget
  let (v, s) := s.draw (8 * n)
  (savePieces t l).foldl (fun s p => iaWrite s (slotBase t + p.1) p.2) (iaWrite s (slotBase t) (bytesOf n v.toNat))

/-- The save area is written (R92); the model also keeps what the team holds in the team itself, from which it is restored
(log 39). The team is then re-queued (R74). -/
def writeSave (s : State) (id : Nat) (t : Team) (l : Launch) : State :=
  let s := teamSync (t.cores.foldl writebackAll s) id (.team id)
  let c := s.core t.home
  let sync := syncOf s t
  let stopped := c.matq.filter fun m => m.team = id
  let u : Team :=
    { t.mapUnits (fun u => savePending (stopUnit (completeAnswers (if t.coop then afterSlice u else u)))) with
      life := .pending, sync := sync, matSaved := stopped.foldl (fun l m => insertOp m l) t.matSaved
      reelSaved := c.reel.filter fun r => r.2.holder = some id, cursorSaved := (tfind c.bindings (t.placeOn t.home)).map Binding.saved
      scratchSaved := (List.range l.budget.scr).foldl (fun b i => tset 0 b i (tget 0 c.scratch (t.scratch + i))) []
      raisedBudget := false, raisedAllow := false, grace := none, places := [] }
  let s := takeOps (writeSlot s u l) t.home fun m => m.team = id
  let s := leaveCores (sync.foldl (freeObject t.cores) s) id t
  let s := s.countCore t.home 0x08 1
  (s.setTeam id u).modLaunch t.launch fun l => { l with requeued := l.requeued ++ [id] }

/-- SAVE_COMPLETE (R93): once everything of the team that was accepted has completed, its state is written to its slot. A
slot that cannot be written loses the team (R89). -/
def execSaveComplete (team : Nat) (s : State) : Host.Outcome State Fault Refusal :=
  .next <|
    let s : State := match s.team? team with
      | some t => if t.life = .saving then saveSteps s team t else s
      | none => s
    match s.team? team with
    | none => s
    | some t =>
      match s.launch? t.launch with
      | none => s
      | some l =>
        if t.life ≠ .saving || saveWaits s team t then s
        else
          match slotCheck s t l true with
          | .wait => s
          | .stop k _ _ =>
            ((fatal (slotNote s t l) ⟨team, none⟩ k 0 0).noteAddr t.ctx (slotBase t)).modTeam team fun t => { t with matSaved := [], restarts := [] }
          | .ok => writeSave s team t l

/-! ## TEAM_AT_SLICE (R80) -/

/-- The governor has marked the stage of the team's launch. -/
def marked (s : State) (t : Team) : Option Swap :=
  match (s.context t.ctx).swap, s.launch? t.launch with
  | some w, some l => if w.taken.isNone && isStage s l && l.stage = w.b then some w else none
  | _, _ => none

/-- TEAM_AT_SLICE (R80): the first outcome that applies. -/
def execTeamAtSlice (team : Nat) (s : State) : Host.Outcome State Fault Refusal :=
  .next <|
    match s.team? team with
    | none => s
    | some t =>
      if t.life ≠ .running || !t.atSlice || t.allExited then s
      else
        match marked s t with
        | some w =>
          let s := s.modContext t.ctx fun c => { c with swap := some { w with taken := some team } }
          (t.refs team).foldl (fun s r => match s.unit? r with | some u => if u.exited then s else exitUnit s r | none => s) s
        | none =>
          if t.raised then (if setAtSlice s team then saveSet true s team else s)
          else s.modTeam team fun t => t.mapUnits afterSlice

/-! ## GOVERNOR_PERIOD (R83, R84) -/

/-- The running stage launch of a stage: the earliest. -/
def runningStage (s : State) (ctx n : Nat) : Option (Nat × Launch) := s.launches.find? fun p => p.2.ctx = ctx && p.2.stage = n && isStage s p.2

/-- T of a stage: the resident and pending teams of its launch. -/
def stageTeams (l : Launch) : Nat := l.count - l.ended

/-- A stage with what the governor reads of it in a period. -/
structure StageNow where
  n : Nat
  st : Stage
  o : Nat
  t : Nat
  deriving DecidableEq, Repr, Inhabited

/-- The occupancies of the enabled stages that have a running stage launch; none where a read waits for a move. A read that
faults leaves its stage out (R84). -/
def readStages (ctx : Nat) : List Nat → State → Option (List StageNow × State)
  | [], s => some ([], s)
  | n :: ns, s =>
    match stageEntry s ctx n, runningStage s ctx n with
    | (some st, s), some (_, l) =>
      match readCtx s ctx true st.occ 8 with
      | (.wait, _) => none
      | (.bad a, s) => readStages ctx ns ((s.noteBit ctx 194).noteAddr ctx a)
      | (.ok bs, s) =>
        let w := wordOfBytes bs
        match readStages ctx ns s with
        | none => none
        | some (r, s) => some (⟨n, st, (bits w 0 32 + 2 ^ 32 - bits w 32 32) % 2 ^ 32, stageTeams l⟩ :: r, s)
    | (_, s), _ => readStages ctx ns s

/-- A marked team has exited: it has ended, or is gone. -/
def hasExited (s : State) (id : Nat) : Bool := match s.team? id with | some t => t.life = .ended || t.allExited | none => true

/-- GOVERNOR_PERIOD (R84). A swap whose stage to grow has no running stage launch any more ends without a team (DESIGN CHOICE,
log 90); while periods do not run, a pending swap stays as it is (DESIGN CHOICE, log 109). -/
def execGovernorPeriod (ctx : Nat) (s : State) : Host.Outcome State Fault Refusal :=
  .next <|
    if !governed s ctx then s
    else
      match readStages ctx (List.range 8) s with
      | none => s
      | some (now, s) =>
        let swap (s : State) (w : Option Swap) : State := s.modContext ctx fun c => { c with swap := w }
        match (s.context ctx).swap with
        | some w =>
          if (match w.taken with | some id => hasExited s id | none => false) then
            let s := match runningStage s ctx w.a with
              | some (id, _) => s.modLaunch id fun l => { l with count := l.count + 1 }
              | none => s
            swap s none
          else if 16 ≤ w.age + 1 && w.taken.isNone then swap s none
          else swap s (some { w with age := w.age + 1 })
        | none =>
          let up := now.filter fun x => decide (x.st.high ≤ x.o) && decide (x.t < x.st.max)
          let down := now.filter fun x => decide (x.o ≤ x.st.low) && decide (x.st.min < x.t)
          let a := pickBest (fun x y => decide (y.o - y.st.high < x.o - x.st.high) || (x.o - x.st.high = y.o - y.st.high && decide (x.n < y.n))) up
          let b := pickBest (fun x y => decide (x.o < y.o) || (x.o = y.o && decide (y.n < x.n))) down
          match a, b with
          | some a, some b => swap s (some ⟨b.n, a.n, 0, none⟩)
          | _, _ => s

/-! ## TEAM_END (R124, R167, R205, R211, R215, R241, R243) -/

/-- An operation stopped under R215, and every operation of the team accepted after it, are discarded. -/
def discardStopped (s : State) (id : Nat) (t : Team) : State :=
  let q := (s.core t.home).matq
  takeOps s t.home fun m => m.team = id && q.any fun x => x.team = id && x.stop.isSome && decide (x.tag ≤ m.tag)

/-- The objects of a team are freed: a ring that a chain or a collective may still fill stays held until then (R124). -/
def releaseObject (id : Nat) (cores : List Nat) (s : State) (o : SyncObj) : State :=
  let core := cores.getD o.pos 0
  if o.kind = 2 && ringNeeded s core o.num id then s.modCore core fun c => { c with orphans := c.orphans ++ [(o.num, id)] }
  else freeObject cores s o

/-- A team of a set stays known until the whole set has ended (R149); any other team is gone. -/
def forgetTeam (s : State) (id : Nat) : State :=
  match s.team? id with
  | none => s
  | some t =>
    if setOf s id ≠ [] then s
    else
      let n := match s.launch? t.launch with | some l => max 1 l.setsz | none => 1
      (s.teams.filter fun p => p.2.launch = t.launch && p.2.index / n = t.index / n).foldl (fun s p => s.delTeam p.1) s

/-- A team that is resident leaves its cores for good (R124): what it held is freed, and its launch learns of its end. -/
def retireTeam (s : State) (id : Nat) (t : Team) : State :=
  let s := t.cores.foldl writebackAll s
  let s := match s.launch? t.launch with | some l => teamSync s id (.entry l.queue l.entry) | none => s
  let s := handFragments s id t
  let s := leaveCores ((syncOf s t).foldl (releaseObject id t.cores) s) id t
  let s := s.setTeam id { t with life := .ended, places := [], pops := [], queues := [] }
  teamGone (forgetTeam s id) t.launch t.fatal

/-- TEAM_END (R124): every unit has exited and the team's matrix operations and accesses have ended. -/
def execTeamEnd (team : Nat) (s : State) : Host.Outcome State Fault Refusal :=
  .next <|
    match s.team? team with
    | none => s
    | some t =>
      if !t.resident || t.life = .saving || !(t.life = .ended || t.allExited) then s
      else
        let s := discardStopped s team t
        if (s.core t.home).matq.any (fun m => m.team = team) || s.inflight.any (fun a => a.u.team = team) ||
            (t.refs team).any (fun r => netBusy s r) then s
        else retireTeam s team t

/-! ## CTX_HALT (R42) -/

/-- A raster stream ends: its launches go, and its entry completes (R67, R238, R243). -/
def endStream (s : State) (k : Nat) (status : Byte) : State :=
  match s.stream? k with
  | none => s
  | some st =>
    let mine (l : Launch) : Bool := match l.role with | .geometry n _ | .fragment n _ => n = k | .none => false
    completeEntry { s with streams := tdel s.streams k, launches := s.launches.filter fun p => !mine p.2 } st.queue st.entry status

/-- A resident or saving team of a halted context ends without a save, as under R123, and what it held is freed. -/
def haltTeam (s : State) (id : Nat) : State :=
  let s := cancelChains (endTeam (s.modTeam id fun t => { t with fatal := true, matSaved := [], restarts := [] }) id) id false
  let s : State := { s with copyWait := s.copyWait.filter fun w => w.1.team ≠ id }
  match s.team? id with
  | none => s
  | some t => (syncOf s t).foldl (releaseObject id t.cores) s

/-- A saved team of a halted context ends where it is. -/
def haltSaved (s : State) (id : Nat) : State :=
  match s.team? id with
  | none => s
  | some t => teamGone (forgetTeam (s.setTeam id { t with life := .ended, fatal := true }) id) t.launch true

/-- A launch of a halted context: its teams that have never run are gone. -/
def haltLaunch (ctx : Nat) (p : Nat × Launch) : Nat × Launch :=
  if p.2.ctx = ctx then
    (p.1, { p.2 with count := min p.2.count p.2.next, requeued := [], status := if p.2.status = 0 then 4 else p.2.status })
  else p

/-- The teardown of a context: its teams, those that have never run among them, its chains, its collective operations and
its queues. -/
def haltContext (s : State) (ctx : Nat) : State :=
  let s : State :=
    { s with collOps := s.collOps.map (fun (o : CollOp) => if o.ctx = ctx && o.finish.isNone then { o with finish := some 8 } else o)
             launches := s.launches.map (haltLaunch ctx)
             growReqs := s.growReqs.filter (fun g => match s.team? g.u.team with | some t => t.ctx ≠ ctx | none => false) }
  let mine := s.teams.filter fun p => p.2.ctx = ctx
  let s := (mine.filter fun p => p.2.life ≠ .pending && p.2.life ≠ .ended).foldl (fun s p => haltTeam s p.1) s
  let s := (mine.filter fun p => p.2.life = .pending).foldl (fun s p => haltSaved s p.1) s
  let s := (s.channels.filter fun p => p.2.ctx = ctx && p.2.st ≠ .idle).foldl (fun s p => cancelChain false s p.1) s
  let s := ((s.launches.filter fun p => p.2.ctx = ctx).map (·.1)).foldl launchDone s
  let s := ((s.streams.filter fun p => p.2.ctx = ctx).map (·.1)).foldl (fun s k => endStream s k 4) s
  ((s.queues.filter fun p => p.2.valid && p.2.ctx = ctx).map (·.1)).foldl (fun s q => s.modQueue q fun x => { x with halt := true }) s

/-- Teams of a context that have not ended. -/
def contextBusy (s : State) (ctx : Nat) : Bool := s.teams.any fun p => p.2.ctx = ctx && (p.2.resident || p.2.life = .pending)

end Sys2Proof.Machine
end

