-- ==== Sys2Proof/Machine/Mgmt.lean ====
section
/-! DEFINITION. The management processor's requests (R41, R42), registers written by their access codes (R5), and counter
events (R101). -/

namespace Sys2Proof.Machine

/-! ## Registers by access code (R5, R24, R34, R42, R45, R83, R89, R99 to R101, R128, R151, R154, R271, R335) -/

/-- RW bits take the value written; each 1 written clears a W1C bit; every other bit stays. -/
def writeCodes (old new rw w1c : W64) : W64 := ((old &&& ~~~rw) ||| (new &&& rw)) &&& ~~~(new &&& w1c)

/-- RW bits of a context register (R42). -/
def ctxRw (n : Nat) : W64 :=
  if n < 0x20 then (if n % 2 = 0 then fieldMask 0 11 ||| fieldMask 21 36 else fieldMask 21 31)
  else match n with
    | 0x20 => fieldMask 5 27
    | 0x81 => fieldMask 0 57
    | 0x82 => fieldMask 0 16 ||| fieldMask 32 22
    | 0x83 => fieldMask 0 1 ||| fieldMask 16 16
    | 0x84 => fieldMask 0 57
    | 0x85 => fieldMask 0 1 ||| fieldMask 8 3
    | _ => BitVec.allOnes 64

/-- The numbers of the context registers (R42). -/
def ctxRegOk (n : Nat) : Bool := decide (n ≤ 0x20) || (decide (0x4A ≤ n) && decide (n < 0x80)) || (decide (0x80 ≤ n) && decide (n ≤ 0x88))

/-- A value outside the limits of a context register: an alignment, or more reel slots than a core has. -/
def ctxRegBad (n : Nat) (v : W64) : Bool :=
  match n with
  | 0x80 => v.toNat % 8 ≠ 0
  | 0x81 => bits v 0 57 % 65536 ≠ 0
  | 0x82 => decide (32 < bits v 48 6)
  | 0x84 => bits v 0 57 % 64 ≠ 0
  | _ => false

/-- A team of the context is resident, saved or being saved (R99). -/
def hasTeams (s : State) (ctx : Nat) : Bool := s.teams.any fun p => p.2.ctx = ctx && (p.2.resident || (p.2.life = .pending && p.2.save.isSome))

/-- The write would change PART while it may not be changed (R99). -/
def partBusy (s : State) (ctx n : Nat) (v : W64) : Bool := n = 0x85 && bits v 8 3 ≠ s.partOf ctx && hasTeams s ctx

def writeCtxReg (s : State) (ctx n : Nat) (v : W64) : State :=
  s.modContext ctx fun c => c.setReg n (writeCodes (c.reg n) v (ctxRw n) 0)

/-- A context register as it is read: BUSY of the control register is 1 while a save of the context is in progress (R99). -/
def readCtxReg (s : State) (ctx n : Nat) : W64 :=
  let v := s.ctxReg ctx n
  if n = 0x85 then setBit v 2 (s.teams.any fun p => p.2.ctx = ctx && p.2.life = .saving) else v

/-- RW bits of a device register below 0x26 (R42, R100, R271). -/
def devRw (n : Nat) : W64 :=
  if n < 8 then fieldMask 0 32
  else if n < 0x10 then BitVec.allOnes 64
  else if n < 0x18 then fieldMask 0 3 ||| fieldMask 16 12 ||| fieldMask 32 32
  else fieldMask 0 32

def devRegBad (n : Nat) (v : W64) : Bool :=
  if n < 8 then decide (128 < bits v 0 8) else if n < 0x10 then v.toNat % 8 ≠ 0 else false

def writeDevReg (s : State) (n : Nat) (v : W64) : State := s.setDevReg n (writeCodes (s.devReg n) v (devRw n) 0)

/-- Cores that a partition holds beyond its quota, the highest first. -/
def excessCores (s : State) (part : Nat) : List Nat :=
  ((List.range 128).reverse.filter fun c => holdsPart s c part).take (heldCores s part - quotaOf s part)

/-- The teams of a core are pre-empted, set members together (R99). -/
def vacateCore (s : State) (core : Nat) : State :=
  (s.onCore core).foldl (fun s p =>
    match s.team? p.1 with
    | some t => saveSet (t.raised && setAtSlice s p.1) s p.1
    | none => s) s

/-- A device register is written. Where a partition's quota falls below the cores that it holds, the management processor vacates
cores for the switch that the driver requests (R99, R100; log 80). -/
def writeDevice (s : State) (n : Nat) (v : W64) : State :=
  let s := settleSkips (writeDevReg s n v)
  if n < 8 then (excessCores s n).foldl vacateCore s else s

/-- RW bits of a port's registers (R34, R45): PFCEN, RPRI and bits 13:8 of DSCP; the congestion fields. -/
def portRw : W64 := fieldMask 3 4 ||| fieldMask 8 6
def congRw : W64 := fieldMask 0 12 ||| fieldMask 16 7 ||| fieldMask 24 7

/-- PORT_WRITE's register: bits 15:14 of DSCP are stored as zero (R34). -/
def writePort (s : State) (port : Nat) (v : W64) : State :=
  let p := s.port port
  s.setPort port { p with status := writeCodes p.status v portRw 0 &&& ~~~fieldMask 14 2 }

/-- A congestion parameter outside its range (R45). -/
def congBad (v : W64) : Bool :=
  bits v 0 9 = 0 || decide (256 < bits v 0 9) || bits v 9 3 = 0 || decide (4 < bits v 9 3) || bits v 16 7 = 0 || decide (100 < bits v 16 7) ||
  bits v 24 7 = 0 || decide (100 < bits v 24 7)

def writeCong (s : State) (port : Nat) (v : W64) : State :=
  let p := s.port port
  s.setPort port { p with cong := writeCodes p.cong v congRw 0 }

/-- A counter's control (R101): OVF is W1C. -/
def writePmcc (s : State) (core n : Nat) (v : W64) : State :=
  s.modCore core fun c => { c with pmcc := tset 0 c.pmcc n (writeCodes (tget 0 c.pmcc n) v (fieldMask 0 9) (fieldMask 9 1)) }

/-- A world register (R24): RWL. Only the management processor writes it, which runs once an image has been brought up (R21). -/
def writeWorld (s : State) (f : Package → Package) : State :=
  if s.pkg.worldLock || s.pkg.boot ≠ .running then s else { s with pkg := f s.pkg }

/-- REGISTER_WRITE (R5, R6): the register takes the write field by field. -/
def execRegisterWrite (reg : RegId) (value : BitVec 64) (s : State) : Host.Outcome State Fault Refusal :=
  .next <|
    match reg with
    | .portStatus p => writePort s p value
    | .portCong p => if congBad value then s else writeCong s p value
    | .device n => if 0x25 < n || devRegBad n value then s else writeDevice s n value
    | .context ctx n =>
      if !ctxRegOk n || ctxRegBad n value || partBusy s ctx n value then s
      else
        let s := settleSkips (writeCtxReg s ctx n value)
        if n = 0x85 && value.getLsbD 1 then preemptContext s ctx else s
    | .worldLock => writeWorld s fun p => { p with worldLock := value.getLsbD 0 }
    | .worldVector n => writeWorld s fun p =>
        match n with
        | 0 => { p with worldSets := value.setWidth 16 }
        | 1 => { p with worldCopy := setBits p.worldCopy 0 64 value.toNat }
        | 2 => { p with worldCopy := setBits p.worldCopy 64 64 value.toNat }
        | 3 => { p with worldColl := value.setWidth 4 }
        | 4 => { p with worldPorts := value.setWidth 8 }
        | 5 => { p with worldTu := value }
        | _ => p
    | .region n => if 63 < n then s else writeWorld s fun p => { p with regionDesc := tset 0 p.regionDesc n (value &&& regionRw) }
    | .sliceControl slice n =>
      if 3 < n then s
      else { s with mem := { s.mem with msccCtl := tset 0 s.mem.msccCtl (4 * slice + n) (value &&& fieldMask 0 8) } }
    | .coreControl core n => if 7 < n then s else writePmcc s core n value
    | .shared _ _ => s                       -- a partition's write is ignored (R103); so is any other (log 103)

/-! ## Taking and answering requests (R41) -/

def MgmtReq.opc (r : MgmtReq) : Nat := bits r.header 0 16
def MgmtReq.sendr (r : MgmtReq) : Bool := r.header.getLsbD 17
def MgmtReq.len (r : MgmtReq) : Nat := bits r.header 32 16
def MgmtReq.tag (r : MgmtReq) : Nat := bits r.header 48 16
def MgmtReq.index (r : MgmtReq) : Nat := bits r.header 64 64
def MgmtReq.ctx (r : MgmtReq) : Nat := bits r.header 128 12

/-- A reserved bit of the request header. -/
def MgmtReq.reserved (r : MgmtReq) : Bool := bits r.header 18 14 ≠ 0 || bits r.header 140 372 ≠ 0

/-- A word of the body. -/
def MgmtReq.word (r : MgmtReq) (n : Nat) : W64 := wordOfBytes ((r.body.drop (8 * n)).take 8)

/-- The next request: the one in progress, or the first that was submitted. -/
def nextReq (s : State) : Option MgmtReq :=
  match s.mgmt.current with
  | some r => some r
  | none =>
    match s.mgmt.pending with
    | [] => none
    | (slot, port, conn) :: _ =>
      let base := mgmtSlotBytes * (slot + 1)
      let h : BitVec 512 := BitVec.ofNat 512 (natOf ((List.range 64).map fun i => mgmtByte s (base + i)))
      some ⟨slot, port, conn, h, (List.range (min 4032 (bits h 32 16))).map fun i => mgmtByte s (base + 64 + i), 0⟩

/-- The request is taken: GO becomes 0. The slot's earlier response, DONE with it, stands until the next one is written (DESIGN
CHOICE, log 84). -/
def takeReq (s : State) (r : MgmtReq) : State :=
  if s.mgmt.current.isSome then s
  else
    let a := mgmtSlotBytes * (r.slot + 1) + 2
    let s := mgmtStore s a [setBit (mgmtByte s a) 0 false]
    { s with mgmt := { s.mgmt with pending := s.mgmt.pending.drop 1, current := some r } }

/-- The response (R41): its body, its header, and a SEND with the slot number where SENDR is 1. -/
def answerReq (s : State) (r : MgmtReq) (status : Byte) (body : Bytes) : State :=
  let base := mgmtSlotBytes * (r.slot + 1)
  let s := mgmtStore s (base + 0x1040) body
  let w := status.toNat + 256 + body.length * 2 ^ 32 + r.tag * 2 ^ 48
  let s := mgmtStore s (base + 0x1000) (bytesOf 64 w)
  let s := { s with mgmt := { s.mgmt with current := none } }
  if r.sendr then post s r.port r.conn (.send [] (some (BitVec.ofNat 32 r.slot))) (.mgmt r.slot) else s

/-- What a request does: it is still in progress, ends with a status other than OK and changes nothing, or is done. -/
inductive MgmtAns where
  | later (s : State)
  | refuse (status : Byte)
  | done (body : Bytes) (s : State)

def badArg : Byte := 2
def busy : Byte := 4
def denied : Byte := 5
def locked : Byte := 3

/-- The management processor serves the next request if it is this operation (R41, R42); a reserved bit gives BADOP, and a
body shorter than the operation's BADARG. -/
def serve (opc : MgmtReq → Bool) (len : MgmtReq → Bool) (act : MgmtReq → State → MgmtAns) (s : State) : Host.Outcome State Fault Refusal :=
  .next <|
    match nextReq s with
    | none => s
    | some r =>
      if !opc r then s
      else
        let s := takeReq s r
        if r.reserved then answerReq s r 1 []
        else if 4032 < r.len || !len r then answerReq s r badArg []
        else
          match act r s with
          | .later s => s
          | .refuse st => answerReq s r st []
          | .done body s => answerReq s r 0 body

/-- An operation by its code, whose body has a length; the bytes after it are not looked at. -/
def serveOp (opc len : Nat) (act : MgmtReq → State → MgmtAns) (s : State) : Host.Outcome State Fault Refusal :=
  serve (fun r => r.opc = opc) (fun r => len ≤ r.len) act s

/-- The port and the number that an INDEX names (R42); none for any other bit. -/
def portIndex (r : MgmtReq) : Option (Nat × Nat) :=
  let i := r.index
  if i = i % 8 + i / 65536 % 4096 * 65536 then some (i % 8, i / 65536 % 4096) else none

/-! ## Connections and regions (R43, R44) -/

/-- Reserved bits of a connection entry give BADOP; MTU and TO outside their limits BADARG. -/
def connEntryBad (e : BitVec 512) : Option Byte :=
  if e.getLsbD 15 || bits e 300 212 ≠ 0 then some 1
  else if 2 < bits e 3 3 || bits e 6 5 = 0 then some badArg
  else none

/-- CONN_WRITE (R42, R43). -/
def execConnWrite (s : State) : Host.Outcome State Fault Refusal :=
  serveOp 0x01 64 (fun r s =>
    let e : BitVec 512 := BitVec.ofNat 512 (natOf r.body)
    match portIndex r, connEntryBad e with
    | none, _ => .refuse badArg
    | _, some st => .refuse st
    | some (port, n), none =>
      let key := connKey port n
      let c := s.conn key
      if c.valid && !c.err then .refuse busy
      else
        let v := e.getLsbD 0
        let c' := { c with entry := setBit e 1 (v && c.err) }
        .done [] (s.setConn key (if v && c.err then c' else c'.restart))) s

/-- CONN_READ (R42). -/
def execConnRead (s : State) : Host.Outcome State Fault Refusal :=
  serveOp 0x02 0 (fun r s =>
    match portIndex r with
    | none => .refuse badArg
    | some (port, n) => .done (bytesOf 64 (s.conn (connKey port n)).entry.toNat) s) s

/-- CONN_RESET (R42, R52): every operation fails with kind 7. -/
def execConnReset (s : State) : Host.Outcome State Fault Refusal :=
  serveOp 0x03 0 (fun r s =>
    match portIndex r with
    | none => .refuse badArg
    | some (port, n) =>
      let key := connKey port n
      if !(s.conn key).valid then .refuse busy
      else .done [] ((connFail s key 7).modConn key Conn.restart)) s

/-- The region touches a secure region while its context is non-secure (R44). -/
def regionSecure (s : State) (e : BitVec 256) : Bool :=
  !(s.context (rgCtx e)).secure && (rangePoints 21 (rgIbase e) (rgLen e)).any fun a => secureAddr s a

/-- What R44 refuses in a region entry; only the place of a notify page depends on V. -/
def regionEntryBad (s : State) (e : BitVec 256) : Option Byte :=
  let q := (rgIbase e - s.mgmt.nbase) / 4096
  if bits e 57 7 ≠ 0 || bits e 124 4 ≠ 0 || bits e 236 20 ≠ 0 then some 1
  else if rgKind e = 3 then some denied
  else if 3 < rgKind e then some badArg
  else if rgLen e = 0 || 2 ^ 48 < rgLen e then some badArg
  else if e.getLsbD 123 && rgKind e = 2 && (rgLen e ≠ 4096 || rgIbase e < s.mgmt.nbase || rgIbase e ≠ s.mgmt.nbase + 4096 * q || 4095 < q) then some badArg
  else if regionSecure s e then some denied
  else none

/-- REGION_WRITE (R42, R44). -/
def execRegionWrite (s : State) : Host.Outcome State Fault Refusal :=
  serveOp 0x04 32 (fun r s =>
    let e : BitVec 256 := BitVec.ofNat 256 (natOf r.body)
    match portIndex r, regionEntryBad s e with
    | none, _ => .refuse badArg
    | _, some st => .refuse st
    | some (port, n), none => .done [] { s with regions := tset 0 s.regions (4096 * port + n) e }) s

/-- REGION_READ (R42). -/
def execRegionRead (s : State) : Host.Outcome State Fault Refusal :=
  serveOp 0x05 0 (fun r s =>
    match portIndex r with
    | none => .refuse badArg
    | some (port, n) => .done (bytesOf 32 (s.region port n).toNat) s) s

/-! ## Ports (R34, R42, R45) -/

/-- PORT_WRITE (R34). -/
def execPortWrite (s : State) : Host.Outcome State Fault Refusal :=
  serveOp 0x06 8 (fun r s => if 7 < r.index then .refuse badArg else .done [] (writePort s r.index (r.word 0))) s

/-- PORT_READ (R34): reading clears DOWNS. -/
def execPortRead (s : State) : Host.Outcome State Fault Refusal :=
  serveOp 0x07 0 (fun r s =>
    if 7 < r.index then .refuse badArg
    else
      let p := s.port r.index
      .done (bytesOf 8 p.status.toNat) (s.setPort r.index { p with status := setBits p.status 16 16 0 })) s

/-- PADDR_WRITE (R42): the IPv6 address, the IPv4 address, and zero elsewhere; another byte that is not zero gives BADARG (DESIGN
CHOICE, log 79). -/
def execPaddrWrite (s : State) : Host.Outcome State Fault Refusal :=
  serveOp 0x08 32 (fun r s =>
    if 7 < r.index || ((r.body.take 32).drop 20).any (fun b => b ≠ 0) then .refuse badArg
    else .done [] (s.setPort r.index { s.port r.index with addr := BitVec.ofNat 256 (natOf r.body) })) s

/-- PADDR_READ (R42): as written, with the fused MAC address in bytes 24 to 29. -/
def execPaddrRead (s : State) : Host.Outcome State Fault Refusal :=
  serveOp 0x09 0 (fun r s =>
    if 7 < r.index then .refuse badArg
    else .done (bytesOf 32 (setBits (s.port r.index).addr 192 48 (s.pkg.macs.getD r.index 0).toNat).toNat) s) s

/-- CONG_WRITE (R45). -/
def execCongWrite (s : State) : Host.Outcome State Fault Refusal :=
  serveOp 0x0A 8 (fun r s => if 7 < r.index || congBad (r.word 0) then .refuse badArg else .done [] (writeCong s r.index (r.word 0))) s

/-- CONG_READ (R45). -/
def execCongRead (s : State) : Host.Outcome State Fault Refusal :=
  serveOp 0x0B 0 (fun r s => if 7 < r.index then .refuse badArg else .done (bytesOf 8 (s.port r.index).cong.toNat) s) s

/-! ## Queue descriptors (R54, R69) -/

/-- RW bits of a descriptor, EN among them. -/
def qdescRw : BitVec 512 :=
  BitVec.ofNat 512 (0x3FF + 0xFFF * 2 ^ 16 + (2 ^ 52 - 1) * 2 ^ 64 + (2 ^ 64 - 1) * 2 ^ 128 + 7 * 2 ^ 192 + 0xFFF * 2 ^ 196 +
    (2 ^ 32 - 1) * 2 ^ 224 + (2 ^ 64 - 1) * 2 ^ 256)

/-- Reserved bits of a descriptor. -/
def qdescReserved : BitVec 512 :=
  BitVec.ofNat 512 (0x3F * 2 ^ 10 + (2 ^ 36 - 1) * 2 ^ 28 + 0xFFF * 2 ^ 116 + 2 ^ 195 + 0xFFFF * 2 ^ 208 + (2 ^ 151 - 1) * 2 ^ 361)

/-- The descriptor as it is read (R54); reserved bits read as zero (R6). -/
def readQdesc (s : State) (q : Nat) : BitVec 512 :=
  let x := s.queue q
  let d := setBits (x.desc &&& qdescRw) 320 32 x.ridx.toNat
  setBits (setBit (setBit (setBit d 352 x.halt) 353 x.clost) 354 x.slot.isSome) 355 6 (x.slot.getD 0)

/-- A field other than EN changes while the queue is mapped or enabled. -/
def qdescBusy (s : State) (q : Nat) (d : BitVec 512) : Bool :=
  let x := s.queue q
  let rw := qdescRw &&& ~~~2
  (x.slot.isSome || x.enabled) && decide (d &&& rw ≠ x.desc &&& rw)

/-- A descriptor written: RW fields are stored, reserved bits too, with which the queue is never mapped (R54; DEDUCED, log 92), and a
1 in CLOST clears it. -/
def writeQdesc (s : State) (q : Nat) (d : BitVec 512) : State :=
  s.modQueue q fun x => { x with desc := d &&& (qdescRw ||| qdescReserved), clost := x.clost && !d.getLsbD 353 }

def qdescOf (r : MgmtReq) : BitVec 512 := BitVec.ofNat 512 (natOf r.body)

/-- A QDESC_WRITE whose HALT bit is 1. -/
def clearsHalt (r : MgmtReq) : Bool := decide (64 ≤ r.len) && (qdescOf r).getLsbD 352

/-- QDESC_WRITE (R42, R54). -/
def execQdescWrite (s : State) : Host.Outcome State Fault Refusal :=
  serve (fun r => r.opc = 0x0C && !clearsHalt r) (fun r => 64 ≤ r.len) (fun r s =>
    if 4095 < r.index then .refuse badArg
    else if qdescBusy s r.index (qdescOf r) then .refuse busy
    else .done [] (writeQdesc s r.index (qdescOf r))) s

/-- QUEUE_HALT_CLEAR (R69): a QDESC_WRITE with 1 in HALT. -/
def execQueueHaltClear (s : State) : Host.Outcome State Fault Refusal :=
  serve (fun r => r.opc = 0x0C && clearsHalt r) (fun r => 64 ≤ r.len) (fun r s =>
    if 4095 < r.index then .refuse badArg
    else if qdescBusy s r.index (qdescOf r) then .refuse busy
    else .done [] (clearHalt (writeQdesc s r.index (qdescOf r)) r.index)) s

/-- QDESC_READ (R42). -/
def execQdescRead (s : State) : Host.Outcome State Fault Refusal :=
  serveOp 0x0D 0 (fun r s => if 4095 < r.index then .refuse badArg else .done (bytesOf 64 (readQdesc s r.index).toNat) s) s

/-! ## Context and device registers (R42, R99) -/

/-- A CTXREG_WRITE that writes PRE = 1. -/
def preempts (r : MgmtReq) : Bool := r.index = 0x85 && decide (8 ≤ r.len) && (r.word 0).getLsbD 1

/-- What refuses a CTXREG_WRITE. -/
def ctxWriteBad (s : State) (r : MgmtReq) : Option Byte :=
  if !ctxRegOk r.index || ctxRegBad r.index (r.word 0) then some badArg
  else if partBusy s r.ctx r.index (r.word 0) then some busy
  else none

/-- CTXREG_WRITE (R42). -/
def execCtxregWrite (s : State) : Host.Outcome State Fault Refusal :=
  serve (fun r => r.opc = 0x0E && !preempts r) (fun r => 8 ≤ r.len) (fun r s =>
    match ctxWriteBad s r with
    | some st => .refuse st
    | none => .done [] (settleSkips (writeCtxReg s r.ctx r.index (r.word 0)))) s

/-- CONTEXT_PREEMPT (R99): a CTXREG_WRITE of the control register with PRE = 1. -/
def execContextPreempt (s : State) : Host.Outcome State Fault Refusal :=
  serve (fun r => r.opc = 0x0E && preempts r) (fun r => 8 ≤ r.len) (fun r s =>
    match ctxWriteBad s r with
    | some st => .refuse st
    | none => .done [] (preemptContext (settleSkips (writeCtxReg s r.ctx r.index (r.word 0))) r.ctx)) s

/-- CTXREG_READ (R42). -/
def execCtxregRead (s : State) : Host.Outcome State Fault Refusal :=
  serveOp 0x0F 0 (fun r s => if !ctxRegOk r.index then .refuse badArg else .done (bytesOf 8 (readCtxReg s r.ctx r.index).toNat) s) s

/-- The correctable-error unit of a device register number. -/
def ceuOf (n : Nat) : Option Nat := if 0x1000 ≤ n ∧ n - 0x1000 < Config.ceuCount then some (n - 0x1000) else none

/-- DEVREG_WRITE (R42): T and LOGW of an error unit are locked with the world registers (R5, R24, R28; log 70). -/
def execDevregWrite (s : State) : Host.Outcome State Fault Refusal :=
  serveOp 0x10 8 (fun r s =>
    let v := r.word 0
    match ceuOf r.index with
    | some u =>
      let x := s.ceu u
      if s.pkg.worldLock then .refuse locked else .done [] (s.setCeu u { x with cfg := writeCodes x.cfg v (fieldMask 0 14) 0 })
    | none => if 0x25 < r.index || devRegBad r.index v then .refuse badArg else .done [] (writeDevice s r.index v)) s

/-- DEVREG_READ (R42): reading an error unit clears COUNT (R28). -/
def execDevregRead (s : State) : Host.Outcome State Fault Refusal :=
  serveOp 0x11 0 (fun r s =>
    match ceuOf r.index with
    | some u =>
      let x := s.ceu u
      .done (bytesOf 8 x.cfg.toNat) (s.setCeu u { x with cfg := setBits x.cfg 32 32 0 })
    | none => if 0x25 < r.index then .refuse badArg else .done (bytesOf 8 (s.devReg r.index).toNat) s) s

/-! ## Page entries (R42, R131 to R133, R483) -/

/-- What one pair of PTE_WRITE meets. -/
inductive PairAns where
  | done (s : State)
  | wait
  | empty

/-- One level-2 entry written at its coordinator: a level-1 entry with V = 0 first receives a table from the reserve, somewhere on
the die that R153 names (log 49). A migration is waited for; accesses parked on a page whose entry a driver wrote as moving are
replayed when it is written with another state. -/
def writePair (s : State) (ia : Nat) (e : W64) : PairAns :=
  let page := pageOf ia
  if tget 0 s.mem.level1 (page / 16384) = 0 then
    if s.mem.l2Reserve = 0 then .empty
    else
      let (a, s) := s.draw 23
      let table := 1 + tableDie page * 1179648 + a.toNat % 1179648
      let s := { s with mem := { s.mem with
        l2Reserve := s.mem.l2Reserve - 1, level1 := tset 0 s.mem.level1 (page / 16384) table
        ptes := s.mem.ptes.filter fun p => p.1 / 16384 ≠ page / 16384 } }
      .done (s.setPte page e)
  else if s.mem.migrations.any (fun m => m.page = page) then .wait
  else
    let moving := pageState s page = 3
    let s := (if moving || bits e 0 3 = 3 then s else cleanPage s page).setPte page e
    .done (if moving && pageState s page ≠ 3 then releaseMove s page else s)

/-- Pairs from the first that has not been performed. -/
def writePairs (r : MgmtReq) : Nat → State → MgmtAns
  | 0, s => .done [] s
  | n + 1, s =>
    let k := r.body.length / 16 - (n + 1)
    match writePair s (r.word (2 * k)).toNat (r.word (2 * k + 1)) with
    | .done s => writePairs r n s
    | .wait => .later { s with mgmt := { s.mgmt with current := some { r with pos := k } } }
    | .empty => .later (answerReq s r 6 [])

/-- PTE_WRITE (R42): FAULT, with the pairs before it performed, where the reserve is empty. -/
def execPteWrite (s : State) : Host.Outcome State Fault Refusal :=
  serve (fun r => r.opc = 0x12) (fun r => r.len % 16 = 0 && decide (r.len ≤ 4016)) (fun r s =>
    let n := r.body.length / 16
    if (List.range n).any fun k => (r.word (2 * k)).toNat % 65536 ≠ 0 || decide (2 ^ 52 ≤ (r.word (2 * k)).toNat) then .refuse badArg
    else writePairs r (n - r.pos) s) s

/-- PTE_READ (R42). -/
def execPteRead (s : State) : Host.Outcome State Fault Refusal :=
  serveOp 0x13 0 (fun r s => if 2 ^ 52 ≤ r.index then .refuse badArg else .done (bytesOf 8 (pte s (pageOf r.index)).toNat) s) s

/-! ## Reports (R26, R46) -/

/-- The 256 bytes of the report body. -/
def reportBody (s : State) (nonce : Bytes) : Bytes :=
  let p := s.pkg
  let world : List Nat := [p.worldSets.toNat, p.worldCopy.toNat, p.worldColl.toNat, p.worldPorts.toNat, p.worldTu.toNat] ++
    ((List.range 64).map fun n => (tget 0 p.regionDesc n).toNat) ++ [if p.worldLock then 1 else 0]
  bytesOf 4 0x53444134 ++ bytesOf 4 (1 + (if p.worldLock then 0x10000 else 0) + if p.bootRecov then 0x20000 else 0) ++
  bytesOf 8 p.serial.toNat ++ nonce ++ bytesOf 48 p.mroot.toNat ++ bytesOf 48 p.mmgmt.toNat ++
  bytesOf 48 (Config.sha384 (Config.worldBytes world)).toNat ++ bytesOf 4 p.fusedSvn.toNat ++ bytesOf 4 p.retired.toNat ++
  bytesOf 8 p.boots.toNat ++ bytesOf 32 0

/-- ATTEST (R26): the body, and its two signatures. -/
def execAttest (s : State) : Host.Outcome State Fault Refusal :=
  serveOp 0x14 48 (fun r s =>
    let b := reportBody s (r.body.take 48)
    .done (b ++ bytesOf 384 (Config.signRsa b).toNat ++ bytesOf 16224 (Config.signSlh b).toNat) s) s

/-- FAULT_READ (R46): the record, which the read clears. -/
def execFaultRead (s : State) : Host.Outcome State Fault Refusal :=
  serveOp 0x15 0 (fun r s => .done (bytesOf 64 (s.context r.ctx).fault.toNat) (s.modContext r.ctx fun c => { c with fault := 0 })) s

/-! ## Counters (R101) -/

/-- Core and counter of an INDEX. -/
def pmcIndex (r : MgmtReq) : Option (Nat × Nat) :=
  let i := r.index
  if i = i % 128 + i / 256 % 8 * 256 then some (i % 128, i / 256 % 8) else none

/-- PMC_READ (R42, R101). -/
def execPmcRead (s : State) : Host.Outcome State Fault Refusal :=
  serveOp 0x16 0 (fun r s =>
    match pmcIndex r with
    | none => .refuse badArg
    | some (core, n) =>
      let s := s.passCycles core
      .done (bytesOf 8 (tget 0 (s.core core).pmc n).toNat ++ bytesOf 8 (tget 0 (s.core core).pmcc n).toNat) s) s

/-- PMC_WRITE (R42, R101). -/
def execPmcWrite (s : State) : Host.Outcome State Fault Refusal :=
  serveOp 0x17 8 (fun r s =>
    match pmcIndex r with
    | none => .refuse badArg
    | some (core, n) => .done [] (writePmcc s core n (r.word 0))) s

/-- PMC_OVERFLOW (R101): a counter that has wrapped with INTEN set writes its event word to the event address of the
partition that owned the core then. -/
def execPmcOverflow (core n : Nat) (s : State) : Host.Outcome State Fault Refusal :=
  .next <|
    match (s.core core).overflow.find? fun o => o.1 = n with
    | none => s
    | some o =>
      let s := s.modCore core fun c => { c with overflow := c.overflow.erase o }
      let p := o.2
      let x := s.devReg (0x10 + p)
      let port := bits x 0 3
      let conn := bits x 16 12
      if (s.conn (connKey port conn)).valid then
        post s port conn (.write (s.devReg (8 + p)).toNat (x.extractLsb' 32 32) (bytesOf 8 (core + 256 * n)) none) (.event p)
      else s

/-! ## CTX_HALT, POWER and CEU_INFO (R15, R42) -/

/-- CTX_HALT (R42): the teardown, and the response once every team of the context has ended. -/
def execCtxHalt (s : State) : Host.Outcome State Fault Refusal :=
  serveOp 0x18 0 (fun r s =>
    let s := haltContext s r.ctx
    if contextBusy s r.ctx then .later s else .done [] s) s

/-- Every dirty line of the cores and then of the memory-side caches is written back, and no line of the latter is left (R15). -/
def emptyCaches (s : State) : State :=
  let s := (s.cores.map (·.1)).foldl writebackAll s
  (s.mem.msc.map (·.1)).foldl (fun s l => (mscClean s l).delMsc l) s

/-- POWER_ACTIVE (R15, R42): the POWER request for Active; an INDEX that names no state gives BADARG. -/
def execPowerActive (s : State) : Host.Outcome State Fault Refusal :=
  serve (fun r => r.opc = 0x19 && r.index ≠ 2 && r.index ≠ 3) (fun _ => true) (fun r s =>
    if r.index ≠ 0 then .refuse badArg
    else if s.pkg.power = .retention then
      let s := emptyCaches s
      .done [] { s with pkg := { s.pkg with power := .active } }
    else .done [] { s with pkg := { s.pkg with power := .active } }) s

/-- POWER_RETENTION (R15): refused while a team is resident. -/
def execPowerRetention (s : State) : Host.Outcome State Fault Refusal :=
  serve (fun r => r.opc = 0x19 && r.index = 2) (fun _ => true) (fun _ s =>
    if s.residents ≠ [] then .refuse busy
    else
      let s := emptyCaches s
      .done [] { s with pkg := { s.pkg with power := .retention } }) s

/-- POWER_OFF (R15): nothing is left to answer. -/
def execPowerOff (s : State) : Host.Outcome State Fault Refusal :=
  serve (fun r => r.opc = 0x19 && r.index = 3) (fun _ => true) (fun _ s => .later (powerLoss s .inReset true)) s

/-- The die of a correctable-error unit, from its block's number (R11). -/
def ceuDie (u : Nat) : Nat := if ceuKind u = 7 then ceuBlock u / 16 else if ceuKind u = 8 then stackDie (ceuBlock u) else ceuBlock u / 32

/-- CEU_INFO (R42). -/
def execCeuInfo (s : State) : Host.Outcome State Fault Refusal :=
  serveOp 0x1A 0 (fun r s =>
    if Config.ceuCount ≤ r.index then .refuse badArg
    else .done (bytesOf 8 (ceuKind r.index + ceuBlock r.index * 256 + ceuDie r.index % 4 * 65536)) s) s

/-- BADOP_REQUEST (R42): any other operation code. -/
def execBadopRequest (s : State) : Host.Outcome State Fault Refusal :=
  serve (fun r => r.opc = 0 || decide (0x1A < r.opc)) (fun _ => true) (fun _ _ => .refuse 1) s

end Sys2Proof.Machine
end

