-- ==== Sys2Proof/Machine/Sync.lean ====
section
/-! DEFINITION. Synchronisation inside a team (R109, R110, R325 to R331): barriers, tickets, queues, slices and growth.
A unit that waits is issued again and tests its condition again. -/

namespace Sys2Proof.Machine

/-- The team place that the barrier and ticket words hold: the place on the core of the scratchpad (R106, R109). -/
def Ctx.place (c : Ctx) : Nat := c.team.placeOn c.team.home

/-! ## Named barriers (R109, R325, R326) -/

def barOf (f : IForm) : Nat := bits f.imm 0 8
def barInit (f : IForm) : Bool := f.imm.getLsbD 8
def barExp (f : IForm) : Nat := bits f.imm 9 8

/-- The requirements of R325; BWAIT has no initialising form. -/
def encBar (f : IForm) (init : Bool) : Enc :=
  { ok := f.d = 0 && f.a = 0 && !f.fea && !f.feb && !f.fec && f.mod = 0 && f.lit.isNone && !f.imm.getLsbD 17 &&
      (if barInit f then init && decide (1 ≤ barExp f) && decide (barExp f ≤ 129) else barExp f = 0)
    uses := [], mask := f.mask }

def State.barrier (s : State) (core b : Nat) : W64 := tget 0 (s.core core).barriers b
def State.setBarrier (s : State) (core b : Nat) (w : W64) : State :=
  s.modCore core fun k => { k with barriers := tset 0 k.barriers b w }

/-- A barrier word (R109). -/
def barrierWord (expect arrived place : Nat) (phase : Bool) : W64 :=
  BitVec.ofNat 64 (expect % 65536 + arrived % 65536 * 65536 + (if phase then 2 ^ 32 else 0) + 2 ^ 33 + place % 16 * 2 ^ 40)

/-- HELD by the team at this place (R326). -/
def heldBy (w : W64) (place : Nat) : Bool := w.getLsbD 33 && bits w 40 4 = place

/-- An arrival counted on the word: a full phase flips PHASE (R326). -/
def barrierArrive (w : W64) (place : Nat) : W64 :=
  let n := bits w 16 16 + 1
  if n = bits w 0 16 then barrierWord (bits w 0 16) 0 place (!w.getLsbD 32)
  else barrierWord (bits w 0 16) n place (w.getLsbD 32)

/-- What an arrival does with the word (R326): the word it claims or finds, and none for cause 0x07. -/
def barrierClaim (f : IForm) (w : W64) (place : Nat) : Option W64 :=
  if barInit f then
    if !w.getLsbD 33 then some (barrierWord (barExp f) 0 place false)
    else if bits w 40 4 ≠ place || bits w 0 16 ≠ barExp f then none
    else some w
  else if heldBy w place then some w
  else none

/-- An arrival is a release that the waits for its phase meet (R109): the last one of the phase `w` counts completes it. -/
def arriveSync (s : State) (u : UnitRef) (core b : Nat) (w : W64) : State :=
  let s := s.pass (.unit u) (.arrive core b)
  if bits w 16 16 + 1 = bits w 0 16 then
    let ph := SyncPt.phase core b (bits w 32 1)
    ((s.forget fun p => p = ph).pass (.arrive core b) ph).forget fun p => p = .arrive core b
  else s

/-- The arrival of BARRIVE and BSYNC (R326): a release at scope 0, the unit's record, and the count. -/
def arriveBarrier (c : Ctx) (b : Nat) (w : W64) (s : State) : State :=
  let s := arriveSync (releaseL1 s c 0) c.u c.team.home b w
  let s := s.modUnit c.u fun u => { u with records := tset 0 u.records b (1 + bits w 32 1) }
  s.setBarrier c.team.home b (barrierArrive w c.place)

/-- Whether a wait on the barrier holds for a unit (R109, R326): it recorded the PHASE that the word still has. -/
def barrierWaits (u : UnitState) (b : Nat) (w : W64) : Bool := tget 0 u.records b = 1 + bits w 32 1

/-- BARRIVE (R326). -/
def execBarrive (f : IForm) (s : State) : Host.Outcome State Fault Refusal :=
  issue (.barrive f) (encBar f true) s fun c s =>
    match barrierClaim f (s.barrier c.team.home (barOf f)) c.place with
    | none => raiseHere c 0x07 0 0 s
    | some w =>
      if syncWait s c then parkAt c .retry s
      else advance c 1 (arriveBarrier c (barOf f) w s)

/-- A wait that ends follows every arrival of the phase that its unit arrived in (R109). -/
def phaseSync (s : State) (r : UnitRef) (u : UnitState) (core b : Nat) : State :=
  let n := tget 0 u.records b
  if n = 0 then s else s.pass (.phase core b (n - 1)) (.unit r)

/-- The wait of BWAIT and BSYNC (R326): parked until PHASE differs from the record; resumption is an acquire. -/
def barrierWait (c : Ctx) (b : Nat) (park : Park) (s : State) : State :=
  let w := s.barrier c.team.home b
  if !heldBy w c.place then raiseHere c 0x07 0 0 s
  else
    match s.unit? c.u with
    | none => s
    | some u => if barrierWaits u b w then parkAt c park s else advance c 1 (phaseSync (acquirePart s c 0) c.u u c.team.home b)

/-- BWAIT (R326). -/
def execBwait (f : IForm) (s : State) : Host.Outcome State Fault Refusal :=
  issue (.bwait f) (encBar f false) s fun c s =>
    if acquireOpen s c.u then parkAt c .retry s else barrierWait c (barOf f) .retry s

/-- BSYNC (R326, R333): its arrival once, and then its wait. -/
def execBsync (f : IForm) (s : State) : Host.Outcome State Fault Refusal :=
  issue (.bsync f) (encBar f true) s fun c s =>
    if (c.us.thread c.slot).park = .barrier (barOf f) then barrierWait c (barOf f) (.barrier (barOf f)) s
    else
      match barrierClaim f (s.barrier c.team.home (barOf f)) c.place with
      | none => raiseHere c 0x07 0 0 s
      | some w =>
        if syncWait s c then parkAt c .retry s
        else barrierWait c (barOf f) (.barrier (barOf f)) (arriveBarrier c (barOf f) w s)

/-! ## Ticket dispensers (R327, R328) -/

def State.ticket (s : State) (core n : Nat) : W64 := tget 0 (s.core core).tickets n
def State.setTicket (s : State) (core n : Nat) (w : W64) : State :=
  s.modCore core fun k => { k with tickets := tset 0 k.tickets n w }

/-- A dispenser word held by a team (R327). -/
def ticketWord (next serving place : Nat) : W64 :=
  BitVec.ofNat 64 (next % 2 ^ 24 + serving % 2 ^ 24 * 2 ^ 32 + 2 ^ 56 + place % 16 * 2 ^ 57)

def tkNext (w : W64) : Nat := bits w 0 24
def tkServing (w : W64) : Nat := bits w 32 24
def tkHeld (w : W64) : Bool := w.getLsbD 56
def tkPlace (w : W64) : Nat := bits w 57 4

/-- A names a register or a small-integer special, and no other special (R282, R328). -/
def tkA (f : RForm) : Bool := !(decide (0x180 ≤ f.a.toNat) && decide (f.a.toNat < 0x18E))

/-- The requirements shared by the ticket and queue instructions (R328, R329). -/
def encTk (f : RForm) (uses : List Use) : Enc :=
  { ok := f.c = 0 && !f.fec && f.mod = 0 && f.lit.isNone, uses := uses, mask := f.mask }

/-- The requirements of TKGET (R282, R328, R329). -/
def encTkget (f : RForm) : Enc :=
  let e := encTk f [Use.dst f.d 1 .reg, Use.src f.a f.fea 1 .sca]
  { e with ok := e.ok && tkA f && f.b = 0 && !f.feb }

/-- TKGET (R328). -/
def execTkget (f : RForm) (s : State) : Host.Outcome State Fault Refusal :=
  issue (.tkget f) (encTkget f) s fun c s =>
    let k := (sval s c f.a).toNat
    if 63 < k then raiseHere c 0x07 0 0 s
    else
      let w0 := s.ticket c.team.home k
      let w := if tkHeld w0 then w0 else ticketWord 0 0 c.place
      if tkPlace w ≠ c.place || (tkNext w + 2 ^ 24 - tkServing w) % 2 ^ 24 = 2 ^ 23 - 1 then raiseHere c 0x07 0 0 s
      else
        let s := s.setTicket c.team.home k (ticketWord (tkNext w + 1) (tkServing w) c.place)
        advance c 1 (writeS c f.d (BitVec.ofNat 64 (tkNext w)) s)

/-- The requirements of TKWAIT (R282, R328, R329). -/
def encTkwait (f : RForm) : Enc :=
  let e := encTk f [Use.src f.a f.fea 1 .sca, Use.src f.b f.feb 1 .sca]
  { e with ok := e.ok && tkA f && f.d = 0 }

/-- TKWAIT (R328). -/
def execTkwait (f : RForm) (s : State) : Host.Outcome State Fault Refusal :=
  issue (.tkwait f) (encTkwait f) s fun c s =>
    let k := (sval s c f.a).toNat
    let w := s.ticket c.team.home k
    if 63 < k || !tkHeld w || tkPlace w ≠ c.place then raiseHere c 0x07 0 0 s
    else if acquireOpen s c.u then parkAt c .retry s
    else
      let t := (sval s c f.b).toNat % 2 ^ 24
      if (tkServing w + 2 ^ 24 - t) % 2 ^ 24 < 2 ^ 23 then
        advance c 1 ((acquirePart s c 0).pass (.ticket c.team.home k) (.unit c.u))
      else parkAt c .retry s

/-- The requirements of TKADV (R282, R328, R329). -/
def encTkadv (f : RForm) : Enc :=
  let e := encTk f [Use.src f.a f.fea 1 .sca]
  { e with ok := e.ok && tkA f && f.d = 0 && f.b = 0 && !f.feb }

/-- TKADV (R328). -/
def execTkadv (f : RForm) (s : State) : Host.Outcome State Fault Refusal :=
  issue (.tkadv f) (encTkadv f) s fun c s =>
    let k := (sval s c f.a).toNat
    let w := s.ticket c.team.home k
    if 63 < k || !tkHeld w || tkPlace w ≠ c.place || tkServing w = tkNext w then raiseHere c 0x07 0 0 s
    else if syncWait s c then parkAt c .retry s
    else
      let s := (releaseL1 s c 0).pass (.unit c.u) (.ticket c.team.home k)
      advance c 1 (s.setTicket c.team.home k (ticketWord (tkNext w) (tkServing w + 1) c.place))

/-! ## Team queues (R110, R329) -/

/-- The oldest pop that waits on a queue. -/
def Team.popOf (t : Team) (q : Nat) : Option (UnitRef × Nat × Nat) := t.pops.find? fun p => p.2.1 = q

/-- A popped entry is delivered: the destination is written and marked full, an acquire at scope 0 of the popper (R110). -/
def deliverPop (s : State) (team : Nat) (p : UnitRef × Nat × Nat) (v : W64) : State :=
  let s := s.modTeam team fun t => { t with pops := t.pops.erase p }
  let s := s.modUnit p.1 fun u => (u.setSreg (p.2.2 - 0x100) v).mark p.2.2 1 false
  match s.team? team, s.unit? p.1 with
  | some t, some u =>
    if scopeLocal (scopeCores s t.wins t.cores u.core 0) u.core then s else acquireL1 s u.core
  | _, _ => s

/-- A pop has taken the oldest entry of a queue: it follows that entry's push (R110). -/
def popSync (s : State) (u : UnitRef) (q : Nat) : State :=
  let s := s.pass (.push u.team q 0) (.unit u)
  { s with order := { s.order with know := s.order.know.filterMap fun p => match p.1 with
      | .push t q' k => if t = u.team && q' = q then (if k = 0 then none else some (.push t q' (k - 1), p.2)) else some p
      | _ => some p } }

/-- The requirements of QPUSH (R282, R328, R329). -/
def encQpush (f : RForm) : Enc :=
  let e := encTk f [Use.src f.a f.fea 1 .sca, Use.src f.b f.feb 1 .sca]
  { e with ok := e.ok && f.d = 0 }

/-- QPUSH (R110, R329). -/
def execQpush (f : RForm) (s : State) : Host.Outcome State Fault Refusal :=
  issue (.qpush f) (encQpush f) s fun c s =>
    let q := (sval s c f.a).toNat
    if 7 < q then raiseHere c 0x07 0 0 s
    else if 16 ≤ (tget [] c.team.queues q).length || syncWait s c then parkAt c .retry s
    else
      let v := sval s c f.b
      let s := releaseL1 s c 0
      match c.team.popOf q with
      | some p => advance c 1 (deliverPop (s.pass (.unit c.u) (.unit p.1)) c.u.team p v)
      | none =>
        let s := s.pass (.unit c.u) (.push c.u.team q (tget [] c.team.queues q).length)
        advance c 1 (s.modTeam c.u.team fun t => { t with queues := tset [] t.queues q (tget [] t.queues q ++ [v]) })

/-- The requirements of QPOP (R282, R328, R329). -/
def encQpop (f : RForm) : Enc :=
  let e := encTk f [Use.dst f.d 1 .reg, Use.src f.a f.fea 1 .sca]
  { e with ok := e.ok && f.b = 0 && !f.feb }

/-- QPOP (R110, R329): the oldest entry at once, or a pending pop. -/
def execQpop (f : RForm) (s : State) : Host.Outcome State Fault Refusal :=
  issue (.qpop f) (encQpop f) s fun c s =>
    let q := (sval s c f.a).toNat
    if 7 < q then raiseHere c 0x07 0 0 s
    else
      match tget [] c.team.queues q with
      | v :: l =>
        let s := (popSync s c.u q).modTeam c.u.team fun t => { t with queues := tset [] t.queues q l }
        advance c 1 (deliverPop s c.u.team (c.u, q, f.d.toNat) v)
      | [] =>
        let s := s.modTeam c.u.team fun t => { t with pops := t.pops ++ [(c.u, q, f.d.toNat)] }
        advance c 1 (s.modUnit c.u fun u => u.mark f.d.toNat 1 true)

/-! ## Slices and growth (R80, R330, R331) -/

/-- The requirements of SLICE (R282, R283). -/
def encSlice (f : RForm) : Enc := { ok := allZero f, uses := [], mask := f.mask }

/-- SLICE (R330): the unit parks until the team is at its SLICE (TEAM_AT_SLICE). -/
def execSlice (f : RForm) (s : State) : Host.Outcome State Fault Refusal :=
  issue (.slice f) (encSlice f) s fun c s =>
    if c.regionOpen && !c.inHandler then raiseHere c 0x01 0 0 s else parkAt c .slice s

/-- Teams that GROW requests on their way to the distributor will add to a launch. -/
def pendingGrowth (s : State) (launch : Nat) : Nat :=
  (s.growReqs.filter fun g => match s.team? g.u.team with | some t => t.launch = launch | none => false).foldl (fun n g => n + g.k) 0

/-- The requirements of GROW (R282, R283). -/
def encGrow (f : IForm) : Enc :=
  { ok := f.a = 0 && !f.fea && !f.feb && !f.fec && (f.mod = 0 || f.mod = 0x80) && litOkI f
    uses := [Use.dst f.d 1 .reg], mask := f.mask, len := lenOf f.lit }

/-- GROW (R331): one request to the distributor, whose answer is written into D. -/
def execGrow (f : IForm) (s : State) : Host.Outcome State Fault Refusal :=
  let e := encGrow f
  issue (.grow f) e s fun c s =>
    let k := (immZ f).toNat
    match (c.us.thread c.slot).park with
    | .grow (some v) =>
      advance c e.len (writeS c f.d v (s.modUnit c.u fun u => u.modThread c.slot fun t => { t with park := .none }))
    | .grow none => parkAt c (.grow none) s
    | _ =>
      if 2 ^ 40 < c.launch.count + pendingGrowth s c.team.launch + k || (1 < c.launch.setsz && k % c.launch.setsz ≠ 0) ||
          c.launch.role ≠ .none then raiseHere c 0x07 0 0 s
      else parkAt c (.grow none) { s with growReqs := s.growReqs ++ [⟨c.u, c.slot, k⟩] }

end Sys2Proof.Machine
end

