-- ==== Sys2Proof/Machine/Issue.lean ====
section
/-! DEFINITION. How units come to issue (R85 to R87, R98, R118, R272 to R275) and how their causes are delivered (R119 to
R121, R333). -/

namespace Sys2Proof.Machine

/-! ## Where a stream stands -/

/-- In the middle of a clause and not parked. -/
def Thread.midClause (th : Thread) : Bool := th.met && th.park = .none

/-- The instruction at which a stream stands, once its clause is fetched (R275). -/
def Thread.instr? (th : Thread) : Option Instr :=
  match decodeWords th.header.cls (th.words.drop th.idx) with
  | .ok (i, _) => some i
  | .error _ => none

/-- The streams of a unit that may issue. -/
def UnitState.liveSlots (u : UnitState) : List Nat := allSlots.filter fun k => u.streamLive k

/-- Parked at one of the instructions that a team-level cause interrupts (R81, R333), or after its clause (R204). -/
def Thread.atWait (th : Thread) : Bool :=
  match th.park with
  | .none | .trap | .ring _ _ | .slice => true
  | .barrier _ | .grow _ => true
  | _ =>
    match th.instr? with
    | some (.bwait _) | some (.bsync _) | some (.tkwait _) | some (.qpush _) | some (.grow _) | some (.waitfe _) => true
    | _ => false

/-- Every lane of the instruction behind a cause has reached its home, so that F is complete (R121, R129). -/
def settled (s : State) (p : PendTrap) : Bool :=
  match p.rep.acc.bind s.access? with
  | some a => a.lanes.all fun l => l.st ≠ .waiting
  | none => true

/-- Whether a cause is to be delivered now: lane-level causes at the next clause boundary or to a parked unit, a
team-level one at a boundary or at the waits of R333, none in handler mode, and none of these two before what TRET or a restoration
issues again (R98, R122). -/
def trapDue (s : State) (u : UnitState) (p : PendTrap) : Bool :=
  !u.exited && settled s p && u.handler.isNone && (p.level = 1 || p.level = 3 || (u.override.isNone && !u.replays.any (·.restored))) &&
  (u.liveSlots.all fun k => !(u.thread k).midClause && (p.level ≠ 2 || (u.thread k).atWait))

/-- The cause to be delivered first: one of an instruction that has not acted, then lane-level causes in issue order, then
team-level ones (R121). -/
def firstDue (s : State) (u : UnitState) : Option PendTrap :=
  let due := u.pending.filter (trapDue s u)
  match due.find? fun p => p.level = 1 || p.level = 3 with
  | some p => some p
  | none =>
    match pickBest (fun (x y : PendTrap) => match x.rep.acc, y.rep.acc with | some a, some b => decide (a < b) | some _, none => true | none, _ => false)
        (due.filter fun p => p.level = 0) with
    | some p => some p
    | none => due.head?

/-- A unit that executes: the part is in the Active state (R15), and its team runs with every chain restarted (R98). -/
def unitRuns (s : State) (r : UnitRef) : Bool :=
  s.pkg.power = .active &&
  (match s.team? r.team with | some t => t.life = .running && t.restarts = [] && (s.launch? t.launch).isSome | none => false)

/-- An instruction of the unit is to be issued again now: after a restoration in any mode (R98), else in the mode that the unit is in. -/
def UnitState.reissues (u : UnitState) (r : Replay) : Bool := r.restored || decide (decide (5 ≤ r.slot) = u.handler.isSome)

/-- What a save withdrew from some unit of the team is still to be issued again, which comes before all normal issue (R98). -/
def teamReissues (s : State) (team : Nat) : Bool :=
  match s.team? team with
  | some t => (t.caller :: t.groups).any fun u => !u.exited &&
      (u.replays.any (·.restored) || u.override.any (·.restored))
  | none => false

/-- A unit whose streams may go on: no cause and no replay comes first (R98, R120). -/
def mayIssue (s : State) (r : UnitRef) (u : UnitState) : Bool :=
  unitRuns s r && !u.override.any u.reissues && !u.replays.any u.reissues && !teamReissues s r.team && (firstDue s u).isNone

/-! ## CLAUSE_FETCH_COMPLETE (R272, R274, R275, R115) -/

/-- A cause taken at a clause address belongs to no instruction (R274). -/
def clauseRep (slot pc : Nat) (em : W64) : Replay :=
  { instr := none, pc := pc, idx := 1, slot := slot, em := em, acc := none, dst := none, regs := 0 }

/-- What the words of a clause give together: the first that is refused decides, and one that waits makes the clause wait (log 5). -/
def joinWords (as : List WordAns) : Except WordAns (List W64) :=
  match as.find? fun a => match a with | .fault _ _ _ => true | _ => false with
  | some a => .error a
  | none => if as.any (fun a => a = .wait) then .error .wait else .ok (as.map fun a => match a with | .word w => w | _ => 0)

/-- The words of a clause, its header and COUNT + 1 more, read as loads of the unit with kind fetch (R272). -/
def fetchClause (s : State) (r : UnitRef) (t : Team) (core slot pc : Nat) : (Except WordAns (List W64)) × State :=
  let rep := clauseRep slot pc 0
  match codeWord s r t core rep 0 pc with
  | (.word h, s) =>
    let (as, s) := (List.range ((decodeHeader h).count + 1)).foldl (fun (p : List WordAns × State) k =>
      let (a, s) := codeWord p.2 r t core rep (k + 1) ((pc + 8 * (k + 1)) % 2 ^ 64)
      (p.1 ++ [a], s)) ([.word h], s)
    (joinWords as, s)
  | (a, s) => (.error a, s)

/-- A fetch that is parked has a word to go on with (R136). -/
def fetchStirs (s : State) (r : UnitRef) (slot pc : Nat) : Bool :=
  match probeFor s r (clauseRep slot pc 0) with
  | some a => a.lanes.any fun l => l.st = .waiting && replayTurn s a.id l.lane (pageOf l.ia)
  | none => true

/-- Instructions that end their clause (R113, R275, R324, R330). -/
def endsClause : Instr → Bool
  | .bra _ | .brz _ | .brnz _ | .call _ | .ret _ | .split _ | .join _ | .calli _ | .exit _ | .yield _ | .slice _ | .tret _
  | .xcopyy _ => true
  | _ => false

/-- The words after the header (R275): each literal is there, and nothing follows an instruction that ends its clause. -/
def wordsOk (cls : BitVec 3) : Nat → List W64 → Bool
  | 0, _ => true
  | _ + 1, [] => true
  | n + 1, l =>
    match decodeWords cls l with
    | .error _ => false
    | .ok (i, rest) => if endsClause i then rest = [] else wordsOk cls n rest

/-- Classes that a stream allows (R274). -/
def classAllowed (caller : Bool) (cls : BitVec 3) : Bool :=
  cls = 3 || cls = 4 || cls = 6 || (if caller then cls = 5 else cls = 0 || cls = 1 || cls = 2)

/-- A WREG that names no register (R118, R273). -/
def noWreg (w : BitVec 9) : Bool := decide (0x180 ≤ w.toNat)

/-- A WREG that the stream cannot name (R274). -/
def badWreg (caller : Bool) (w : BitVec 9) : Bool :=
  (caller && (decide (w.toNat < 0x100) || (decide (0x140 ≤ w.toNat) && decide (w.toNat < 0x180)))) ||
  (decide (0x18E ≤ w.toNat) && decide (w.toNat < 0x1C0))

/-- A WREG at or above the unit's allocation (R274). -/
def overWreg (caller : Bool) (b : Budget) (w : BitVec 9) : Bool :=
  if w.toNat < 0x100 then decide (b.vregs ≤ w.toNat)
  else !noWreg w && decide ((if caller then b.cregs else b.sregs) ≤ w.toNat - 0x100)

def headerWregs (h : Header) : List (BitVec 9) := [h.wreg0, h.wreg1, h.wreg2]

/-- The checks of R274 on a header, in their order. -/
def headerCause (s : State) (r : UnitRef) (core : Nat) (b : Budget) (h : Header) : Option Byte :=
  let caller := r.grp.isNone
  if h.reserved ≠ 0 || h.cls = 7 then some 0x02
  else if h.stream ≠ caller then some 0x02
  else if !classAllowed caller h.cls then some 0x02
  else if h.joinpt && caller then some 0x02
  else if (headerWregs h).any (badWreg caller) then some 0x02
  else if (headerWregs h).any (overWreg caller b) then some 0x03
  else if h.ringw && !ringHeld s core h.ring r.team then some 0x07
  else none

/-- A cause taken at the clause address, before any instruction of the clause (R274). -/
def clauseTrap (s : State) (r : UnitRef) (slot pc : Nat) (cause : Byte) (info : W64 := 0) (addr : Nat := 0) : State :=
  takeTrap s r slot
    { cause := cause, level := if r.grp.isNone then 3 else 1, f := 0, addr := BitVec.ofNat 64 addr, info := info
      rep := clauseRep slot pc 0 }

/-- The stream is at the join address of an open SPLIT region (R115). -/
def atJoin (u : UnitState) (slot pc : Nat) : Bool := slot ≠ 0 && slot ≠ 5 && u.inRegion && !u.region.kind && u.region.join = pc

/-- The clause that follows the one that a stream issues has been read before the stream reaches it (R272): its words as they then are.
One that cannot be read yet is read when the stream stands there. -/
def fetchAhead (s : State) (r : UnitRef) (t : Team) (u : UnitState) (slot : Nat) : State :=
  let th := u.thread slot
  let pc := th.nextPc
  if !th.run || th.ahead ≠ [] || pc % 8 ≠ 0 then s
  else
    match fetchClause s r t u.core slot pc with
    | (.ok ws, s) => s.modUnit r fun u => u.modThread slot fun th => { th with ahead := ws }
    | (.error _, _) => s

/-- CLAUSE_FETCH_COMPLETE (R272): the clause at which a stream stands arrives; its header and its words are checked, or
the fetch is refused. A group that XCOPYY has parked fetches when it resumes (R407). Of a stream that issues, the clause that
follows arrives. -/
def execClauseFetchComplete (r : UnitRef) (slot : Nat) (s : State) : Host.Outcome State Fault Refusal :=
  .next <|
    match s.team? r.team, s.unit? r with
    | some t, some u =>
      match s.launch? t.launch with
      | none => s
      | some l =>
        let th := u.thread slot
        let pc := th.pc
        let refused := u.pending.any fun p => p.rep.instr.isNone && p.rep.slot = slot && p.level = 0
        let held := match th.park with | .ring k _ => !ringReady (s.ring u.core k) | _ => false
        if !u.streamLive slot || refused || held || !mayIssue s r u then s
        else if th.words ≠ [] then fetchAhead s r t u slot
        else if pc % 8 ≠ 0 then clauseTrap s r slot pc 0x02
        else if th.ahead = [] && !fetchStirs s r slot pc then s
        else
          match (if th.ahead = [] then fetchClause s r t u.core slot pc else (.ok th.ahead, s)) with
          | (.error .wait, s) => s
          | (.error (.fault k info a), s) =>
            if r.grp.isNone then clauseTrap s r slot pc k info a
            else
              addPending s r { cause := k, level := 0, f := u.xOf slot, addr := BitVec.ofNat 64 a, info := info
                               rep := clauseRep slot pc (u.xOf slot) }
          | (.error (.word _), s) => s
          | (.ok ws, s) =>
            let s := endProbe s r (clauseRep slot pc 0)
            let h := decodeHeader (ws.headD 0)
            match headerCause s r u.core l.budget h with
            | some k => clauseTrap s r slot pc k
            | none =>
              if !wordsOk h.cls 16 (ws.drop 1) then clauseTrap s r slot pc 0x02
              else if atJoin u slot pc then (if h.joinpt then arrive s r slot else clauseTrap s r slot pc 0x02)
              else s.modUnit r fun u => u.modThread slot fun th => { th with words := ws, ahead := [], idx := if th.met then th.idx else 1 }
    | _, _ => s

/-! ## Clause selection (R85 to R87) -/

/-- The waits of a clause's header (R85, R109, R117, R118, R199). A barrier that the team does not hold does not hold the
clause back: it raises cause 0x07. -/
def waitsHold (s : State) (r : UnitRef) (t : Team) (u : UnitState) (h : Header) : Bool :=
  let w := s.barrier t.home h.bar
  (!h.loads || loadsDone s r) && (!h.stores || storesDone s r) &&
  (!h.barw || !heldBy w (t.placeOn t.home) || (!barrierWaits u h.bar w && !acquireOpen s r)) &&
  (!h.ringw || !ringHeld s u.core h.ring r.team || (ringReady (s.ring u.core h.ring) && !acquireOpen s r)) &&
  (headerWregs h).all fun x => noWreg x || !u.isEmpty x.toNat 1

/-- The stream's next clause is ready (R85): it has been fetched, the stream is not parked and its waits hold, or they
count as met. -/
def readySlot (s : State) (r : UnitRef) (t : Team) (u : UnitState) (slot : Nat) : Bool :=
  let th := u.thread slot
  let free := match th.park with | .none => true | .ring k _ => ringReady (s.ring u.core k) | _ => false
  u.streamLive slot && th.words ≠ [] && !th.run && free && (th.met || waitsHold s r t u th.header)

/-- The ready stream of a unit that issued least recently (R85). -/
def readyOf (s : State) (r : UnitRef) : Option Nat :=
  match s.team? r.team, s.unit? r with
  | some t, some u =>
    if !mayIssue s r u then none
    else pickBest (fun x y => decide ((u.thread x).lastIssue < (u.thread y).lastIssue)) (allSlots.filter (readySlot s r t u))
  | _, _ => none

/-- Resumption after a wait on a barrier or a ring is an acquire (R109, R199). -/
def headerAcquire (s : State) (r : UnitRef) (t : Team) (core : Nat) (h : Header) : State :=
  let s := if h.barw && !scopeLocal (scopeCores s t.wins t.cores core 0) core then acquireL1 s core else s
  let s := match s.unit? r with
    | some u => if h.barw then phaseSync s r u t.home h.bar else s
    | none => s
  if h.ringw then (acquireL1 s core).pass (.slot core h.ring (rgR (s.ring core h.ring))) (.unit r) else s

/-- A ready clause starts to issue on its port. -/
def startClause (s : State) (r : UnitRef) (slot : Nat) : State :=
  match s.team? r.team, s.unit? r with
  | some t, some u =>
    let th := u.thread slot
    let h := th.header
    if !th.met && h.barw && !heldBy (s.barrier t.home h.bar) (t.placeOn t.home) then clauseTrap s r slot th.pc 0x07
    else if !th.met && h.ringw && !ringHeld s u.core h.ring r.team then clauseTrap s r slot th.pc 0x07
    else
      let s := if th.met then s else headerAcquire (s.countCore u.core 0x02 1) r t u.core h
      let now := (s.core u.core).cycles.toNat
      let s := s.modUnit r fun u =>
        { u.modThread slot fun th => { th with run := true, met := true, park := .none, lastIssue := now } with lastIssue := now }
      s.modPort u.core (portOf r u) fun p => { p with busy := p.busy ++ [(r, slot)] }
  | _, _ => s

/-- Whether a clause allows a switch after it, and its class. -/
def clauseOf (s : State) (r : UnitRef) (slot : Nat) : Bool × BitVec 3 :=
  match s.unit? r with
  | some u => ((u.thread slot).header.yields, (u.thread slot).header.cls)
  | none => (false, 0)

/-- The groups of a partition. -/
def partGroups (s : State) (core part : Nat) : List UnitRef :=
  (s.onCore core).flatMap fun p => (p.2.refs p.1).filter fun r =>
    match r.grp, s.unit? r with | some _, some u => u.core = core && u.part = part | _, _ => false

/-- The order in which a partition serves groups: the smallest LastIssue, then the lowest slot, then the lower half. -/
def groupBefore (s : State) (x y : UnitRef × Nat) : Bool :=
  match s.unit? x.1, s.unit? y.1 with
  | some a, some b => decide (a.lastIssue < b.lastIssue) || (a.lastIssue = b.lastIssue && decide (a.halves.headD 0 < b.halves.headD 0))
  | _, _ => false

/-- A 16-lane group's slot partner, if it is ready with a clause of the same class (R85). -/
def slotPartner (s : State) (c : List (UnitRef × Nat)) (g : UnitRef × Nat) : Option (UnitRef × Nat) :=
  match s.unit? g.1 with
  | none => none
  | some u =>
    match u.halves with
    | [h] => c.find? fun q => q.1 ≠ g.1 && (clauseOf s q.1 q.2).2 = (clauseOf s g.1 g.2).2 &&
        (match s.unit? q.1 with | some v => v.halves = [h / 2 * 2 + (1 - h % 2)] | none => false)
    | _ => none

/-- CLAUSE_SELECT (R85, R86): a selection takes a cycle at least, so that LastIssue orders selections. Of two partners that issue
together the selected one counts as the group that issued (DEDUCED, log 110). -/
def execClauseSelect (core part : Nat) (s : State) : Host.Outcome State Fault Refusal :=
  .next <|
    let port := tget default (s.core core).parts part
    let c := (partGroups s core part).filterMap fun r => (readyOf s r).map fun k => (r, k)
    if port.busy ≠ [] then s
    else
      let again := if !port.lastYield && decide (port.chain < 4) then c.find? fun g => some g.1 = port.last else none
      match (match again with | some g => some g | none => pickBest (groupBefore s) c) with
      | none => s
      | some g =>
        let partner := slotPartner s c g
        let s := (s.elapse core 1).modPort core (some part) fun p =>
          { p with last := some g.1, lastYield := (clauseOf s g.1 g.2).1, chain := if again.isSome then p.chain + 1 else 1 }
        let s := startClause s g.1 g.2
        match partner with
        | some q => startClause s q.1 q.2
        | none => s

/-- CALLER_CLAUSE_SELECT (R87): the ready caller with the smallest LastIssue, then the lowest team place. -/
def execCallerClauseSelect (core : Nat) (s : State) : Host.Outcome State Fault Refusal :=
  .next <|
    let c := (s.onCore core).filterMap fun p =>
      if p.2.home = core then (readyOf s ⟨p.1, none⟩).map fun k => (p.2.caller.lastIssue, p.2.placeOn core, (⟨p.1, none⟩ : UnitRef), k) else none
    if (s.core core).callerPort.busy ≠ [] then s
    else
      match pickBest (fun x y => decide (x.1 < y.1) || (x.1 = y.1 && decide (x.2.1 < y.2.1))) c with
      | some x => startClause (s.elapse core 1) x.2.2.1 x.2.2.2
      | none => s

/-! ## TRAP_DELIVERY (R119 to R121, R333) -/

/-- The stream to which the unit returns after a cause: the faulting one where it still stands, else the first. -/
def trapSlot (u : UnitState) (p : PendTrap) : Nat := if u.streamLive p.rep.slot then p.rep.slot else u.liveSlots.headD 0

/-- A team-level cause names the instruction at which the unit is parked, or the clause that comes next (R122, R333). -/
def atDelivery (u : UnitState) (slot : Nat) (p : PendTrap) : PendTrap :=
  if p.level ≠ 2 then p
  else
    let th := u.thread slot
    match th.park with
    | .none | .trap | .ring _ _ => { p with rep := { p.rep with instr := none, pc := th.pc, idx := 1, slot := slot } }
    | _ => { p with rep := { p.rep with instr := th.instr?, pc := th.pc, idx := th.idx, slot := slot, em := u.xOf slot } }

/-- TRAP_DELIVERY (R120): a cause that waits is delivered. -/
def execTrapDelivery (r : UnitRef) (s : State) : Host.Outcome State Fault Refusal :=
  .next <|
    match s.team? r.team, s.unit? r with
    | some t, some u =>
      match firstDue s u with
      | none => s
      | some p =>
        if t.life ≠ .running then s
        else
          let slot := trapSlot u p
          let s := s.modUnit r fun u =>
            { u.modThread slot fun th => { th with park := if th.park = .trap then .none else th.park } with pending := u.pending.erase p }
          takeTrap s r slot (atDelivery u slot p)
    | _, _ => s

end Sys2Proof.Machine
end

