-- ==== Sys2Proof/Machine/Raster.lean ====
section
/-! DEFINITION. The quadrille of a raster stream (R230 to R243): forwarding, merging and rasterising primitives, forming
fragment teams and performing render outputs. -/

namespace Sys2Proof.Machine

/-! ## Fields of the stream (R230, R231) -/

def rsFront (st : Stream) : Bool := st.desc.getLsbD 72
def rsCull (st : Stream) : Nat := bits st.desc 73 2
def rsWidth (st : Stream) : Nat := bits st.desc 80 15
def rsHeight (st : Stream) : Nat := bits st.desc 96 15
def rsOmap (st : Stream) : Nat := bits st.desc 128 57
def rsPbuf (st : Stream) : Nat := bits st.desc 320 57
def rsPblog (st : Stream) : Nat := bits st.desc 377 5
def rsTw (st : Stream) : Nat := ceilDiv (rsWidth st) 64
def rsTh (st : Stream) : Nat := ceilDiv (rsHeight st) 64

/-! ## The end of a stream (R65, R230, R232, R238, R243) -/

/-- Teams of a stream. -/
def streamTeams (s : State) (k : Nat) : List (Nat × Team) :=
  s.teams.filter fun p => match s.launch? p.2.launch with
    | some l => (match l.role with | .geometry n _ | .fragment n _ => n = k | .none => false)
    | none => false

/-- A stream that cannot go on ends with a status, and its teams end with it. -/
def stopStream (s : State) (k : Nat) (status : Byte) : State :=
  let mine := streamTeams s k
  let s := (mine.filter fun p => p.2.life ≠ .pending && p.2.life ≠ .ended).foldl (fun s p => haltTeam s p.1) s
  let s := (mine.filter fun p => p.2.life = .pending).foldl (fun s p => haltSaved s p.1) s
  endStream s k status

/-- Everything of the stream has been drawn. -/
def streamDone (s : State) (k : Nat) (st : Stream) : Bool :=
  st.sources.all (fun p => p.2.w.isNone && p.2.emits = []) && st.live.all (fun p => p.2 = []) &&
  st.owners.all (fun p => p.2.inbound.all (fun l => l.2 = []) && p.2.frags = [] && p.2.ready = [] && p.2.live = []) && streamTeams s k = []

/-- A stream whose every draw has been blended completes (R65), with FAULT where something of it was lost (R238, R243). -/
def settleStream (s : State) (k : Nat) : State :=
  match s.stream? k with
  | some st => if streamDone s k st then endStream s k (if st.fault then 4 else 0) else s
  | none => s

/-! ## Transform and clip (R235) -/

/-- A clipping plane as its distance: coefficients of x, y, z and w. -/
structure Plane where
  x : Rat
  y : Rat
  z : Rat
  w : Rat
  deriving DecidableEq, Repr, Inhabited

/-- The planes in their order: near, far, left, right, bottom, top. -/
def planes (width height : Nat) : List Plane :=
  let r (a : Int) (b : Nat) : Rat := mkRat a b
  [⟨0, 0, 1, 0⟩, ⟨0, 0, -1, 1⟩, ⟨1, 0, 0, 1 + r 32768 width⟩, ⟨-1, 0, 0, r 65534 width - 1⟩, ⟨0, 1, 0, r 65534 height - 1⟩,
   ⟨0, -1, 0, 1 + r 32768 height⟩]

/-- The exact distance of a vertex from a plane. -/
def Plane.dist (p : Plane) (v : List W32) : Num :=
  let term (c : Rat) (n : Nat) : Num := if c = 0 then .fin false 0 else (Num.ofRat c).mul (f32Val (v.getD n 0))
  (((term p.x 0).add .rne (term p.y 1)).add .rne (term p.z 2)).add .rne (term p.w 3)

def inside (d : Num) : Bool :=
  match d.cmp (.fin false 0) with
  | some .lt => false
  | some _ => true
  | none => false

/-- A position and attributes at t between a and b. -/
def lerpVertex (t : W32) (a b : List W32) : List W32 :=
  (a.zip b).map fun p => f32Round ((f32Val p.1).add .rne ((f32Val t).mul ((f32Val p.2).add .rne (f32Val p.1).neg)))

/-- The part of a polygon on the inner side of a plane. -/
def clipPlane (poly : List (List W32)) (p : Plane) : List (List W32) :=
  (poly.zip (poly.drop 1 ++ poly.take 1)).flatMap fun e =>
    let da := p.dist e.1
    let db := p.dist e.2
    let t := f32Round (da.div (da.add .rne db.neg))
    (if inside da then [e.1] else []) ++ (if inside da != inside db then [lerpVertex t e.1 e.2] else [])

/-- c = M × p, each component one rounding of the exact sum of its four products. -/
def transformPos (m : List W32) (v : List W32) : List W32 :=
  let comp (r : Nat) : W32 :=
    let prod (n : Nat) : Num := (f32Val (m.getD (4 * r + n) 0)).mul (f32Val (v.getD n 0))
    f32Round ((((prod 0).add .rne (prod 1)).add .rne (prod 2)).add .rne (prod 3))
  (List.range 4).map comp ++ v.drop 4

/-! ## Window coordinates (R235 step 3) -/

/-- A rational rounded by RNE to an integer. -/
def rneInt (q : Rat) : Int := if q < 0 then -(roundInt (-q) .rne true : Int) else (roundInt q .rne false : Int)

/-- A 16.8 coordinate; one that the spec gives no value (R7) is a free value. -/
def grid (x : Num) (s : State) : Int × State :=
  match x with
  | .fin _ q => (rneInt (q * 256), s)
  | _ => let (v, s) := s.draw 24; ((v.toNat : Int) % 12582912 - 4194304, s)

/-- The window position of a vertex, and the values that travel with it: z/w, w and its attributes. -/
def window (st : Stream) (v : List W32) (s : State) : ((Int × Int) × List W32) × State :=
  let w := f32Val (v.getD 3 0)
  let q (n : Nat) : Num := f32Val (f32Round ((f32Val (v.getD n 0)).div w))
  let half (n : Nat) : Num := Num.ofRat (mkRat n 2)
  let one := Num.ofInt 1
  let (x, s) := grid (((q 0).add .rne one).mul (half (rsWidth st))) s
  let (y, s) := grid ((one.add .rne (q 1).neg).mul (half (rsHeight st))) s
  (((x, y), f32Round ((f32Val (v.getD 2 0)).div w) :: v.drop 3), s)

/-- Twice the signed area, positive for vertices that run clockwise on screen with y downward (R239). -/
def edge (a b p : Int × Int) : Int := (b.1 - a.1) * (p.2 - a.2) - (b.2 - a.2) * (p.1 - a.1)

/-! ## Binning (R232, R235 step 4) -/

/-- The ownership entry of a (view, tile): read once in a stream. -/
def ownerEntry (s : State) (k : Nat) (st : Stream) (view tile : Nat) : Except EngAns W32 × State :=
  let n := view * (rsTh st * rsTw st) + tile
  match tfind st.omap n with
  | some w => (.ok w, s)
  | none =>
    let va := (rsOmap st + 4 * n) % 2 ^ 64
    match engineCheck s st.wins (stSecure s st) false va 4 with
    | .ok =>
      let (bad, bs, s) := engineRead s st.wins (stSecure s st) va 4 (s.partOf st.ctx)
      if bad then (.error (.stop 0x0A 1024 va), s)
      else
        let w : W32 := BitVec.ofNat 32 (natOf bs)
        (.ok w, s.modStream k fun st => { st with omap := tput st.omap n w })
    | a => (.error a, engineNote s st.wins false a (s.partOf st.ctx))

/-- The tiles that a triangle's bounding box overlaps, row by row. -/
def tilesOf (st : Stream) (xs : List (Int × Int)) : List Nat :=
  let lo (f : Int × Int → Int) : Int := (xs.map f).foldl min (f (xs.headD (0, 0)))
  let hi (f : Int × Int → Int) : Int := (xs.map f).foldl max (f (xs.headD (0, 0)))
  let overrides (a b : Int) (n : Nat) : Bool := decide (a < 16384 * ((n : Int) + 1)) && decide (16384 * (n : Int) ≤ b)
  ((List.range (rsTh st)).filter (overrides (lo (·.2)) (hi (·.2)))).flatMap fun ty =>
    ((List.range (rsTw st)).filter (overrides (lo (·.1)) (hi (·.1)))).map fun tx => ty * rsTw st + tx

/-- What forwarding a primitive to its owners gives. -/
inductive BinAns where
  | ok
  | wait
  | format
  deriving DecidableEq, Repr, Inhabited

/-- A triangle sent to the owner of each of its tiles. -/
def sendTiles (k src : Nat) (p : Prim) : List Nat → State → BinAns × State
  | [], s => (.ok, s)
  | t :: ts, s =>
    match s.stream? k with
    | none => (.ok, s)
    | some st =>
      match ownerEntry s k st p.view t with
      | (.error .wait, s) => (.wait, s)
      | (.error _, s) => (.format, s)
      | (.ok w, s) =>
        if bits w 2 6 ≠ 0 then (.format, s)
        else
          let s := s.modStream k fun st =>
            let o := tget default st.owners (bits w 0 2)
            { st with owners := tput st.owners (bits w 0 2) { o with inbound := tput o.inbound src (tget [] o.inbound src ++ [{ p with tile := t }]) } }
          sendTiles k src p ts s

/-- One view of a PEMIT: transform, clip, window, cull and bin. -/
def forwardView (k src : Nat) (m : Emit) (view : Nat) (s : State) : BinAns × State :=
  match s.stream? k with
  | none => (.ok, s)
  | some st =>
    let mat := tget [] st.views view
    let poly := (planes (rsWidth st) (rsHeight st)).foldl clipPlane (m.verts.map (transformPos mat))
    let (pts, s) := poly.foldl (fun (p : List ((Int × Int) × List W32) × State) v =>
      let (x, s) := window st v p.2
      (p.1 ++ [x], s)) ([], s)
    -- a clipped triangle is a fan of triangles about its first vertex
    (List.range (pts.length - 2)).foldl (fun (acc : BinAns × State) i =>
      match acc.1 with
      | .ok =>
        let tri := [pts.getD 0 default, pts.getD (i + 1) default, pts.getD (i + 2) default]
        let xs := tri.map (·.1)
        let area := edge (xs.getD 0 default) (xs.getD 1 default) (xs.getD 2 default)
        let back := decide (0 < area) == rsFront st
        if area = 0 || (rsCull st = 1 && back) || (rsCull st = 2 && !back) then acc
        else
          sendTiles k src { seq := m.seq, view := view, part := i, tile := 0, nattr := m.nattr, back := back, xs := xs, verts := tri.map (·.2) }
            (tilesOf st xs) acc.2
      | _ => acc) (.ok, s)

/-- Every view named in the mask, in ascending order. -/
def forwardEmit (k src : Nat) (m : Emit) (s : State) : BinAns × State :=
  match s.stream? k with
  | none => (.ok, s)
  | some st =>
    ((List.range (min 128 (rsNview st))).filter fun v => m.mask.getLsbD v).foldl (fun (acc : BinAns × State) v =>
      match acc.1 with
      | .ok => forwardView k src m v acc.2
      | _ => acc) (.ok, s)

/-! ## PRIMITIVE_FORWARD (R236 to R238) -/

/-- A geometry team has ended. -/
def geometryEnded (s : State) (id : Nat) : Bool := match s.team? id with | some t => t.life = .ended | none => true

/-- The watermark of a source (R237): none is ∞. -/
def watermark (s : State) (st : Stream) (die : Nat) : Option Nat :=
  match tget [] st.live die with
  | id :: _ =>
    match (tget default st.sources die).emits.find? fun e => e.1 = id with
    | some e => some e.2.seq
    | none =>
      match s.team? id with
      | some t => some ((match (s.launch? t.launch).map (·.role) with | some (.geometry _ d) => d | _ => 0) * 2 ^ 32 + t.index * 4096 + t.emits)
      | none => (tget default st.sources die).w
  | [] => teamSeq st.draws st.draw0 die (assignedTo st.draws die - tget 0 st.assigned die)

/-- The watermark rises, and every owner learns of it. -/
def raiseWatermark (k die : Nat) (s : State) : State :=
  match s.stream? k with
  | none => s
  | some st =>
    let w := watermark s st die
    s.modStream k fun st => { st with sources := tput st.sources die { tget default st.sources die with w := w } }

/-- PRIMITIVE_FORWARD (R236): the oldest live team of a die forwards its next PEMIT; a team that has ended and been
forwarded is no longer live. -/
def execPrimitiveForward (k die : Nat) (s : State) : Host.Outcome State Fault Refusal :=
  .next <|
    match s.stream? k with
    | none => s
    | some st =>
      match tget [] st.live die with
      | [] => settleStream (raiseWatermark k die s) k
      | id :: rest =>
        let src := tget default st.sources die
        match src.emits.find? fun e => e.1 = id with
        | some e =>
          let done (s : State) : State :=
            raiseWatermark k die (s.modStream k fun st =>
              let src := tget default st.sources die
              { st with sources := tput st.sources die { src with emits := src.emits.erase e } })
          match spilledEmit s k st e.2 with
          | none => s
          | some (none, s1) => done s1
          | some (some m, s1) =>
            match forwardEmit k die m s1 with
            | (.wait, _) => s
            | (.format, s) => stopStream s k 1
            | (.ok, s) => done s
        | none =>
          if geometryEnded s id then
            settleStream (raiseWatermark k die (s.modStream k fun st => { st with live := tput st.live die rest })) k
          else raiseWatermark k die s

/-! ## RASTER_MERGE (R237, R239 to R241) -/

/-- The lowest (sequence, view) among the heads of the inbound streams, with its source. -/
def mergeHead (o : Owner) : Option (Nat × Prim) :=
  pickBest (fun x y => decide (x.2.seq < y.2.seq) || (x.2.seq = y.2.seq && decide (x.2.view < y.2.view)))
    ((List.range 4).filterMap fun s => (tget [] o.inbound s).head?.map fun p => (s, p))

/-- Every source whose inbound stream is empty is past the head. -/
def mayMerge (st : Stream) (o : Owner) (p : Prim) : Bool :=
  (List.range 4).all fun s => tget [] o.inbound s ≠ [] ||
    match (tget default st.sources s).w with | some w => decide (p.seq < w) | none => true

/-- A value of R240 rounded to F32; one that the spec gives no value is a free value. -/
def f32OrFree (x : Num) (s : State) : W32 × State :=
  match x with
  | .fin _ _ => (f32Round x, s)
  | _ => s.draw 32

/-- Whether the edge from a to b covers a sample on it: a top or a left edge (R239). -/
def topLeft (a b : Int × Int) : Bool := (a.2 = b.2 && decide (a.1 < b.1)) || decide (b.2 < a.2)

/-- Coverage of a sample (R239). -/
def covered (xs : List (Int × Int)) (p : Int × Int) : Bool :=
  let a := xs.getD 0 default
  let b := xs.getD 1 default
  let c := xs.getD 2 default
  let (b, c) := if edge a b c < 0 then (c, b) else (b, c)
  let ok (u v : Int × Int) : Bool := decide (0 < edge u v p) || (edge u v p = 0 && topLeft u v)
  ok a b && ok b c && ok c a

/-- Depth, λ1 and λ2 at a sample (R240). -/
def interpolate (p : Prim) (x : Int × Int) (s : State) : (W32 × W32 × W32) × State :=
  let v (n : Nat) : Int × Int := p.xs.getD n default
  let area := edge (v 0) (v 1) (v 2)
  let bary (a b : Int × Int) : Num := Num.ofRat (mkRat (edge a b x * (if area < 0 then -1 else 1)) area.natAbs)
  let b0 := bary (v 1) (v 2)
  let b1 := bary (v 2) (v 0)
  let b2 := bary (v 0) (v 1)
  let word (n j : Nat) : Num := f32Val ((p.verts.getD n []).getD j 0)
  let sum3 (a b c : Num) : Num := (a.add .rne b).add .rne c
  let (z, s) := f32OrFree (sum3 (b0.mul (word 0 0)) (b1.mul (word 1 0)) (b2.mul (word 2 0))) s
  let q0 := b0.div (word 0 1)
  let q1 := b1.div (word 1 1)
  let q2 := b2.div (word 2 1)
  let tot := sum3 q0 q1 q2
  let (l1, s) := f32OrFree (q1.div tot) s
  let (l2, s) := f32OrFree (q2.div tot) s
  ((z, l1, l2), s)

/-- The fragments of a primitive in its tile, row by row. -/
def rasterise (st : Stream) (p : Prim) (rcd : Nat) (s : State) : List FragWait × State :=
  let tx := p.tile % rsTw st
  let ty := p.tile / rsTw st
  let pix := ((List.range 64).flatMap fun y => (List.range 64).map fun x => (64 * tx + x, 64 * ty + y)).filter fun q =>
    decide (q.1 < rsWidth st) && decide (q.2 < rsHeight st) && covered p.xs (256 * (q.1 : Int) + 128, 256 * (q.2 : Int) + 128)
  pix.foldl (fun (acc : List FragWait × State) q =>
    let ((z, l1, l2), s) := interpolate p (256 * (q.1 : Int) + 128, 256 * (q.2 : Int) + 128) acc.2
    (acc.1 ++ [{ seq := p.seq, view := p.view, tile := p.tile, px := q.1, py := q.2, l1 := l1, l2 := l2, depth := z, back := p.back, rcd := rcd }], s))
    ([], s)

/-- The 256-byte record of a primitive (R241). -/
def primRecord (p : Prim) : Bytes :=
  let vert (n : Nat) : List W32 := p.verts.getD n []
  let attrs (n : Nat) : Bytes := (List.range 16).flatMap fun j => bytesOf 4 ((if j < p.nattr then (vert n).getD (2 + j) 0 else 0) : W32).toNat
  let pos (n : Nat) : Bytes :=
    let x := p.xs.getD n default
    let coord (v : Int) : W32 := f32Round (Num.ofRat (mkRat v 256))
    [coord x.1, coord x.2, (vert n).getD 0 0, f32Round ((Num.ofInt 1).div (f32Val ((vert n).getD 1 0)))].flatMap fun w => bytesOf 4 w.toNat
  bytesOf 8 p.seq ++ bytesOf 1 p.view ++ bytesOf 1 p.nattr ++ bytesOf 1 (if p.back then 1 else 0) ++ bytesOf 5 0 ++
    attrs 0 ++ attrs 1 ++ attrs 2 ++ pos 0 ++ pos 1 ++ pos 2

def ringRecord (st : Stream) (die n : Nat) : Nat := (rsPbuf st + die * 256 * 2 ^ rsPblog st + 256 * (n % 2 ^ rsPblog st)) % 2 ^ 64

/-- The record that the ring takes next is still in use by a fragment. -/
def ringBusy (st : Stream) (die : Nat) (o : Owner) : Bool :=
  let n := o.wptr % 2 ^ rsPblog st
  o.inUse.any (fun r => r.1 = n) || o.frags.any fun f => f.rcd = ringRecord st die n

/-- RASTER_MERGE (R237): the rasteriser of an owner takes the lowest head once the watermarks allow it, writes its record
and rasterises it. -/
def execRasterMerge (k die : Nat) (s : State) : Host.Outcome State Fault Refusal :=
  .next <|
    match s.stream? k with
    | none => s
    | some st =>
      let o := tget default st.owners die
      match mergeHead o with
      | none => settleStream s k
      | some (src, p) =>
        if !mayMerge st o p then s
        else
          let same := o.last = some (p.seq, p.view, p.part)
          if !same && ringBusy st die o then s
          else
            match (if same then some s else rasterWrite s k st (ringRecord st die o.wptr) (primRecord p)) with
            | none => s
            | some s =>
              let n := if same then o.wptr - 1 else o.wptr
              let (fs, s) := rasterise st p (ringRecord st die n) s
              s.modStream k fun st =>
                let o := tget default st.owners die
                let o : Owner :=
                  { o with inbound := tput o.inbound src ((tget [] o.inbound src).drop 1), wptr := n + 1, last := some (p.seq, p.view, p.part),
                           frags := o.frags ++ fs, live := o.live ++ fs.map fun f => (f.seq, f.view, f.px, f.py) }
                { st with owners := tput st.owners die o }

/-! ## FRAGMENT_TEAM_FORMATION (R241) -/

/-- FRAGMENT_TEAM_FORMATION (R241): up to 256 fragments of the (view, tile) of the oldest one become a team of their die. -/
def execFragmentTeamFormation (k die : Nat) (s : State) : Host.Outcome State Fault Refusal :=
  .next <|
    match s.stream? k with
    | none => s
    | some st =>
      let o := tget default st.owners die
      match o.frags, s.launches.find? fun p => p.2.role = .fragment k die with
      | f :: _, some (lid, l) =>
        let mine := (o.frags.filter fun x => x.view = f.view && x.tile = f.tile).take 256
        let (id, s) := s.fresh
        let frags := ((List.range mine.length).zip mine).map fun p => (⟨p.1 / 32, p.1 % 32, p.2⟩ : Frag)
        let base := rsPbuf st + die * 256 * 2 ^ rsPblog st
        let used := mine.foldl (fun (u : List (Nat × Nat)) x =>
          let r := ((x.rcd + 2 ^ 64 - base) % 2 ^ 64 / 256, id)
          if r ∈ u then u else u ++ [r]) []
        let t : Team := { (default : Team) with launch := lid, index := l.count, life := .pending, ctx := st.ctx, fragList := frags, fpage := f.tile }
        let s := (s.setTeam id t).modLaunch lid fun l => { l with count := l.count + 1 }
        s.modStream k fun st =>
          let o := tget default st.owners die
          { st with owners := tput st.owners die { o with frags := mine.foldl (fun l x => l.erase x) o.frags, inUse := o.inUse ++ used } }
      | _, _ => settleStream s k

/-! ## RENDER_OUTPUT_PERFORM (R242, R243) -/

/-- Bytes of a pixel: of the depth target, or of a colour target. -/
def pixelSize (depth : Bool) (fmt : Nat) : Nat :=
  match fmt with
  | 1 => if depth then 2 else 4
  | 2 => if depth then 4 else 8
  | 3 => if depth then 4 else 16
  | _ => 0

/-- The address of a pixel in a target (R232). -/
def pixelAddr (st : Stream) (e die slot px py b : Nat) : Nat :=
  (((st.targets.getD e []).getD die 0).toNat + slot * 4096 * b + (py % 64 * 64 + px % 64) * b) % 2 ^ 64

/-- A fragment's depth in the format of the depth target, as its stored code. -/
def depthCode (fmt : Nat) (z : W32) : Nat :=
  match fmt with
  | 1 => unorm 16 (f32Val z)
  | 2 => unorm 24 (f32Val z)
  | _ => roundTo .f32 (clamp01 (f32Val z)) .rne

/-- ZFUNC between a fragment's depth and the stored one. -/
def depthTest (fmt func new old : Nat) : Bool :=
  let val (c : Nat) : Num := if fmt = 3 then valueOf .f32 c else Num.ofInt (if fmt = 2 then c % 2 ^ 24 else c)
  let ord := (val new).cmp (val old)
  match func with
  | 0 => false
  | 1 => ord = some .lt
  | 2 => ord = some .eq
  | 3 => ord = some .lt || ord = some .eq
  | 4 => ord = some .gt
  | 5 => ord ≠ some .eq
  | 6 => ord = some .gt || ord = some .eq
  | _ => true

/-- Bytes read from a target: none where they are refused, and a wait while a page moves. -/
def targetRead (s : State) (st : Stream) (va n : Nat) : Except EngAns Bytes × State :=
  match engineCheck s st.wins (stSecure s st) false va n with
  | .ok =>
    let (bad, bs, s) := engineRead s st.wins (stSecure s st) va n (s.partOf st.ctx)
    (if bad then .error (.stop 0x0A 1024 va) else .ok bs, s)
  | a => (.error a, engineNote s st.wins false a (s.partOf st.ctx))

/-- What the part of a fragment at one target gives. -/
inductive PixAns where
  | pass
  | fail
  | wait
  deriving DecidableEq, Repr, Inhabited

/-- The depth step (R242). -/
def depthStep (s : State) (k die slot : Nat) (st : Stream) (f : FragWait) : PixAns × State :=
  let w := targetWord st 0
  let fmt := bits w 0 4
  if fmt = 0 then (.pass, s)
  else
    let b := pixelSize true fmt
    let va := pixelAddr st 0 die slot f.px f.py b
    match targetRead s st va b with
    | (.error .wait, s) => (.wait, s)
    | (.error _, s) => (.fail, dropWrite s k st va)
    | (.ok bs, s) =>
      let new := depthCode fmt f.depth
      if !depthTest fmt (bits w 4 4) new (natOf bs) then (.fail, s)
      else if !w.getLsbD 8 then (.pass, s)
      else
        match rasterWrite s k st va (bytesOf b new) with
        | some s => (.pass, s)
        | none => (.wait, s)

/-- The blend and store steps at one colour target (R242). -/
def colourStep (s : State) (k die slot e : Nat) (st : Stream) (f : FragWait) (rgba : List W32) : PixAns × State :=
  let w := targetWord st e
  let fmt := bits w 0 4
  if fmt = 0 then (.pass, s)
  else
    let b := pixelSize false fmt
    let n := chanBytes fmt
    let va := pixelAddr st e die slot f.px f.py b
    let pol := if st.pol = 2 then 0 else st.pol
    let blend := w.getLsbD 16
    let old : Except EngAns Bytes × State := if blend then targetRead s st va b else (.ok [], s)
    match old with
    | (.error .wait, s) => (.wait, s)
    | (.error _, s) => (.fail, dropWrite s k st va)
    | (.ok bs, s) =>
      let d (c : Nat) : Num := chanValue fmt (natOf ((bs.drop (c * n)).take n))
      let sv (c : Nat) : Num := f32Val (rgba.getD c 0)
      let v (c : Nat) : Num :=
        if blend then
          blended w (sv c) (d c) (sv 3) (d 3)
        else sv c
      let en := (List.range 4).filter fun c => w.getLsbD (12 + c)
      en.foldl (fun (acc : PixAns × State) c =>
        match acc.1 with
        | .wait => acc
        | _ =>
          match rasterWrite acc.2 k st ((va + c * n) % 2 ^ 64) (bytesOf n (chanCode pol fmt (v c))) with
          | some s => (.pass, s)
          | none => (.wait, acc.2)) (.pass, s)

/-- One fragment at its turn: its depth test, and its outputs in the order of the targets. -/
def performFragment (s : State) (k die : Nat) (st : Stream) (f : FragWait) (outs : List (Nat × List W32)) : PixAns × State :=
  let slot := bits (tget 0 st.omap (f.view * (rsTh st * rsTw st) + f.tile)) 8 24
  match depthStep s k die slot st f with
  | (.pass, s) =>
    (List.range (rsRtn st + 1)).foldl (fun (acc : PixAns × State) e =>
      match acc.1, outs.find? fun o => o.1 = e with
      | .wait, _ => acc
      | _, some o => colourStep acc.2 k die slot e st f o.2
      | _, none => acc) (.pass, s)
  | x => x

/-- A fragment of an ended team with no fragment of a lower sequence outstanding at its pixel and view. -/
def itsTurn (o : Owner) (f : FragWait) : Bool :=
  o.live.all fun x => !(x.2 = (f.view, f.px, f.py) && decide (x.1 < f.seq))

/-- RENDER_OUTPUT_PERFORM (R242): the render output unit of a die performs a fragment. -/
def execRenderOutputPerform (k die : Nat) (s : State) : Host.Outcome State Fault Refusal :=
  .next <|
    match s.stream? k with
    | none => s
    | some st =>
      let o := tget default st.owners die
      match o.ready.find? fun r => itsTurn o r.1.w with
      | none => settleStream s k
      | some r =>
        match performFragment s k die st r.1.w r.2 with
        | (.wait, _) => s
        | (_, s) =>
          settleStream (s.modStream k fun st =>
            let o := tget default st.owners die
            let o : Owner := { o with ready := o.ready.erase r, live := o.live.erase (r.1.w.seq, r.1.w.view, r.1.w.px, r.1.w.py) }
            { st with owners := tput st.owners die o }) k

end Sys2Proof.Machine
end

