-- ==== Sys2Proof/Machine/Scalar.lean ====
section
/-! DEFINITION. Scalar arithmetic (R313 to R315): the S-class instructions of the R and I forms. -/

namespace Sys2Proof.Machine

/-- The scalar ALU's requirements (R315): TYPE I32 to N64, RM zero, SAT where the entry names it, and zero in every
field the entry does not use (R282). -/
def encScalar (f : RForm) (hasB hasC hasSat isCmp : Bool) : Enc :=
  { ok := decide (mType f.mod < 4) && litOk f && (!f.mod.getLsbD 7 || f.lit.isSome) &&
          (if isCmp then decide (bits f.mod 4 3 < 6) else mRm f.mod = 0 && (hasSat || !mSat f.mod)) &&
          (hasB || (f.b = 0 && !f.feb)) && (hasC || (f.c = 0 && !f.fec))
    uses := [Use.dst f.d 1 .reg, Use.src f.a f.fea 1 .sca] ++ (if hasB then useB f 1 .sca else []) ++
            (if hasC then [Use.src f.c f.fec 1 .sca] else [])
    mask := f.mask
    len := lenOf f.lit }

/-- The operand type of a scalar instruction (R315). -/
def scalarTy (f : RForm) : OpTy := (tyOf (mType f.mod)).getD default

/-- The low w bits of a scalar operand, signed for I types (R314). -/
def scalarInt (t : OpTy) (v : W64) : Int := t.int (v.toNat % 2 ^ t.w)

/-- The value D receives (R314): reduced to w bits, sign-extended for I32 and zero-extended otherwise. -/
def scalarValue (t : OpTy) (sat : Bool) (r : Int) : W64 := t.extend (t.reduce sat r)

/-- The shared shape of the scalar ALU: D ← the reduced exact result of a, b and the whole registers (R314). -/
def scalarAlu (i : Instr) (f : RForm) (e : Enc) (r : OpTy → W64 → W64 → W64 → Int) (s : State) :
    Host.Outcome State Fault Refusal :=
  issue i e s fun c s =>
    let t := scalarTy f
    let v := r t (sval s c f.a) (svalLit s c f.b f.lit) (sval s c f.c)
    advance c e.len (writeS c f.d (scalarValue t (mSat f.mod && bits f.mod 4 3 = 4) v) s)

/-- SADD (R314): a + b. -/
def execSadd (f : RForm) (s : State) : Host.Outcome State Fault Refusal :=
  scalarAlu (.sadd f) f (encScalar f true false true false) (fun t a b _ => scalarInt t a + scalarInt t b) s

/-- SSUB (R314): a - b. -/
def execSsub (f : RForm) (s : State) : Host.Outcome State Fault Refusal :=
  scalarAlu (.ssub f) f (encScalar f true false true false) (fun t a b _ => scalarInt t a - scalarInt t b) s

/-- SMUL (R314): a × b. -/
def execSmul (f : RForm) (s : State) : Host.Outcome State Fault Refusal :=
  scalarAlu (.smul f) f (encScalar f true false true false) (fun t a b _ => scalarInt t a * scalarInt t b) s

/-- SAND (R314): bitwise on w bits. -/
def execSand (f : RForm) (s : State) : Host.Outcome State Fault Refusal :=
  scalarAlu (.sand f) f (encScalar f true false false false) (fun _ a b _ => (a &&& b).toNat) s

/-- SOR (R314). -/
def execSor (f : RForm) (s : State) : Host.Outcome State Fault Refusal :=
  scalarAlu (.sor f) f (encScalar f true false false false) (fun _ a b _ => (a ||| b).toNat) s

/-- SXOR (R314). -/
def execSxor (f : RForm) (s : State) : Host.Outcome State Fault Refusal :=
  scalarAlu (.sxor f) f (encScalar f true false false false) (fun _ a b _ => (a ^^^ b).toNat) s

/-- SNOT (R314). -/
def execSnot (f : RForm) (s : State) : Host.Outcome State Fault Refusal :=
  scalarAlu (.snot f) f (encScalar f false false false false) (fun _ a _ _ => (~~~a).toNat) s

/-- SANDN (R314): a AND NOT b. -/
def execSandn (f : RForm) (s : State) : Host.Outcome State Fault Refusal :=
  scalarAlu (.sandn f) f (encScalar f true false false false) (fun _ a b _ => (a &&& ~~~b).toNat) s

/-- SSHL (R314): a × 2^n with n in bits 7:0 of B; 0 when n reaches w. -/
def execSshl (f : RForm) (s : State) : Host.Outcome State Fault Refusal :=
  scalarAlu (.sshl f) f (encScalar f true false false false) (fun t a b _ => if t.w ≤ bits b 0 8 then 0 else scalarInt t a * 2 ^ bits b 0 8) s

/-- SSHR (R314): floor(a / 2^n), arithmetic for I types. -/
def execSshr (f : RForm) (s : State) : Host.Outcome State Fault Refusal :=
  scalarAlu (.sshr f) f (encScalar f true false false false) (fun t a b _ => scalarInt t a / 2 ^ bits b 0 8) s

/-- SCMP (R314, R315): 1 if a CC b holds, else 0; CC in MOD 6:4. -/
def execScmp (f : RForm) (s : State) : Host.Outcome State Fault Refusal :=
  scalarAlu (.scmp f) f (encScalar f true false false true) (fun t a b _ => if ccInt (bits f.mod 4 3) (scalarInt t a) (scalarInt t b) then 1 else 0) s

/-- SSEL (R314): b if the 64 bits of A are not all zero, else c (log 21). -/
def execSsel (f : RForm) (s : State) : Host.Outcome State Fault Refusal :=
  scalarAlu (.ssel f) f (encScalar f true true false false) (fun t a b c => if a ≠ 0 then scalarInt t b else scalarInt t c) s

/-- SPOPC (R314): number of 1 bits in a. -/
def execSpopc (f : RForm) (s : State) : Host.Outcome State Fault Refusal :=
  scalarAlu (.spopc f) f (encScalar f false false false false) (fun t a _ _ => (((List.range t.w).countP fun k => a.getLsbD k : Nat) : Int)) s

/-- SFFS (R314): index of the lowest 1 bit of a; w when a has none. -/
def execSffs (f : RForm) (s : State) : Host.Outcome State Fault Refusal :=
  scalarAlu (.sffs f) f (encScalar f false false false false) (fun t a _ _ => ((((List.range t.w).find? fun k => a.getLsbD k).getD t.w : Nat) : Int)) s

/-- SMOV (R314): a. -/
def execSmov (f : RForm) (s : State) : Host.Outcome State Fault Refusal :=
  scalarAlu (.smov f) f (encScalar f false false false false) (fun t a _ _ => scalarInt t a) s

/-- The requirements of SMOVI (R282, R283). -/
def encSmovi (f : IForm) : Enc :=
  { ok := decide (mType f.mod < 4) && mRm f.mod = 0 && !mSat f.mod && litOkI f && f.a = 0 && !f.fea && !f.feb && !f.fec
    uses := [Use.dst f.d 1 .reg], mask := f.mask, len := lenOf f.lit }

/-- SMOVI (R314): IMM18 sign-extended to 64 bits, or the literal, whatever TYPE says of other entries; the value meets
TYPE as every result does. -/
def execSmovi (f : IForm) (s : State) : Host.Outcome State Fault Refusal :=
  let e := encSmovi f
  issue (.smovi f) e s fun c s =>
    let t := (tyOf (mType f.mod)).getD default
    advance c e.len (writeS c f.d (scalarValue t false (scalarInt t (immS f))) s)

end Sys2Proof.Machine
end

