-- ==== Sys2Proof/Machine/SpecialFunc.lean ====
section
/-! DEFINITION. The X class (R366, R367). -/

namespace Sys2Proof.Machine

/-- An X instruction: each element's correctly rounded result, under the policy (R366). -/
def vecSpecial (i : Instr) (f : RForm) (op : SpecialOp) (s : State) : Host.Outcome State Fault Refusal :=
  let e := encFloat f floatPacked false false (op = .rcp || op = .sqrt)
  issue i e s fun c s =>
    let t := rType f
    finishFloat c e f.d (fun l =>
      let a := opnd s c f.a t l
      (List.range t.els).map fun j => (t.ff, specialFn op t.ff (modeOf (mRm f.mod)) (t.elem j a)))
      (fun _ es => [BitVec.ofNat 32 (t.join es)]) s

/-- RCP (R366): 1 / a. -/
def execRcp (f : RForm) (s : State) : Host.Outcome State Fault Refusal := vecSpecial (.rcp f) f .rcp s
/-- RSQ (R366): 1 / √a. -/
def execRsq (f : RForm) (s : State) : Host.Outcome State Fault Refusal := vecSpecial (.rsq f) f .rsq s
/-- SQRT (R366): √a. -/
def execSqrt (f : RForm) (s : State) : Host.Outcome State Fault Refusal := vecSpecial (.sqrt f) f .sqrt s
/-- EXP2 (R366): 2^a. -/
def execExp2 (f : RForm) (s : State) : Host.Outcome State Fault Refusal := vecSpecial (.exp2 f) f .exp2 s
/-- LOG2 (R366): log2 a. -/
def execLog2 (f : RForm) (s : State) : Host.Outcome State Fault Refusal := vecSpecial (.log2 f) f .log2 s
/-- SIN (R366), in radians. -/
def execSin (f : RForm) (s : State) : Host.Outcome State Fault Refusal := vecSpecial (.sin f) f .sin s
/-- COS (R366), in radians. -/
def execCos (f : RForm) (s : State) : Host.Outcome State Fault Refusal := vecSpecial (.cos f) f .cos s
/-- TANH (R366). -/
def execTanh (f : RForm) (s : State) : Host.Outcome State Fault Refusal := vecSpecial (.tanh f) f .tanh s
/-- SIGM (R366): 1 / (1 + e^(-a)). -/
def execSigm (f : RForm) (s : State) : Host.Outcome State Fault Refusal := vecSpecial (.sigm f) f .sigm s

end Sys2Proof.Machine
end

