-- ==== Sys2Proof/Machine/Trap.lean ====
section
/-! DEFINITION. TRAP, TRET and the system registers (R332, R334 to R337). Taking a cause and returning from one stand in
Ops. -/

namespace Sys2Proof.Machine

/-- The requirements of TRAP (R282, R283). -/
def encTrap (f : IForm) : Enc :=
  { ok := f.d = 0 && f.a = 0 && !f.fea && !f.feb && !f.fec && f.mod = 0 && f.lit.isNone, uses := [], mask := f.mask }

/-- TRAP (R332): cause 0x14 with IMM18 in TCODE. -/
def execTrap (f : IForm) (s : State) : Host.Outcome State Fault Refusal :=
  issue (.trap f) (encTrap f) s fun c s => raiseHere c 0x14 (f.imm.setWidth 64 <<< 24) 0 s

/-- The requirements of TRET (R282, R283). -/
def encTret (f : RForm) : Enc :=
  { ok := f.d = 0 && f.b = 0 && f.c = 0 && !f.feb && !f.fec && f.mod = 0 && f.lit.isNone, hdl := true
    uses := [Use.src f.a f.fea 1 .sca], mask := f.mask }

/-- TRET (R122, R332). -/
def execTret (f : RForm) (s : State) : Host.Outcome State Fault Refusal :=
  issue (.tret f) (encTret f) s fun c s =>
    trapReturn (freePort (s.countCore c.core 0x03 1) c.u c.slot) c.u (sval s c f.a)

/-! ## System registers (R334 to R337) -/

/-- The numbers that R335 lists. -/
def sysReg (n : Nat) : Bool := decide (n < 5) || (decide (8 ≤ n) && decide (n < 12)) || (decide (0x20 ≤ n) && decide (n < 0x30))

/-- CLKSTAT of a core's die (R336). -/
def clkstat (s : State) (core : Nat) : W64 :=
  let d := s.pkg.dies.getD (core / 32) default
  BitVec.ofNat 64 (d.step % 4 + if d.chg then 4 else 0)

/-- The value of a system register for a unit (R335). -/
def sysRead (s : State) (c : Ctx) (n : Nat) : W64 :=
  match n with
  | 0 => clkstat s c.core
  | 1 => c.us.tinfo
  | 2 => c.us.taddr
  | 3 => c.us.tpc
  | 4 => c.us.tmask
  | 8 => s.ctxReg c.team.ctx 0x86
  | 9 => s.ctxReg c.team.ctx 0x87
  | 10 => s.ctxReg c.team.ctx 0x88
  | 11 => match s.team? c.u.team with | some t => BitVec.ofNat 64 t.budget | none => 0
  | k => if k < 0x28 then tget 0 (s.core c.core).pmc (k - 0x20) else tget 0 (s.core c.core).pmcc (k - 0x28)

/-- The requirements of SREAD (R282, R283). -/
def encSread (f : IForm) : Enc :=
  { ok := f.a = 0 && !f.fea && !f.feb && !f.fec && f.mod = 0 && f.lit.isNone && sysReg f.imm.toNat
    uses := [Use.dst f.d 1 .reg], mask := f.mask }

/-- SREAD (R334). -/
def execSread (f : IForm) (s : State) : Host.Outcome State Fault Refusal :=
  issue (.sread f) (encSread f) s fun c s =>
    let s := if 11 ≤ f.imm.toNat then s.passCycles c.core else s
    advance c 1 (writeS c f.d (sysRead s c f.imm.toNat) s)

/-- The requirements of SWRITE (R282, R283). -/
def encSwrite (f : IForm) : Enc :=
  { ok := f.d = 0 && !f.feb && !f.fec && f.mod = 0 && f.lit.isNone && sysReg f.imm.toNat, hdl := f.imm = 1
    uses := [Use.src f.a f.fea 1 .sca], mask := f.mask }

/-- SWRITE (R334, R335): CHG is cleared by writing 1, SKIP is written in handler mode, and every other field is RO. -/
def execSwrite (f : IForm) (s : State) : Host.Outcome State Fault Refusal :=
  issue (.swrite f) (encSwrite f) s fun c s =>
    let v := sval s c f.a
    let s := match f.imm.toNat with
      | 0 =>
        if v.getLsbD 2 then
          { s with pkg := { s.pkg with dies := s.pkg.dies.modify (c.core / 32) fun d => { d with chg := false } } }
        else s
      | 1 => s.modUnit c.u fun u => { u with tinfo := setBit u.tinfo 15 (v.getLsbD 15) }
      | _ => s
    advance c 1 s

end Sys2Proof.Machine
end

