-- ==== Sys2Proof/Machine/Dispatch.lean ====
section
/-! DEFINITION. Dispatch: one arm per constructor of Instr. -/

namespace Sys2Proof.Machine

def exec (i : Instr) (s : State) : Host.Outcome State Fault Refusal :=
  match i with
  | .inputOvervoltageDisconnect => Sys2Proof.Machine.execInputOvervoltageDisconnect s
  | .inputVoltageHighBand => Sys2Proof.Machine.execInputVoltageHighBand s
  | .inputVoltageLowBand => Sys2Proof.Machine.execInputVoltageLowBand s
  | .inputVoltageRestored => Sys2Proof.Machine.execInputVoltageRestored s
  | .inputDropout => Sys2Proof.Machine.execInputDropout s
  | .inputDropoutExpiry => Sys2Proof.Machine.execInputDropoutExpiry s
  | .powerCapCheck x0 x1 => Sys2Proof.Machine.execPowerCapCheck x0 x1 s
  | .thermalThresholdCrossed x0 x1 => Sys2Proof.Machine.execThermalThresholdCrossed x0 x1 s
  | .thermalDropTimer x0 => Sys2Proof.Machine.execThermalDropTimer x0 s
  | .aclkClimbTimer x0 => Sys2Proof.Machine.execAclkClimbTimer x0 s
  | .thermalHalt x0 x1 => Sys2Proof.Machine.execThermalHalt x0 x1 s
  | .moduleReset => Sys2Proof.Machine.execModuleReset s
  | .dynamicAddressAssignment x0 => Sys2Proof.Machine.execDynamicAddressAssignment x0 s
  | .readBootState => Sys2Proof.Machine.execReadBootState s
  | .setPowerCap x0 => Sys2Proof.Machine.execSetPowerCap x0 s
  | .readJunctionSensors => Sys2Proof.Machine.execReadJunctionSensors s
  | .readAlertCauses => Sys2Proof.Machine.execReadAlertCauses s
  | .clearAlertCauses x0 => Sys2Proof.Machine.execClearAlertCauses x0 s
  | .deliverImage x0 => Sys2Proof.Machine.execDeliverImage x0 s
  | .correctableError x0 x1 x2 => Sys2Proof.Machine.execCorrectableError x0 x1 x2 s
  | .trackingWindowExpiry x0 x1 => Sys2Proof.Machine.execTrackingWindowExpiry x0 x1 s
  | .bankRetirement x0 x1 => Sys2Proof.Machine.execBankRetirement x0 x1 s
  | .mscWayRetirement x0 x1 => Sys2Proof.Machine.execMscWayRetirement x0 x1 s
  | .hbmPageRetirement x0 x1 => Sys2Proof.Machine.execHbmPageRetirement x0 x1 s
  | .linkUp x0 => Sys2Proof.Machine.execLinkUp x0 s
  | .linkLoss x0 => Sys2Proof.Machine.execLinkLoss x0 s
  | .linkHoldExpiry x0 => Sys2Proof.Machine.execLinkHoldExpiry x0 s
  | .mediaChange x0 x1 => Sys2Proof.Machine.execMediaChange x0 x1 s
  | .inboundRdmaWrite x0 => Sys2Proof.Machine.execInboundRdmaWrite x0 s
  | .inboundRdmaRead x0 x1 => Sys2Proof.Machine.execInboundRdmaRead x0 x1 s
  | .inboundSend x0 => Sys2Proof.Machine.execInboundSend x0 s
  | .inboundAtomic x0 x1 x2 x3 => Sys2Proof.Machine.execInboundAtomic x0 x1 x2 x3 s
  | .inboundInvalidRequest x0 x1 x2 => Sys2Proof.Machine.execInboundInvalidRequest x0 x1 x2 s
  | .outOfSequencePacket x0 x1 x2 => Sys2Proof.Machine.execOutOfSequencePacket x0 x1 x2 s
  | .networkAckReceived x0 x1 x2 x3 => Sys2Proof.Machine.execNetworkAckReceived x0 x1 x2 x3 s
  | .nakReceived x0 x1 x2 x3 => Sys2Proof.Machine.execNakReceived x0 x1 x2 x3 s
  | .ackTimeout x0 x1 => Sys2Proof.Machine.execAckTimeout x0 x1 s
  | .pendingRequestSend x0 x1 => Sys2Proof.Machine.execPendingRequestSend x0 x1 s
  | .congestionNotificationReceived x0 x1 => Sys2Proof.Machine.execCongestionNotificationReceived x0 x1 s
  | .rateRecoveryTimer x0 x1 => Sys2Proof.Machine.execRateRecoveryTimer x0 x1 s
  | .pauseFrameReceived x0 x1 x2 => Sys2Proof.Machine.execPauseFrameReceived x0 x1 x2 s
  | .connWrite => Sys2Proof.Machine.execConnWrite s
  | .connRead => Sys2Proof.Machine.execConnRead s
  | .connReset => Sys2Proof.Machine.execConnReset s
  | .regionWrite => Sys2Proof.Machine.execRegionWrite s
  | .regionRead => Sys2Proof.Machine.execRegionRead s
  | .portWrite => Sys2Proof.Machine.execPortWrite s
  | .portRead => Sys2Proof.Machine.execPortRead s
  | .paddrWrite => Sys2Proof.Machine.execPaddrWrite s
  | .paddrRead => Sys2Proof.Machine.execPaddrRead s
  | .congWrite => Sys2Proof.Machine.execCongWrite s
  | .congRead => Sys2Proof.Machine.execCongRead s
  | .qdescWrite => Sys2Proof.Machine.execQdescWrite s
  | .queueHaltClear => Sys2Proof.Machine.execQueueHaltClear s
  | .qdescRead => Sys2Proof.Machine.execQdescRead s
  | .ctxregWrite => Sys2Proof.Machine.execCtxregWrite s
  | .contextPreempt => Sys2Proof.Machine.execContextPreempt s
  | .ctxregRead => Sys2Proof.Machine.execCtxregRead s
  | .devregWrite => Sys2Proof.Machine.execDevregWrite s
  | .devregRead => Sys2Proof.Machine.execDevregRead s
  | .pteWrite => Sys2Proof.Machine.execPteWrite s
  | .pteRead => Sys2Proof.Machine.execPteRead s
  | .attest => Sys2Proof.Machine.execAttest s
  | .faultRead => Sys2Proof.Machine.execFaultRead s
  | .pmcRead => Sys2Proof.Machine.execPmcRead s
  | .pmcWrite => Sys2Proof.Machine.execPmcWrite s
  | .ctxHalt => Sys2Proof.Machine.execCtxHalt s
  | .powerActive => Sys2Proof.Machine.execPowerActive s
  | .powerRetention => Sys2Proof.Machine.execPowerRetention s
  | .powerOff => Sys2Proof.Machine.execPowerOff s
  | .ceuInfo => Sys2Proof.Machine.execCeuInfo s
  | .registerWrite x0 x1 => Sys2Proof.Machine.execRegisterWrite x0 x1 s
  | .notifyWrite => Sys2Proof.Machine.execNotifyWrite s
  | .mapperPass => Sys2Proof.Machine.execMapperPass s
  | .entryDecode x0 => Sys2Proof.Machine.execEntryDecode x0 s
  | .launchStart x0 x1 => Sys2Proof.Machine.execLaunchStart x0 x1 s
  | .distributorDecision => Sys2Proof.Machine.execDistributorDecision s
  | .budgetCounterExpiry x0 => Sys2Proof.Machine.execBudgetCounterExpiry x0 s
  | .graceExpiry x0 => Sys2Proof.Machine.execGraceExpiry x0 s
  | .allowanceCharge x0 => Sys2Proof.Machine.execAllowanceCharge x0 s
  | .teamAtSlice x0 => Sys2Proof.Machine.execTeamAtSlice x0 s
  | .saveComplete x0 => Sys2Proof.Machine.execSaveComplete x0 s
  | .governorPeriod x0 => Sys2Proof.Machine.execGovernorPeriod x0 s
  | .clauseSelect x0 x1 => Sys2Proof.Machine.execClauseSelect x0 x1 s
  | .callerClauseSelect x0 => Sys2Proof.Machine.execCallerClauseSelect x0 s
  | .clauseFetchComplete x0 x1 => Sys2Proof.Machine.execClauseFetchComplete x0 x1 s
  | .longLatencyWriteback x0 => Sys2Proof.Machine.execLongLatencyWriteback x0 s
  | .trapDelivery x0 => Sys2Proof.Machine.execTrapDelivery x0 s
  | .teamEnd x0 => Sys2Proof.Machine.execTeamEnd x0 s
  | .pmcOverflow x0 x1 => Sys2Proof.Machine.execPmcOverflow x0 x1 s
  | .translationAccess x0 x1 => Sys2Proof.Machine.execTranslationAccess x0 x1 s
  | .l1Writeback x0 x1 => Sys2Proof.Machine.execL1Writeback x0 x1 s
  | .translationChangeComplete x0 => Sys2Proof.Machine.execTranslationChangeComplete x0 s
  | .migrationEnd x0 x1 => Sys2Proof.Machine.execMigrationEnd x0 x1 s
  | .pinLandingAdmit x0 x1 => Sys2Proof.Machine.execPinLandingAdmit x0 x1 s
  | .copyRecordStart x0 => Sys2Proof.Machine.execCopyRecordStart x0 s
  | .copyRecordEnd x0 => Sys2Proof.Machine.execCopyRecordEnd x0 s
  | .matrixOpAccept x0 => Sys2Proof.Machine.execMatrixOpAccept x0 s
  | .sequencerStep x0 => Sys2Proof.Machine.execSequencerStep x0 s
  | .tileFetchReturn x0 => Sys2Proof.Machine.execTileFetchReturn x0 s
  | .epilogueRow x0 => Sys2Proof.Machine.execEpilogueRow x0 s
  | .matrixWatchdogExpiry x0 => Sys2Proof.Machine.execMatrixWatchdogExpiry x0 s
  | .primitiveForward x0 x1 => Sys2Proof.Machine.execPrimitiveForward x0 x1 s
  | .rasterMerge x0 x1 => Sys2Proof.Machine.execRasterMerge x0 x1 s
  | .fragmentTeamFormation x0 x1 => Sys2Proof.Machine.execFragmentTeamFormation x0 x1 s
  | .renderOutputPerform x0 x1 => Sys2Proof.Machine.execRenderOutputPerform x0 x1 s
  | .collJoinWordArrival x0 => Sys2Proof.Machine.execCollJoinWordArrival x0 s
  | .collDataSend x0 x1 => Sys2Proof.Machine.execCollDataSend x0 x1 s
  | .collExponentArrival x0 => Sys2Proof.Machine.execCollExponentArrival x0 s
  | .collPlaneBatchArrival x0 => Sys2Proof.Machine.execCollPlaneBatchArrival x0 s
  | .collStandardTransferArrival x0 => Sys2Proof.Machine.execCollStandardTransferArrival x0 s
  | .cutRequestArrival x0 => Sys2Proof.Machine.execCutRequestArrival x0 s
  | .freezeArrival x0 => Sys2Proof.Machine.execFreezeArrival x0 s
  | .freezeRepliesCollected x0 x1 => Sys2Proof.Machine.execFreezeRepliesCollected x0 x1 s
  | .cutKArrival x0 => Sys2Proof.Machine.execCutKArrival x0 s
  | .streamStopArrival x0 => Sys2Proof.Machine.execStreamStopArrival x0 s
  | .collOperationEnd x0 x1 => Sys2Proof.Machine.execCollOperationEnd x0 x1 s
  | .iadd f => Sys2Proof.Machine.execIadd f s
  | .isub f => Sys2Proof.Machine.execIsub f s
  | .imul f => Sys2Proof.Machine.execImul f s
  | .imulhi f => Sys2Proof.Machine.execImulhi f s
  | .imad f => Sys2Proof.Machine.execImad f s
  | .imin f => Sys2Proof.Machine.execImin f s
  | .imax f => Sys2Proof.Machine.execImax f s
  | .iabs f => Sys2Proof.Machine.execIabs f s
  | .andV f => Sys2Proof.Machine.execAndV f s
  | .orV f => Sys2Proof.Machine.execOrV f s
  | .xorV f => Sys2Proof.Machine.execXorV f s
  | .notV f => Sys2Proof.Machine.execNotV f s
  | .shl f => Sys2Proof.Machine.execShl f s
  | .shr f => Sys2Proof.Machine.execShr f s
  | .sar f => Sys2Proof.Machine.execSar f s
  | .bfe f => Sys2Proof.Machine.execBfe f s
  | .bfi f => Sys2Proof.Machine.execBfi f s
  | .popc f => Sys2Proof.Machine.execPopc f s
  | .clz f => Sys2Proof.Machine.execClz f s
  | .brev f => Sys2Proof.Machine.execBrev f s
  | .icmp f => Sys2Proof.Machine.execIcmp f s
  | .sel f => Sys2Proof.Machine.execSel f s
  | .lea f => Sys2Proof.Machine.execLea f s
  | .fadd f => Sys2Proof.Machine.execFadd f s
  | .fsub f => Sys2Proof.Machine.execFsub f s
  | .fmul f => Sys2Proof.Machine.execFmul f s
  | .ffma f => Sys2Proof.Machine.execFfma f s
  | .fmin f => Sys2Proof.Machine.execFmin f s
  | .fmax f => Sys2Proof.Machine.execFmax f s
  | .fcmp f => Sys2Proof.Machine.execFcmp f s
  | .fclass f => Sys2Proof.Machine.execFclass f s
  | .frnd f => Sys2Proof.Machine.execFrnd f s
  | .cvt f => Sys2Proof.Machine.execCvt f s
  | .qblk f => Sys2Proof.Machine.execQblk f s
  | .dqblk f => Sys2Proof.Machine.execDqblk f s
  | .pack f => Sys2Proof.Machine.execPack f s
  | .unpack f => Sys2Proof.Machine.execUnpack f s
  | .dot4 f => Sys2Proof.Machine.execDot4 f s
  | .shfl f => Sys2Proof.Machine.execShfl f s
  | .vote f => Sys2Proof.Machine.execVote f s
  | .rdx f => Sys2Proof.Machine.execRdx f s
  | .scan f => Sys2Proof.Machine.execScan f s
  | .bcast f => Sys2Proof.Machine.execBcast f s
  | .mov f => Sys2Proof.Machine.execMov f s
  | .movi f => Sys2Proof.Machine.execMovi f s
  | .movs f => Sys2Proof.Machine.execMovs f s
  | .srnd f => Sys2Proof.Machine.execSrnd f s
  | .fsel f => Sys2Proof.Machine.execFsel f s
  | .ld f => Sys2Proof.Machine.execLd f s
  | .st f => Sys2Proof.Machine.execSt f s
  | .lds f => Sys2Proof.Machine.execLds f s
  | .sts f => Sys2Proof.Machine.execSts f s
  | .ldc f => Sys2Proof.Machine.execLdc f s
  | .stc f => Sys2Proof.Machine.execStc f s
  | .lda f => Sys2Proof.Machine.execLda f s
  | .sta f => Sys2Proof.Machine.execSta f s
  | .ldk f => Sys2Proof.Machine.execLdk f s
  | .atom f => Sys2Proof.Machine.execAtom f s
  | .red f => Sys2Proof.Machine.execRed f s
  | .fence f => Sys2Proof.Machine.execFence f s
  | .pref f => Sys2Proof.Machine.execPref f s
  | .cctlWb f => Sys2Proof.Machine.execCctlWb f s
  | .cctlInv f => Sys2Proof.Machine.execCctlInv f s
  | .cctlClrp f => Sys2Proof.Machine.execCctlClrp f s
  | .tex f => Sys2Proof.Machine.execTex f s
  | .tfetch f => Sys2Proof.Machine.execTfetch f s
  | .imst f => Sys2Proof.Machine.execImst f s
  | .rcp f => Sys2Proof.Machine.execRcp f s
  | .rsq f => Sys2Proof.Machine.execRsq f s
  | .sqrt f => Sys2Proof.Machine.execSqrt f s
  | .exp2 f => Sys2Proof.Machine.execExp2 f s
  | .log2 f => Sys2Proof.Machine.execLog2 f s
  | .sin f => Sys2Proof.Machine.execSin f s
  | .cos f => Sys2Proof.Machine.execCos f s
  | .tanh f => Sys2Proof.Machine.execTanh f s
  | .sigm f => Sys2Proof.Machine.execSigm f s
  | .bra f => Sys2Proof.Machine.execBra f s
  | .brz f => Sys2Proof.Machine.execBrz f s
  | .brnz f => Sys2Proof.Machine.execBrnz f s
  | .call f => Sys2Proof.Machine.execCall f s
  | .calli f => Sys2Proof.Machine.execCalli f s
  | .ret f => Sys2Proof.Machine.execRet f s
  | .exit f => Sys2Proof.Machine.execExit f s
  | .split f => Sys2Proof.Machine.execSplit f s
  | .join f => Sys2Proof.Machine.execJoin f s
  | .yield f => Sys2Proof.Machine.execYield f s
  | .barrive f => Sys2Proof.Machine.execBarrive f s
  | .bwait f => Sys2Proof.Machine.execBwait f s
  | .bsync f => Sys2Proof.Machine.execBsync f s
  | .tkget f => Sys2Proof.Machine.execTkget f s
  | .tkwait f => Sys2Proof.Machine.execTkwait f s
  | .tkadv f => Sys2Proof.Machine.execTkadv f s
  | .qpush f => Sys2Proof.Machine.execQpush f s
  | .qpop f => Sys2Proof.Machine.execQpop f s
  | .slice f => Sys2Proof.Machine.execSlice f s
  | .grow f => Sys2Proof.Machine.execGrow f s
  | .trap f => Sys2Proof.Machine.execTrap f s
  | .tret f => Sys2Proof.Machine.execTret f s
  | .nop f => Sys2Proof.Machine.execNop f s
  | .sread f => Sys2Proof.Machine.execSread f s
  | .swrite f => Sys2Proof.Machine.execSwrite f s
  | .pmap f => Sys2Proof.Machine.execPmap f s
  | .migr f => Sys2Proof.Machine.execMigr f s
  | .waitfe f => Sys2Proof.Machine.execWaitfe f s
  | .sadd f => Sys2Proof.Machine.execSadd f s
  | .ssub f => Sys2Proof.Machine.execSsub f s
  | .smul f => Sys2Proof.Machine.execSmul f s
  | .sand f => Sys2Proof.Machine.execSand f s
  | .sor f => Sys2Proof.Machine.execSor f s
  | .sxor f => Sys2Proof.Machine.execSxor f s
  | .snot f => Sys2Proof.Machine.execSnot f s
  | .sandn f => Sys2Proof.Machine.execSandn f s
  | .sshl f => Sys2Proof.Machine.execSshl f s
  | .sshr f => Sys2Proof.Machine.execSshr f s
  | .scmp f => Sys2Proof.Machine.execScmp f s
  | .ssel f => Sys2Proof.Machine.execSsel f s
  | .spopc f => Sys2Proof.Machine.execSpopc f s
  | .sffs f => Sys2Proof.Machine.execSffs f s
  | .smov f => Sys2Proof.Machine.execSmov f s
  | .smovi f => Sys2Proof.Machine.execSmovi f s
  | .sldk f => Sys2Proof.Machine.execSldk f s
  | .sld f => Sys2Proof.Machine.execSld f s
  | .sst f => Sys2Proof.Machine.execSst f s
  | .satom f => Sys2Proof.Machine.execSatom f s
  | .tdesc f => Sys2Proof.Machine.execTdesc f s
  | .mopf f => Sys2Proof.Machine.execMopf f s
  | .mma f => Sys2Proof.Machine.execMma f s
  | .mmasp f => Sys2Proof.Machine.execMmasp f s
  | .mwait f => Sys2Proof.Machine.execMwait f s
  | .mzero f => Sys2Proof.Machine.execMzero f s
  | .epi f => Sys2Proof.Machine.execEpi f s
  | .msave f => Sys2Proof.Machine.execMsave f s
  | .mrest f => Sys2Proof.Machine.execMrest f s
  | .mstat f => Sys2Proof.Machine.execMstat f s
  | .xcopy f => Sys2Proof.Machine.execXcopy f s
  | .xcopyy f => Sys2Proof.Machine.execXcopyy f s
  | .rinit f => Sys2Proof.Machine.execRinit f s
  | .rawait f => Sys2Proof.Machine.execRawait f s
  | .rrel f => Sys2Proof.Machine.execRrel f s
  | .copen f => Sys2Proof.Machine.execCopen f s
  | .cform f => Sys2Proof.Machine.execCform f s
  | .csave f => Sys2Proof.Machine.execCsave f s
  | .crest f => Sys2Proof.Machine.execCrest f s
  | .hgath f => Sys2Proof.Machine.execHgath f s
  | .hscat f => Sys2Proof.Machine.execHscat f s
  | .trace f => Sys2Proof.Machine.execTrace f s
  | .coll f => Sys2Proof.Machine.execColl f s
  | .pcnt f => Sys2Proof.Machine.execPcnt f s
  | .ccancel f => Sys2Proof.Machine.execCcancel f s
  | .ccancelCut f => Sys2Proof.Machine.execCcancelCut f s
  | .nstore f => Sys2Proof.Machine.execNstore f s
  | .nfetchRd f => Sys2Proof.Machine.execNfetchRd f s
  | .nfetchAdd f => Sys2Proof.Machine.execNfetchAdd f s
  | .nfetchCas f => Sys2Proof.Machine.execNfetchCas f s
  | .nsig f => Sys2Proof.Machine.execNsig f s
  | .vpubOpen f => Sys2Proof.Machine.execVpubOpen f s
  | .vpubPub f => Sys2Proof.Machine.execVpubPub f s
  | .vpin f => Sys2Proof.Machine.execVpin f s
  | .vunpin f => Sys2Proof.Machine.execVunpin f s
  | .vemit f => Sys2Proof.Machine.execVemit f s
  | .pemit f => Sys2Proof.Machine.execPemit f s
  | .fout f => Sys2Proof.Machine.execFout f s
  | .rfence f => Sys2Proof.Machine.execRfence f s
  | .inputPowerReturn => Sys2Proof.Machine.execInputPowerReturn s
  | .dieLinkFailure x0 => Sys2Proof.Machine.execDieLinkFailure x0 s
  | .msaveMrestTransfer x0 => Sys2Proof.Machine.execMsaveMrestTransfer x0 s
  | .badopRequest => Sys2Proof.Machine.execBadopRequest s
  | .unassignedOpcode x0 x1 => Sys2Proof.Machine.execUnassignedOpcode x0 x1 s

end Sys2Proof.Machine
end

