-- ==== Sys2Proof/Machine/Schedule.lean ====
section
/-! DEFINITION. Which agent moves next (log 1): the issue of the instruction at which a stream stands, the events of the
device, and the order in which the model takes them when no agenda says otherwise. -/

namespace Sys2Proof.Machine

/-! ## The issue of one instruction (R85, R98, R118, R122) -/

/-- Replays of a unit are issued one after another, those of a handler in handler mode (R98): the unit with the next one
taken, if one is to be taken. -/
def takeReplay (u : UnitState) : Option UnitState :=
  if u.override.any u.reissues then none
  else
    (u.replays.find? u.reissues).map fun r =>
      let rest := u.replays.erase r
      { u with override := some r, replays := match u.override with | some o => o :: rest | none => rest }

/-- The port of a unit issues nothing, or the stream's own clause. -/
def portFree (s : State) (r : UnitRef) (slot : Nat) (u : UnitState) : Bool :=
  let busy := match portOf r u with
    | none => (s.core u.core).callerPort.busy
    | some p => (tget default (s.core u.core).parts p).busy
  busy.all fun b => b = (r, slot)

/-- A parked stream whose instruction tests its condition when it is issued again. -/
def Park.retests : Park → Bool
  | .none | .trap | .slice | .ring _ _ => false
  | _ => true

/-- The parked stream's clause issues again. -/
def resume (s : State) (r : UnitRef) (slot : Nat) (u : UnitState) : State :=
  let s := s.modPort u.core (portOf r u) fun p => { p with busy := p.busy ++ [(r, slot)] }
  s.modUnit r fun u => u.modThread slot fun th => { th with run := true }

/-- The instruction that a unit issues next in a stream, with the state in which it is executed; none where it issues
nothing there. -/
def nextIssue (s : State) (r : UnitRef) (slot : Nat) : Option (Instr × State) :=
  match s.unit? r with
  | none => none
  | some u0 =>
    let (u, s) := match takeReplay u0 with
      | some u => (u, s.setUnit r u)
      | none => (u0, s)
    if !unitRuns s r || (firstDue s u).isSome then none
    else
      match u.override.filter u.reissues with
      | some o =>
        if portFree s r o.slot u then o.instr.map fun i => (i, { s with focus := some ⟨r, o.slot⟩ }) else none
      | none =>
        let th := u.thread slot
        if u.replays.any u.reissues || teamReissues s r.team || !u.streamLive slot || th.words = [] then none
        else
          th.instr?.bind fun i =>
            if th.run then some (i, { s with focus := some ⟨r, slot⟩ })
            else if th.park.retests && portFree s r slot u then some (i, { resume s r slot u with focus := some ⟨r, slot⟩ })
            else none

/-- A row of the table that is an event and no instruction word. -/
def isEvent (i : Instr) : Bool := (encode i).isNone

/-- Events of units that ACLK or FCLK drive, which stand still outside the Active state (R15): the cores, the memory side, the engines,
the mapper and the distributor. The management processor, the sideband, the input and the ports go on; of what the ports receive,
`inbound` keeps what the memory side must answer. -/
def clocked : Instr → Bool
  | .entryDecode _ | .launchStart _ _ | .budgetCounterExpiry _ | .graceExpiry _ | .allowanceCharge _ | .teamAtSlice _ | .saveComplete _
  | .governorPeriod _ | .clauseSelect _ _ | .callerClauseSelect _ | .clauseFetchComplete _ _ | .longLatencyWriteback _ | .trapDelivery _
  | .teamEnd _ | .pmcOverflow _ _ | .translationAccess _ _ | .l1Writeback _ _ | .translationChangeComplete _ | .migrationEnd _ _
  | .pinLandingAdmit _ _ | .copyRecordStart _ | .copyRecordEnd _ | .matrixOpAccept _ | .sequencerStep _ | .tileFetchReturn _
  | .epilogueRow _ | .matrixWatchdogExpiry _ | .primitiveForward _ _ | .rasterMerge _ _ | .fragmentTeamFormation _ _
  | .renderOutputPerform _ _ | .collJoinWordArrival _ | .collDataSend _ _ | .collExponentArrival _ | .collPlaneBatchArrival _
  | .collStandardTransferArrival _ | .cutRequestArrival _ | .freezeArrival _ | .freezeRepliesCollected _ _ | .cutKArrival _
  | .streamStopArrival _ | .collOperationEnd _ _ | .msaveMrestTransfer _ | .notifyWrite | .mapperPass | .distributorDecision
  | .mscWayRetirement _ _ | .bankRetirement _ _ => true
  | _ => false

/-- One move: an event occurs, or a stream issues its instruction. A move that cannot be made leaves the state as it is. -/
def makeMove (m : Move) (s : State) : Host.Outcome State Fault Refusal :=
  match m with
  | .occur e => if isEvent e && (s.pkg.power = .active || !clocked e) then exec e s else .next s
  | .issue r slot =>
    match nextIssue s r slot with
    | some (i, s) => exec i s
    | none => .next s

/-! ## The order taken when the agenda is empty (log 1) -/

/-- What a unit can do. -/
def unitMoves (r : UnitRef) : List Move :=
  .occur (.trapDelivery r) :: allSlots.flatMap fun k => [.issue r k, .occur (.clauseFetchComplete r k)]

def coreMoves (s : State) (core : Nat) : List Move :=
  .occur (.callerClauseSelect core) :: ((List.range 16).map fun p => .occur (.clauseSelect core p)) ++
  [.occur (.sequencerStep core), .occur (.tileFetchReturn core), .occur (.epilogueRow core), .occur (.msaveMrestTransfer core)] ++
  (if 2 ^ 24 ≤ (s.core core).watchdog then [.occur (.matrixWatchdogExpiry core)] else [])

def teamMoves (id : Nat) (t : Team) : List Move :=
  ((t.refs id).flatMap unitMoves) ++ [.occur (.teamAtSlice id), .occur (.saveComplete id), .occur (.teamEnd id)] ++
  ((t.refs id).map fun r => .occur (.matrixOpAccept r)) ++ (if t.expired then [.occur (.budgetCounterExpiry id)] else []) ++
  (if t.grace = some 0 then [.occur (.graceExpiry id)] else []) ++ (if 1024 ≤ t.uncharged then [.occur (.allowanceCharge id)] else [])

def accessMoves (a : Access) : List Move :=
  (a.lanes.map fun l => .occur (.translationAccess a.id l.lane)) ++ [.occur (.longLatencyWriteback a.id)]

def streamMoves (k : Nat) : List Move :=
  (List.range 4).flatMap fun d =>
    [.occur (.primitiveForward k d), .occur (.rasterMerge k d), .occur (.fragmentTeamFormation k d), .occur (.renderOutputPerform k d)]

def collMoves (s : State) : List Move :=
  ((List.range s.collMsgs.length).flatMap fun n =>
    [.occur (.collJoinWordArrival n), .occur (.collExponentArrival n), .occur (.collPlaneBatchArrival n), .occur (.collStandardTransferArrival n),
     .occur (.cutRequestArrival n), .occur (.freezeArrival n), .occur (.cutKArrival n), .occur (.streamStopArrival n)]) ++
  ((List.range 4).flatMap fun d => (List.range s.collOps.length).flatMap fun n =>
    [.occur (.freezeRepliesCollected d n), .occur (.collDataSend d n), .occur (.collOperationEnd d n)])

def memMoves (s : State) : List Move :=
  (s.mem.changes.map fun c => .occur (.translationChangeComplete c.page)) ++
  (s.mem.migrations.map fun m => .occur (.migrationEnd m.page false)) ++
  (s.mem.pinWait.filterMap fun w => (homeSlice (128 * w.1)).map fun h => .occur (.pinLandingAdmit h (mscSetOf w.1)))

def mgmtMoves (s : State) : List Move :=
  if s.mgmt.pending = [] && s.mgmt.current.isNone then []
  else
    [.connWrite, .connRead, .connReset, .regionWrite, .regionRead, .portWrite, .portRead, .paddrWrite, .paddrRead, .congWrite, .congRead,
     .qdescWrite, .queueHaltClear, .qdescRead, .ctxregWrite, .contextPreempt, .ctxregRead, .devregWrite, .devregRead, .pteWrite, .pteRead,
     .attest, .faultRead, .pmcRead, .pmcWrite, .ctxHalt, .powerActive, .powerRetention, .powerOff, .ceuInfo, .badopRequest].map .occur

def queueMoves (s : State) : List Move :=
  (s.queues.flatMap fun q => .occur (.entryDecode q.1) :: q.2.window.map fun e => .occur (.launchStart q.1 e.idx)) ++
  [.occur .distributorDecision, .occur .notifyWrite]

/-- What the device can do by itself; what comes from outside and what a free passage of time brings are left to the
agenda. -/
def moves (s : State) : List Move :=
  (if s.pkg.boot = .inReset then [.occur .moduleReset] else []) ++
  (s.residents.flatMap fun p => teamMoves p.1 p.2) ++
  ((s.residents.flatMap fun p => p.2.cores).eraseDups.flatMap (coreMoves s)) ++
  (s.inflight.flatMap accessMoves) ++ memMoves s ++
  (s.channels.flatMap fun c => [.occur (.copyRecordStart c.1), .occur (.copyRecordEnd c.1)]) ++
  collMoves s ++ (s.streams.flatMap fun p => streamMoves p.1) ++
  (s.conns.map fun p => .occur (.pendingRequestSend (p.1 / 4096) (p.1 % 4096))) ++
  (s.conns.filterMap fun p => p.2.parked.head?.map fun q => .occur (.translationAccess q.1 0)) ++
  mgmtMoves s ++ queueMoves s ++ [.occur .mapperPass]

/-- A move that changes the state. -/
def Move.acts (s : State) (m : Move) : Bool :=
  match makeMove m s with
  | .next t => decide (t ≠ s)
  | _ => true

/-- The moves in turn: the search begins after the place of the move made last. -/
def inTurn (s : State) : List (Move × Nat) :=
  let ms := (moves s).zipIdx
  let k := s.turn % max 1 ms.length
  ms.drop k ++ ms.take k

/-- The next move with the state in which it is made: the first of the agenda, or the first of the device's own, taken in
turn, that changes the state. -/
def nextMove (s : State) : Option (Move × State) :=
  match s.agenda with
  | m :: l => some (m, { s with agenda := l })
  | [] => ((inTurn s).find? (·.1.acts s)).map fun m => (m.1, { s with turn := m.2 + 1 })

/-! ## A given instruction comes next (log 3) -/

/-- The launch of the team that `placeWord` makes: one group of 32 lanes with every register a team may take. -/
def probeLaunch (ctx : Nat) : Launch :=
  { (default : Launch) with ctx := ctx, gx := 1, gy := 1, tx := 32, ty := 1, tz := 1, setsz := 1, width := 32
                            budget := ⟨256, 128, 64, 4096⟩, next := 1, count := 1 }

/-- A stream that stands at the first word of a clause that issues. -/
def probeThread (words : List W64) : Thread :=
  { pc := 0, words := words, idx := 1, run := true, met := true, park := .none, lastIssue := 0 }

/-- The words of a clause from its bits, lowest first: the header and as much of its COUNT + 1 words as the bits give. -/
def clauseWords (nbits w : Nat) : List W64 :=
  let v := w % 2 ^ nbits
  let word (n : Nat) : W64 := BitVec.ofNat 64 (v >>> (64 * n))
  word 0 :: (List.range (min ((decodeHeader (word 0)).count + 1) 2)).map fun n => word (n + 1)

/-- A resident team of context 0 on core 0 with one group, whose stream of the clause's kind issues the clause next. -/
def State.placeWord (s : State) (nbits w : Nat) : State :=
  let words := clauseWords nbits w
  let caller := (decodeHeader (words.headD 0)).stream
  let lid := s.nextId
  let id := s.nextId + 1
  let r : UnitRef := ⟨id, if caller then none else some 0⟩
  let unit (x : W64) (mine : Bool) : UnitState :=
    { (default : UnitState) with halves := [0, 1], x := x, main := if mine then probeThread words else Thread.at 0 0 }
  let t : Team :=
    { (default : Team) with launch := lid, life := .running, cores := [0], places := [0], save := some 0
                            wins := (s.context 0).regs.filter fun r => decide (r.1 < 0x80)
                            caller := unit 1 caller, groups := [unit (lowMask 32) !caller] }
  let s := { s with nextId := id + 1, agenda := [.issue r 0], launches := tput s.launches lid (probeLaunch 0), pkg := { s.pkg with power := .active } }
  (s.setTeam id t).modPort 0 (if caller then none else some 0) fun p => { p with busy := p.busy ++ [(r, 0)] }

end Sys2Proof.Machine
end

