-- ==== Sys2Proof/Machine/Step.lean ====
section
/-! DEFINITION. One step of the machine, and a state in which the next step runs a given instruction. -/

namespace Sys2Proof.Machine

/-- One step: the next agent moves (log 1). -/
def step (s : State) : Host.Outcome State Fault Refusal :=
  match nextMove s with
  | some (m, s) => makeMove m s
  | none => .next s

/-- The state in which a team of one group, or of its caller alone for a caller stream, stands at the instruction of these
bits, numbered as `decodeTableWord` numbers them, and issues it in the next step (log 3). -/
def State.withFetchWord (s : State) (nbits w : Nat) : State := s.placeWord nbits w

end Sys2Proof.Machine
end

