-- ==== Sys2Proof/Safety.lean ====
section
/-! DEFINITION. Safety: what counts as a legal state and as a safe run, in the terms statements use. -/

namespace Sys2Proof.Machine

/-- The memory of a state is in its canonical form. -/
def State.memOk (s : State) : Prop := Memory.wf s.mem.hbm

/-! ## Issue (R283) -/

/-- The requirements of the entry of each instruction word; none for an event, which is not issued. -/
def entryOf (i : Instr) : Option Enc :=
  match i with
  | .iadd f => some (encArith f allInt true false true)
  | .isub f => some (encArith f allInt true false true)
  | .imul f => some (encArith f allInt true false true)
  | .imulhi f => some (encArith f wordInt true false false)
  | .imad f => some (encArith f allInt true true true)
  | .imin f => some (encArith f allInt true false false)
  | .imax f => some (encArith f allInt true false false)
  | .iabs f => some (encArith f [0, 2, 4, 6] false false true)
  | .andV f => some (encBit f true false)
  | .orV f => some (encBit f true false)
  | .xorV f => some (encBit f true false)
  | .notV f => some (encBit f false false)
  | .shl f => some (encBit f true true)
  | .shr f => some (encBit f true true)
  | .sar f => some (encBit f true true)
  | .bfe f => some (encBit f true true)
  | .bfi f => some (encBfi f)
  | .popc f => some (encCountOf f)
  | .clz f => some (encCountOf f)
  | .brev f => some (encBit f false false)
  | .icmp f => some (encIcmp f)
  | .sel f => some (encSel f)
  | .lea f => some (encLea f)
  | .fadd f => some (encFloat f floatPacked true false true)
  | .fsub f => some (encFloat f floatPacked true false true)
  | .fmul f => some (encFloat f floatPacked true false true)
  | .ffma f => some (encFloat f floatPacked true true true)
  | .fmin f => some (encFloat f floatPacked true false false)
  | .fmax f => some (encFloat f floatPacked true false false)
  | .fcmp f => some (encFcmp f)
  | .fclass f => some (encFclass f)
  | .frnd f => some (encFloat f floatPacked false false true)
  | .cvt f => some (encCvt f)
  | .qblk f => some (encQblk f)
  | .dqblk f => some (encDqblk f)
  | .pack f => some (encPack f)
  | .unpack f => some (encUnpack f)
  | .dot4 f => some (encDot4 f)
  | .shfl f => some (encShfl f)
  | .vote f => some (encVote f)
  | .rdx f => some (encRdxOp f)
  | .scan f => some (encScan f)
  | .bcast f => some (encBcast f)
  | .mov f => some (encBit f false false)
  | .movi f => some (encMovi f)
  | .movs f => some (encMovs f)
  | .srnd f => some (encSrnd f)
  | .fsel f => some (encFsel f)
  | .ld f => some (encMem f true false true true)
  | .st f => some (encMem f true true true true)
  | .lds f => some (encMem f false false true false)
  | .sts f => some (encMem f false true true false)
  | .ldc f => some (encMem f true false true false)
  | .stc f => some (encMem f true true true false)
  | .lda f => some (encMem f false false true false)
  | .sta f => some (encMem f false true true false)
  | .ldk f => some (encMem f false false false false)
  | .atom f => some (encAtom f)
  | .red f => some (encRed f)
  | .fence f => some (encFence f)
  | .pref f => some (encPref f)
  | .cctlWb f => some (encCctl f (f.d = 0x1C0))
  | .cctlInv f => some (encCctl f (f.d = 0x1C1))
  | .cctlClrp f => some (encCctl f (f.d = 0x1C2))
  | .tex f => some (encTex f)
  | .tfetch f => some (encTfetch f)
  | .imst f => some (encImst f)
  | .rcp f => some (encFloat f floatPacked false false true)
  | .rsq f => some (encFloat f floatPacked false false false)
  | .sqrt f => some (encFloat f floatPacked false false true)
  | .exp2 f => some (encFloat f floatPacked false false false)
  | .log2 f => some (encFloat f floatPacked false false false)
  | .sin f => some (encFloat f floatPacked false false false)
  | .cos f => some (encFloat f floatPacked false false false)
  | .tanh f => some (encFloat f floatPacked false false false)
  | .sigm f => some (encFloat f floatPacked false false false)
  | .bra f => some (encBra f)
  | .brz f => some (encBranch f)
  | .brnz f => some (encBranch f)
  | .call f => some (encCall f)
  | .calli f => some (encCalli f)
  | .ret f => some (encRet f)
  | .exit f => some (encExit f)
  | .split f => some (encSplit f)
  | .join f => some (encJoin f)
  | .yield f => some (encYield f)
  | .barrive f => some (encBar f true)
  | .bwait f => some (encBar f false)
  | .bsync f => some (encBar f true)
  | .tkget f => some (encTkget f)
  | .tkwait f => some (encTkwait f)
  | .tkadv f => some (encTkadv f)
  | .qpush f => some (encQpush f)
  | .qpop f => some (encQpop f)
  | .slice f => some (encSlice f)
  | .grow f => some (encGrow f)
  | .trap f => some (encTrap f)
  | .tret f => some (encTret f)
  | .nop f => some (encNop f)
  | .sread f => some (encSread f)
  | .swrite f => some (encSwrite f)
  | .pmap f => some (encPage f true)
  | .migr f => some (encPage f false)
  | .waitfe f => some (encWaitfe f)
  | .sadd f => some (encScalar f true false true false)
  | .ssub f => some (encScalar f true false true false)
  | .smul f => some (encScalar f true false true false)
  | .sand f => some (encScalar f true false false false)
  | .sor f => some (encScalar f true false false false)
  | .sxor f => some (encScalar f true false false false)
  | .snot f => some (encScalar f false false false false)
  | .sandn f => some (encScalar f true false false false)
  | .sshl f => some (encScalar f true false false false)
  | .sshr f => some (encScalar f true false false false)
  | .scmp f => some (encScalar f true false false true)
  | .ssel f => some (encScalar f true true false false)
  | .spopc f => some (encScalar f false false false false)
  | .sffs f => some (encScalar f false false false false)
  | .smov f => some (encScalar f false false false false)
  | .smovi f => some (encSmovi f)
  | .sldk f => some (encScalarMem f false false)
  | .sld f => some (encScalarMem f false true)
  | .sst f => some (encScalarMem f true true)
  | .satom f => some (encSatom f)
  | .tdesc f => some (encTdesc f)
  | .mopf f => some (encMopf f)
  | .mma f => some (encMma f)
  | .mmasp f => some (encMma f)
  | .mwait f => some (encMwait f)
  | .mzero f => some (encMzero f)
  | .epi f => some (encEpi f)
  | .msave f => some (encMsave f)
  | .mrest f => some (encMrest f)
  | .mstat f => some (encMstat f)
  | .xcopy f => some (encXcopy f)
  | .xcopyy f => some (encXcopyy f)
  | .rinit f => some (encRinit f)
  | .rawait f => some (encRawait f)
  | .rrel f => some (encRrel f)
  | .copen f => some (encCopen f)
  | .cform f => some (encCform f)
  | .csave f => some (encCsave f)
  | .crest f => some (encCrest f)
  | .hgath f => some (gridEnc f [Use.dst f.d])
  | .hscat f => some (gridEnc f (Use.imp f.d 1 .vec :: if f.d.toNat < 255 then [Use.imp (f.d + 1) 1 .vec] else []))
  | .trace f => some (encTrace f)
  | .coll f => some (encColl f)
  | .pcnt f => some (encPcnt f)
  | .ccancel f => some (encCancel f 0)
  | .ccancelCut f => some (encCancel f 1)
  | .nstore f => some (encNstore f)
  | .nfetchRd f => some (netFetchEnc f 0)
  | .nfetchAdd f => some (netFetchEnc f 1)
  | .nfetchCas f => some (netFetchEnc f 2)
  | .nsig f => some (encNsig f)
  | .vpubOpen f => some (encVpubOpen f)
  | .vpubPub f => some (encVpubPub f)
  | .vpin f => some (encVpin f)
  | .vunpin f => some (encVunpin f)
  | .vemit f => some (encVemit f)
  | .pemit f => some (encPemit f)
  | .fout f => some (encFout f)
  | .rfence f => some (encRfence f)
  | .unassignedOpcode _ _ => some { ok := false, uses := [], mask := 0 }
  | .inputOvervoltageDisconnect => none
  | .inputVoltageHighBand => none
  | .inputVoltageLowBand => none
  | .inputVoltageRestored => none
  | .inputDropout => none
  | .inputDropoutExpiry => none
  | .powerCapCheck _ _ => none
  | .thermalThresholdCrossed _ _ => none
  | .thermalDropTimer _ => none
  | .aclkClimbTimer _ => none
  | .thermalHalt _ _ => none
  | .moduleReset => none
  | .dynamicAddressAssignment _ => none
  | .readBootState => none
  | .setPowerCap _ => none
  | .readJunctionSensors => none
  | .readAlertCauses => none
  | .clearAlertCauses _ => none
  | .deliverImage _ => none
  | .correctableError _ _ _ => none
  | .trackingWindowExpiry _ _ => none
  | .bankRetirement _ _ => none
  | .mscWayRetirement _ _ => none
  | .hbmPageRetirement _ _ => none
  | .linkUp _ => none
  | .linkLoss _ => none
  | .linkHoldExpiry _ => none
  | .mediaChange _ _ => none
  | .inboundRdmaWrite _ => none
  | .inboundRdmaRead _ _ => none
  | .inboundSend _ => none
  | .inboundAtomic _ _ _ _ => none
  | .inboundInvalidRequest _ _ _ => none
  | .outOfSequencePacket _ _ _ => none
  | .networkAckReceived _ _ _ _ => none
  | .nakReceived _ _ _ _ => none
  | .ackTimeout _ _ => none
  | .pendingRequestSend _ _ => none
  | .congestionNotificationReceived _ _ => none
  | .rateRecoveryTimer _ _ => none
  | .pauseFrameReceived _ _ _ => none
  | .connWrite => none
  | .connRead => none
  | .connReset => none
  | .regionWrite => none
  | .regionRead => none
  | .portWrite => none
  | .portRead => none
  | .paddrWrite => none
  | .paddrRead => none
  | .congWrite => none
  | .congRead => none
  | .qdescWrite => none
  | .queueHaltClear => none
  | .qdescRead => none
  | .ctxregWrite => none
  | .contextPreempt => none
  | .ctxregRead => none
  | .devregWrite => none
  | .devregRead => none
  | .pteWrite => none
  | .pteRead => none
  | .attest => none
  | .faultRead => none
  | .pmcRead => none
  | .pmcWrite => none
  | .ctxHalt => none
  | .powerActive => none
  | .powerRetention => none
  | .powerOff => none
  | .ceuInfo => none
  | .registerWrite _ _ => none
  | .notifyWrite => none
  | .mapperPass => none
  | .entryDecode _ => none
  | .launchStart _ _ => none
  | .distributorDecision => none
  | .budgetCounterExpiry _ => none
  | .graceExpiry _ => none
  | .allowanceCharge _ => none
  | .teamAtSlice _ => none
  | .saveComplete _ => none
  | .governorPeriod _ => none
  | .clauseSelect _ _ => none
  | .callerClauseSelect _ => none
  | .clauseFetchComplete _ _ => none
  | .longLatencyWriteback _ => none
  | .trapDelivery _ => none
  | .teamEnd _ => none
  | .pmcOverflow _ _ => none
  | .translationAccess _ _ => none
  | .l1Writeback _ _ => none
  | .translationChangeComplete _ => none
  | .migrationEnd _ _ => none
  | .pinLandingAdmit _ _ => none
  | .copyRecordStart _ => none
  | .copyRecordEnd _ => none
  | .matrixOpAccept _ => none
  | .sequencerStep _ => none
  | .tileFetchReturn _ => none
  | .epilogueRow _ => none
  | .matrixWatchdogExpiry _ => none
  | .primitiveForward _ _ => none
  | .rasterMerge _ _ => none
  | .fragmentTeamFormation _ _ => none
  | .renderOutputPerform _ _ => none
  | .collJoinWordArrival _ => none
  | .collDataSend _ _ => none
  | .collExponentArrival _ => none
  | .collPlaneBatchArrival _ => none
  | .collStandardTransferArrival _ => none
  | .cutRequestArrival _ => none
  | .freezeArrival _ => none
  | .freezeRepliesCollected _ _ => none
  | .cutKArrival _ => none
  | .streamStopArrival _ => none
  | .collOperationEnd _ _ => none
  | .inputPowerReturn => none
  | .dieLinkFailure _ => none
  | .msaveMrestTransfer _ => none
  | .badopRequest => none

/-- The context and the state in which the entry of an instruction acts: the steps of R283 let it through. Where it reads
$cycles, a free number of cycles has passed (log 20). -/
def issued (i : Instr) (s : State) : Option (Ctx × State) :=
  match entryOf i with
  | none => none
  | some e =>
    match mkCtx s i e.mask with
    | none => none
    | some c =>
      if gate c e = .go then some (c, entryState c e s) else none

/-! ## What an instruction of one unit leaves alone -/

/-- A unit without the places of its streams. -/
def UnitState.unplaced (u : UnitState) : UnitState :=
  { u with
    main := default
    override := none
    handler := u.handler.map fun h => { h with th := default }
    region := { u.region with subs := u.region.subs.map fun g => { g with th := default } } }

/-- A team without its units. -/
def Team.shell (t : Team) : Team := { t with caller := default, groups := [] }

/-- A core without its issue ports and its event counters. -/
def Core.uncounted (k : Core) : Core := { k with parts := [], callerPort := default, pmc := [], pmcc := [], overflow := [] }

/-- From `s` to `t` nothing has changed but the unit `r`, the issue ports and the event counters. -/
def OnlyUnit (r : UnitRef) (s t : State) : Prop :=
  { t with teams := s.teams, cores := s.cores } = s ∧
  (∀ q, q ≠ r → t.unit? q = s.unit? q) ∧
  (∀ id, (t.team? id).map Team.shell = (s.team? id).map Team.shell) ∧
  ∀ k, (t.core k).uncounted = (s.core k).uncounted

/-- The vector registers of `u` are those of `v` but for the words `w l` of each lane `l` of `lanes`, from register `d`; the
words written no longer hold uncorrectable data (R30); nothing else of the unit has changed but the places of its streams. -/
def VecWritten (v : UnitState) (lanes : List Nat) (d : Nat) (w : Nat → List W32) (u : UnitState) : Prop :=
  ({ u with vregs := v.vregs, badRegs := v.badRegs } : UnitState).unplaced = v.unplaced ∧
  (∀ r l, l < 64 → u.vreg r l =
    if l ∈ lanes ∧ d ≤ r ∧ r < d + (w l).length then (w l).getD (r - d) 0 else v.vreg r l) ∧
  ∀ r l, (r, l) ∈ u.badRegs ↔ (r, l) ∈ v.badRegs ∧ ¬(l ∈ lanes ∧ d ≤ r ∧ r < d + (w l).length)

/-- Scalar register `d` of `u` holds `x`, which is no uncorrectable data (R30); nothing else of the unit has changed but the
places of its streams. -/
def SclWritten (v : UnitState) (d : Nat) (x : W64) (u : UnitState) : Prop :=
  ({ u with sregs := v.sregs, badRegs := v.badRegs } : UnitState).unplaced = v.unplaced ∧
  (∀ r, u.sreg r = if r = d then x else v.sreg r) ∧
  ∀ b, b ∈ u.badRegs ↔ b ∈ v.badRegs ∧ b ≠ (0x100 + d, 0)

/-- The unit has the stream of clauses of a slot. -/
def UnitState.hasStream (u : UnitState) (slot : Nat) : Bool :=
  slot = 0 || if slot = 5 then u.handler.isSome else (u.region.subs[subIdx slot]?).isSome

/-- Nothing of the unit has changed but that the stream of `c` stands before the clause at `pc`, still to be fetched. -/
def AtClause (c : Ctx) (pc : Nat) (u : UnitState) : Prop :=
  u.unplaced = c.us.unplaced ∧
  (c.us.hasStream c.slot → u.thread c.slot = Thread.at pc (c.us.thread c.slot).lastIssue)

/-- Nothing of the unit has changed but that the stream of `c` stands at the word after an instruction of `len` words, or
before the clause that follows, of which it has what its fetch has brought (R272, R275); an instruction that TRET or a restoration issued again leaves the stream where
it stands (R122). -/
def AtNext (c : Ctx) (len : Nat) (u : UnitState) : Prop :=
  let th := c.us.thread c.slot
  u.unplaced = c.us.unplaced ∧ (c.again → u.override = none ∧ u.thread c.slot = th) ∧
  (c.again = false → c.us.hasStream c.slot →
    u.thread c.slot = if th.idx + len < th.words.length then { th with idx := th.idx + len, park := .none, run := true }
      else th.next)

/-- The unit waits at the instruction: nothing of it has changed but that its stream is parked so. -/
def ParkedAs (c : Ctx) (p : Park) (u : UnitState) : Prop :=
  u.unplaced = c.us.unplaced ∧
  (c.again = false → c.us.hasStream c.slot → u.thread c.slot = { c.us.thread c.slot with park := p, run := false })

/-- The instruction answers a next state in which nothing but its unit differs from `s0`, and that unit is as `p` says. -/
def UnitStep (i : Instr) (s s0 : State) (c : Ctx) (p : UnitState → Prop) : Prop :=
  ∃ t u, exec i s = .next t ∧ OnlyUnit c.u s0 t ∧ t.unit? c.u = some u ∧ p u

/-- The registers, the mask and the trap registers of a unit are those of `v`. -/
def UnitKept (v u : UnitState) : Prop :=
  u.vregs = v.vregs ∧ u.sregs = v.sregs ∧ u.x = v.x ∧ u.exited = v.exited ∧ u.tinfo = v.tinfo ∧ u.taddr = v.taddr ∧
    u.tpc = v.tpc ∧ u.tmask = v.tmask

/-- The units other than `r` are those of `s`. -/
def OthersKept (r : UnitRef) (s t : State) : Prop := ∀ q, q ≠ r → t.unit? q = s.unit? q

/-- The instruction is a long-latency producer (R117): from `s1` on it answers a next state in which one access of the unit is
in flight that was not, its destinations are empty, no other full/empty bit of the unit has changed, and no other unit; the
state and the access are as `p` says. -/
def Queues (i : Instr) (s s1 : State) (c : Ctx) (d : BitVec 9) (regs : Nat) (p : State → Access → Prop) : Prop :=
  ∃ t u a, exec i s = .next t ∧ t.inflight = s1.inflight ++ [a] ∧ a.u = c.u ∧ a.core = c.core ∧ a.dst = some d.toNat ∧
    a.regs = regs ∧ OthersKept c.u s1 t ∧ t.unit? c.u = some u ∧ UnitKept c.us u ∧
    (∀ r, r < 0x180 → u.isEmpty r 1 = (c.us.isEmpty r 1 || (decide (d.toNat ≤ r) && decide (r < d.toNat + regs)))) ∧ p t a

/-- The byte that the last writer of a list puts at address `a`: each writes its bytes from its address on. -/
def lastByte {α : Type} (l : List α) (addr : α → Nat) (data : α → Bytes) (a : Nat) : Option Byte :=
  (l.reverse.find? fun x => decide (addr x ≤ a) && decide (a < addr x + (data x).length)).map fun x => (data x).getD (a - addr x) 0

/-- A result of floating-point codes for every lane (R183, R344): under policy 2 a non-finite code raises cause 0x10 for EM
before anything is written; otherwise every lane's codes pass the policy and are written as `words` places them. -/
def FloatStep (i : Instr) (s s0 : State) (c : Ctx) (d : BitVec 9) (codes : Nat → List (Fmt × Nat))
    (words : List Nat → List W32) : Prop :=
  ((∀ l ∈ c.lanes, ∀ q ∈ codes l, traps c.launch.nfpol q.1 q.2 = false) →
    UnitStep i s s0 c (VecWritten c.us c.lanes d.toNat fun l =>
      words ((codes l).map fun q => policy c.launch.nfpol q.1 q.2))) ∧
  ((∃ l ∈ c.lanes, ∃ q ∈ codes l, traps c.launch.nfpol q.1 q.2 = true) → exec i s = .next (raiseHere c 0x10 0 0 s0))

/-! ## What some events do -/

/-- A loss of power leaves what the flash, the fuses and the boot counter hold, and what has been sent (R14, R15, R21); where the
input stays, also the alert causes and the sideband (log 77). -/
def PowerLost (s : State) (p : PowerState) (b : BootState) (input : Bool) (t : State) : Prop :=
  { t with pkg := State.reset.pkg, wire := State.reset.wire, wireMarks := State.reset.wireMarks, agenda := State.reset.agenda
           turn := State.reset.turn, freeCtr := State.reset.freeCtr, nextId := State.reset.nextId } = State.reset ∧
  t.pkg.alerts = (if input then s.pkg.alerts else default) ∧ t.pkg.i3c = (if input then s.pkg.i3c else none) ∧
  t.wire = s.wire ∧ t.pkg.power = p ∧ t.pkg.boot = b ∧ t.pkg.flashA = s.pkg.flashA ∧ t.pkg.flashB = s.pkg.flashB ∧
  t.pkg.fusedRsa = s.pkg.fusedRsa ∧ t.pkg.fusedSlh = s.pkg.fusedSlh ∧ t.pkg.fusedSvn = s.pkg.fusedSvn ∧
  t.pkg.serial = s.pkg.serial ∧ t.pkg.macs = s.pkg.macs ∧ t.pkg.boots = s.pkg.boots

/-- An operation of the management processor serves the request that is next if its OPC is the operation's (R41, R42): a
reserved bit gives BADOP, a body shorter than the operation's BADARG, and otherwise the answer is as given: its status, its
body, and the state in which it is written. -/
def Serves (i : Instr) (opc len : Nat) (s : State) (r : MgmtReq) (a : Byte × Bytes × State) : Prop :=
  (r.opc ≠ opc → exec i s = .next s) ∧
  (r.opc = opc → exec i s = .next (
    if r.reserved then answerReq (takeReq s r) r 1 []
    else if 4032 < r.len ∨ r.len < len then answerReq (takeReq s r) r 2 []
    else answerReq a.2.2 r a.1 a.2.1))

end Sys2Proof.Machine
end

