-- ==== Sys2Proof/Certificates/Slice0/Obligations.lean ====
section
/-! DEFINITION. The statements for the provers, made from the numbered rules of the spec. -/

section

open Sys2Proof Sys2Proof.Machine

/-! ## The machine as a whole -/

/-- R21, R24, R34, R43, R45, R54, R131: the state after reset, where the spec gives values: the module is in reset; ports,
connections, regions and world registers hold their reset values; nothing is queued, mapped or running; the memory is in its
canonical form, with nothing listed. -/
def Obligations.ResetState : Prop :=
  let s := State.reset
  s.pkg.boot = .inReset ∧ s.pkg.worldLock = false ∧ s.pkg.worldSets = 0 ∧ s.pkg.worldCopy = 0 ∧ s.pkg.worldColl = 0 ∧
  s.pkg.worldPorts = 0 ∧ s.pkg.worldTu = 0 ∧ s.pkg.regionDesc = [] ∧ s.pkg.alerts = ⟨false, false, false, false⟩ ∧
  (∀ p, (s.port p).status.getLsbD 0 = false ∧ (s.port p).status.getLsbD 3 = false ∧ bits (s.port p).status 4 3 = 3 ∧
    bits (s.port p).status 8 8 = 26 ∧ bits (s.port p).status 16 16 = 0 ∧ bits (s.port p).cong 0 9 = 8 ∧ bits (s.port p).cong 9 3 = 1 ∧
    bits (s.port p).cong 16 7 = 5 ∧ bits (s.port p).cong 24 7 = 5) ∧
  (∀ k, (s.conn k).valid = false ∧ (s.conn k).err = false ∧ bits (s.conn k).entry 6 5 = 10 ∧ bits (s.conn k).entry 11 3 = 7 ∧
    bits (s.conn k).entry 88 8 = 64 ∧ tget 0 s.regions k = 0) ∧
  (∀ q, (s.queue q).desc = 0 ∧ (s.queue q).slot = none ∧ (s.queue q).halt = false) ∧
  (∀ page, pte s page = 0) ∧ s.teams = [] ∧ s.launches = [] ∧ s.inflight = [] ∧ s.mem.msc = [] ∧ s.mem.hbm = [] ∧ s.memOk

/-- R85, R272, R275: in a step that lets a stream issue, the words at which it stands decode to an instruction, and the step is
`exec` of that instruction for that stream; nothing else changes. A stream that waits retries its instruction once its port is
free, with its clause on the port again. A step in which an event occurs is `exec` of it, but that outside the Active state
nothing occurs in the units whose clock is gated (R15). The order of the steps is the model's (log 1). -/
def Obligations.StepRunsDecoded : Prop :=
  ∀ (s : State) (l : List Move),
    (∀ (r : UnitRef) (slot : Nat) (u : UnitState) (i : Instr) (rest : List W64), s.agenda = .issue r slot :: l →
      s.unit? r = some u → unitRuns s r = true → firstDue s u = none → u.override = none → u.replays = [] →
      teamReissues s r.team = false →
      let th := u.thread slot
      let ready := { s with agenda := l, focus := some ⟨r, slot⟩ }
      u.streamLive slot = true → th.words ≠ [] → decodeWords th.header.cls (th.words.drop th.idx) = .ok (i, rest) →
      (th.run = true → step s = exec i ready) ∧
      (th.run = false → th.park.retests = true → portFree s r slot u = true → step s = exec i (resume ready r slot u))) ∧
    (∀ e : Instr, s.agenda = .occur e :: l → encode e = none →
      step s = if s.pkg.power = .active ∨ clocked e = false then exec e { s with agenda := l } else .next { s with agenda := l }) ∧
    (s.agenda = [] → step s = .next s ∨ ∃ m n, m ∈ moves s ∧ m.acts s = true ∧ step s = makeMove m { s with turn := n })

/-- Every step answers a next state: no reachable or unreachable state stops the machine. -/
def Obligations.StepAnswers : Prop :=
  ∀ s : State, ∃ t, step s = .next t

/-- R4: every step keeps the canonical form of the memory. -/
def Obligations.StepKeepsMemory : Prop :=
  ∀ s t : State, s.memOk → step s = .next t → t.memOk

/-- R24: once LOCK is 1, nothing but a reset, a loss of power or an image that starts writes a world register or LOCK. -/
def Obligations.WorldLock : Prop :=
  ∀ (i : Instr) (s t : State), exec i s = .next t → s.pkg.worldLock = true →
    i ∉ [.inputOvervoltageDisconnect, .inputDropoutExpiry, .inputPowerReturn, .moduleReset, .powerOff] →
    (∀ n temp, i ≠ .thermalHalt n temp) → (∀ img, i ≠ .deliverImage img) →
    t.pkg.worldLock = true ∧ t.pkg.worldSets = s.pkg.worldSets ∧ t.pkg.worldCopy = s.pkg.worldCopy ∧ t.pkg.worldColl = s.pkg.worldColl ∧
      t.pkg.worldPorts = s.pkg.worldPorts ∧ t.pkg.worldTu = s.pkg.worldTu ∧ t.pkg.regionDesc = s.pkg.regionDesc

/-- R283, R112, R117, R118, R288: the steps of issue, in their order. A word that its entry does not allow raises cause 0x01, a
register outside the allocation cause 0x03; an instruction whose EM is zero only goes on, but for EXIT in
handler mode, which acts whatever its mask (R323, log 93); an empty mask, destination or source makes it wait, or raises cause
0x04 where its field says so; a scope that is not valid raises cause 0x0F. A source register with uncorrectable data raises cause
0x0A (R30): a caller trap in the caller stream; in a group for the lanes concerned, while the others perform the same entry as of
an instruction that is let through; the fault keeps its place in issue order among the unit's (R121), and is not raised while the
others have the instruction wait or trap. An unassigned opcode raises cause 0x01 always (R297). -/
def Obligations.IssueSteps : Prop :=
  (∀ (i : Instr) (e : Enc) (s : State) (c : Ctx), entryOf i = some e → mkCtx s i e.mask = some c →
    let legal := encLegal c e = true
    let allocated := (∀ u ∈ e.uses, u.allocated c.caller c.launch.budget = true) ∧ (e.mask = 0 ∨ e.mask.toNat < c.launch.budget.sregs)
    let maskEmpty := e.mask ≠ 0 ∧ c.again = false ∧ c.us.sEmpty.getLsbD e.mask.toNat = true
    let nothing := c.em = 0 ∧ ¬(e.whole = true ∧ c.inHandler = true)
    let first := emptyGate (gateUnit c) c.again e.uses
    (¬legal → exec i s = .next (raiseHere c 0x01 0 0 s)) ∧
    (legal → ¬allocated → exec i s = .next (raiseHere c 0x03 0 0 s)) ∧
    (legal → allocated → maskEmpty → exec i s = .next (parkAt c .retry s)) ∧
    (legal → allocated → ¬maskEmpty → nothing → exec i s = .next (advance c e.len s)) ∧
    (legal → allocated → ¬maskEmpty → ¬nothing → first = .wait → exec i s = .next (parkAt c .retry s)) ∧
    (legal → allocated → ¬maskEmpty → ¬nothing → first = .empty → exec i s = .next (raiseHere c 0x04 0 0 s)) ∧
    (legal → allocated → ¬maskEmpty → ¬nothing → first = .go → ∀ id, e.scope = some id → scopeValid c.team.wins id = false →
      exec i s = .next (raiseHere c 0x0F 0 0 s)) ∧
    (legal → allocated → ¬maskEmpty → ¬nothing → first = .go → (∀ id, e.scope = some id → scopeValid c.team.wins id = true) →
      (badLanes c e = 0 → issued i s = some (c, entryState c e s)) ∧
      (badLanes c e ≠ 0 → c.caller = true → exec i s = .next (raiseHere c 0x0A 0 0 s)))) ∧
  (∀ (i : Instr) (e : Enc), entryOf i = some e → ∃ body : Ctx → State → State,
    (∀ (s s0 : State) (c : Ctx), issued i s = some (c, s0) → exec i s = .next (body c s0)) ∧
    ∀ (s : State) (c : Ctx), mkCtx s i e.mask = some c → gate c e = .bad → c.caller = false →
      let f := badLanes c e
      let em := c.em &&& ~~~f
      let s1 := { s with nextId := s.nextId + 1 }
      let rep := { c.rep with acc := some (c.rep.acc.getD s.nextId) }
      let late := match lateDst rep e with | some d => { rep with dst := some d.1, regs := d.2 } | none => rep
      let t := if em = 0 then advance c e.len s1 else body { c with em := em, rep := { rep with em := em } } (entryState c e s1)
      exec i s = .next (if hasActed c t then addPending t c.u { cause := 0x0A, level := 0, f := f, addr := 0, info := 0, rep := late } else t)) ∧
  ∀ (cls : BitVec 3) (w : W64) (s : State) (c : Ctx), mkCtx s (.unassignedOpcode cls w) 0 = some c →
    exec (.unassignedOpcode cls w) s = .next (raiseHere c 0x01 0 0 s)

/-! ## Decoding (R276 to R281, R297 to R305) -/

/-- R276 to R281, R297 to R305: words written out from the encoding tables decode to their instructions, one of each class and
form. -/
def Obligations.DecodedWords : Prop :=
  decodeInstr 0 0x1808000030100418 none =
    .fadd ⟨0x1, 0x2, 0x3, 0x0, false, false, false, 4, 0x18, none⟩ ∧
  decodeInstr 0 0x8000000000301401 (some 0x12345678) =
    .iadd ⟨0x5, 0x6, 0x0, 0x0, false, false, false, 0, 0x80, (some 0x12345678)⟩ ∧
  decodeInstr 0 0x0100395C10000017 none =
    .lea ⟨0x0, 0x0, 0x1c1, 0x1ca, false, false, false, 0, 0x1, none⟩ ∧
  decodeInstr 0 0x0808000000142429 none =
    .rdx ⟨0x109, 0x2, 0x0, 0x0, false, false, false, 4, 0x8, none⟩ ∧
  decodeInstr 1 0x0200000400401001 none =
    .ld ⟨0x4, 0x8, 0x40, false, false, false, 0, 0x2⟩ ∧
  decodeInstr 1 0x1200010030401002 none =
    .st ⟨0x4, 0x8, 0x1003, false, false, false, 0, 0x12⟩ ∧
  decodeInstr 1 0x100000003C00000C none =
    .fence ⟨0x0, 0x180, 0x3, false, false, false, 0, 0x10⟩ ∧
  decodeInstr 1 0x03041C602040280A none =
    .atom ⟨0xa, 0x8, 0x2, 3, 7, false, false, false, 2, 0x3, none⟩ ∧
  decodeInstr 3 0x00003FFFD8200003 none =
    .brnz ⟨0x0, 0x104, 0x3fffd, false, false, false, 0, 0x0, none⟩ ∧
  decodeInstr 3 0x000004303000000B none =
    .barrive ⟨0x0, 0x0, 0x4303, false, false, false, 0, 0x0, none⟩ ∧
  decodeInstr 3 0x000000000C000016 none =
    .tret ⟨0x0, 0x180, 0x0, 0x0, false, false, false, 0, 0x0, none⟩ ∧
  decodeInstr 4 0x0300001078341801 none =
    .sadd ⟨0x106, 0x106, 0x107, 0x0, false, false, false, 0, 0x3, none⟩ ∧
  decodeInstr 4 0x23000010581C100B none =
    .scmp ⟨0x104, 0x103, 0x105, 0x0, false, false, false, 0, 0x23, none⟩ ∧
  decodeInstr 4 0x0B000000385C3012 none =
    .sld ⟨0x10c, 0x10b, 0x3, false, false, false, 0, 0xb⟩ ∧
  decodeInstr 5 0x4A00000008342801 none =
    .tdesc ⟨0x10a, 0x106, 0x0, false, false, false, 0, 0x4a, none⟩ ∧
  decodeInstr 5 0x4100015058200007 none =
    .epi ⟨0x0, 0x104, 0x105, 0xa, false, false, false, 0, 0x41, none⟩ ∧
  decodeInstr 6 0x0400001C18902010 none =
    .nstore ⟨0x8, 0x112, 0x1c1, 0x0, false, false, false, 0, 0x4, none⟩ ∧
  decodeInstr 6 0x00000000080C1414 none =
    .vpin ⟨0x105, 0x101, 0x0, 0x0, false, false, false, 0, 0x0, none⟩ ∧
  decodeInstr 2 0x0000000000000400 none = .unassignedOpcode 2 0x400 ∧ decodeInstr 3 0x000000000000001D none = .unassignedOpcode 3 0x1D

/-- R276 to R281, R297 to R305: the words of every well-formed instruction decode to it, with the literal that follows where it
has one, and leave the words after it; every word, with a literal where its entry allows one, is encoded as it stands. -/
def Obligations.RoundTrip : Prop :=
  (∀ (i : Instr) (e : Encoded) (rest : List W64), i.wellFormed = true → encode i = some e →
    decodeWords e.cls (e.word :: (e.lit.toList ++ rest)) = .ok (i, rest)) ∧
  ∀ (cls : BitVec 3) (w : W64) (lit : Option W64), cls ≠ 7 → lit.isSome = takesLiteral cls w →
    encode (decodeInstr cls w lit) = some ⟨cls, w, lit⟩ ∧ (decodeInstr cls w lit).wellFormed = true

/-! ## Vector instructions (classes V and X) -/

/-- R346: IADD, ISUB, IMUL, IMULHI, IMAD, IMIN, IMAX and IABS write, to every lane of EM, the exact result of the lane's
operands reduced to the width of TYPE (saturated with SAT), and nothing else of the machine changes but the unit's place, its
issue port and the event counters. -/
def Obligations.VectorIntegerArithmetic : Prop :=
  ∀ (f : RForm) (i : Instr) (r : OpTy → Int → Int → Int → Int) (s s0 : State) (c : Ctx),
    (i, r) ∈ [(.iadd f, fun _ a b _ => a + b), (.isub f, fun _ a b _ => a - b), (.imul f, fun _ a b _ => a * b),
      (.imulhi f, fun t a b _ => a * b / 2 ^ t.w), (.imad f, fun _ a b k => a * b + k), (.imin f, fun _ a b _ => min a b),
      (.imax f, fun _ a b _ => max a b), (.iabs f, fun _ a _ _ => if a < 0 then -a else a)] →
    issued i s = some (c, s0) →
    UnitStep i s s0 c (VecWritten c.us c.lanes f.d.toNat fun l =>
      resultWords (rType f) ((rType f).reduce (mSat f.mod) (r (rType f) ((rType f).int (opnd s0 c f.a (rType f) l))
        ((rType f).int (opndLit s0 c f.b f.lit (rType f) l)) ((rType f).int (opnd s0 c f.c (rType f) l)))))

/-- R314, R346: an exact result is clamped to the range of the type with SAT, and is then taken modulo 2^w. -/
def Obligations.ResultReduction : Prop :=
  ∀ (t : OpTy) (r : Int), 0 < t.w →
    ((t.reduce false r : Nat) : Int) = r % 2 ^ t.w ∧
    (t.minInt ≤ r → r ≤ t.maxInt → t.int (t.reduce true r) = r ∧ t.int (t.reduce false r) = r) ∧
    (r < t.minInt → t.int (t.reduce true r) = t.minInt) ∧ (t.maxInt < r → t.int (t.reduce true r) = t.maxInt)

/-- R347, R365: the bit operations with two operands of TYPE, and MOV. R347, R348: shifts by the count in bits 7:0 of B,
extraction of the field at bits 7:0 with the length in bits 15:8 of B, insertion of the field that C names so, and the counts of
bits. -/
def Obligations.VectorBitsAndShifts : Prop :=
  (∀ (f : RForm) (i : Instr) (r : OpTy → Nat → Nat → Nat) (s s0 : State) (c : Ctx),
    (i, r) ∈ [(.andV f, fun _ a b => a &&& b), (.orV f, fun _ a b => a ||| b), (.xorV f, fun _ a b => a ^^^ b),
      (.notV f, fun t a _ => 2 ^ t.w - 1 - a), (.brev f, fun t a _ => bitReverse t.w a), (.mov f, fun _ a _ => a)] →
    issued i s = some (c, s0) →
    UnitStep i s s0 c (VecWritten c.us c.lanes f.d.toNat fun l =>
      resultWords (rType f) (r (rType f) (opnd s0 c f.a (rType f) l) (opndLit s0 c f.b f.lit (rType f) l)))) ∧
  (∀ (f : RForm) (s s0 : State) (c : Ctx),
    (∀ (i : Instr) (r : OpTy → Nat → Nat → Nat),
      (i, r) ∈ [(.shl f, fun t a b => if t.w ≤ b % 256 then 0 else a * 2 ^ (b % 256) % 2 ^ t.w),
        (.shr f, fun _ a b => a / 2 ^ (b % 256)), (.sar f, fun t a b => (signed t.w a / 2 ^ (b % 256) % 2 ^ t.w).toNat),
        (.bfe f, fun t a b => bitField t a (b % 256) (b / 256 % 256))] →
      issued i s = some (c, s0) →
      UnitStep i s s0 c (VecWritten c.us c.lanes f.d.toNat fun l =>
        resultWords (rType f) (r (rType f) (opnd s0 c f.a (rType f) l) (opndLit s0 c f.b f.lit n32 l)))) ∧
    (issued (.bfi f) s = some (c, s0) →
      UnitStep (.bfi f) s s0 c (VecWritten c.us c.lanes f.d.toNat fun l =>
        resultWords (rType f) (bitInsert (rType f).w (opnd s0 c f.a (rType f) l) (opndLit s0 c f.b f.lit (rType f) l)
          (opnd s0 c f.c n32 l % 256) (opnd s0 c f.c n32 l / 256 % 256)))) ∧
    (issued (.popc f) s = some (c, s0) →
      UnitStep (.popc f) s s0 c (VecWritten c.us c.lanes f.d.toNat fun l =>
        [BitVec.ofNat 32 ((List.range (rType f).w).countP fun k => (opnd s0 c f.a (rType f) l).testBit k)])) ∧
    (issued (.clz f) s = some (c, s0) →
      UnitStep (.clz f) s s0 c (VecWritten c.us c.lanes f.d.toNat fun l =>
        [BitVec.ofNat 32 (if opnd s0 c f.a (rType f) l = 0 then (rType f).w
          else (rType f).w - 1 - (opnd s0 c f.a (rType f) l).log2)])))

/-- R349: ICMP and FCMP write the outcome of the comparison: bit l of a scalar D for each lane l of EM with every other bit 0,
or 1 and 0 in the lanes of a vector D. -/
def Obligations.VectorComparisons : Prop :=
  ∀ (f : RForm) (i : Instr) (p : OpTy → Nat → Nat → Bool) (s s0 : State) (c : Ctx),
    (i, p) ∈ [(.icmp f, fun t a b => ccInt (bits f.mod 4 3) (t.int a) (t.int b)),
      (.fcmp f, fun t a b => ccFloat (bits f.mod 4 3) (valueOf t.ff a) (valueOf t.ff b))] →
    issued i s = some (c, s0) →
    let holds : Nat → Bool := fun l => p (rType f) (opnd s0 c f.a (rType f) l) (opndLit s0 c f.b f.lit (rType f) l)
    UnitStep i s s0 c (if f.d.toNat < 0x100 then VecWritten c.us c.lanes f.d.toNat fun l => [if holds l then 1 else 0]
      else SclWritten c.us (f.d.toNat - 0x100) (maskOf (c.lanes.filter holds)))

/-- R350: SEL chooses a where the selector holds and b elsewhere; FCLASS writes one bit of the class number; FSEL chooses b
where the class of a is named by bits 9:0 of C. R351, R365: LEA writes (a + idx × 2^s) mod 2^64 into an even pair; MOVI its
immediate; MOVS a scalar into every lane of EM, or the lowest lane of EM into a scalar register. -/
def Obligations.VectorSelectionAndMoves : Prop :=
  (∀ (f : RForm) (s s0 : State) (c : Ctx),
    (issued (.sel f) s = some (c, s0) →
      UnitStep (.sel f) s s0 c (VecWritten c.us c.lanes f.d.toNat fun l =>
        if (if f.c.toNat < 0x100 then decide (c.us.vreg f.c.toNat l ≠ 0)
            else if f.c.toNat < 0x180 then (c.us.sreg (f.c.toNat - 0x100)).getLsbD l
            else (special s0 c f.c l).getLsbD l) then copyWords s0 c f.a none (rType f) l
        else copyWords s0 c f.b f.lit (rType f) l)) ∧
    (issued (.fclass f) s = some (c, s0) →
      UnitStep (.fclass f) s s0 c (VecWritten c.us c.lanes f.d.toNat fun l =>
        [BitVec.ofNat 32 (2 ^ classOf (rType f).ff (opnd s0 c f.a (rType f) l))])) ∧
    (issued (.fsel f) s = some (c, s0) →
      UnitStep (.fsel f) s s0 c (VecWritten c.us c.lanes f.d.toNat fun l =>
        [BitVec.ofNat 32 (if (opnd s0 c f.c n32 l).testBit (classOf (rType f).ff (opnd s0 c f.a (rType f) l))
          then opnd s0 c f.b (rType f) l else opnd s0 c f.a (rType f) l)]))) ∧
  (∀ (s s0 : State) (c : Ctx),
    (∀ f : RForm, issued (.lea f) s = some (c, s0) →
      UnitStep (.lea f) s s0 c (VecWritten c.us c.lanes f.d.toNat fun l =>
        words32 2 (((opnd s0 c f.a ⟨64, 1, false, none⟩ l : Int) +
          (rType f).int (opndLit s0 c f.b f.lit n32 l) * 2 ^ (opnd s0 c f.c n32 l % 64)) % 2 ^ 64).toNat)) ∧
    (∀ f : IForm, issued (.movi f) s = some (c, s0) →
      UnitStep (.movi f) s s0 c (VecWritten c.us c.lanes f.d.toNat fun _ =>
        words32 (if mType f.mod = 2 ∨ mType f.mod = 3 then 2 else 1) (immS f).toNat)) ∧
    (∀ f : RForm, issued (.movs f) s = some (c, s0) →
      UnitStep (.movs f) s s0 c (if 0x100 ≤ f.d.toNat
        then SclWritten c.us (f.d.toNat - 0x100) ((rType f).extend (opnd s0 c f.a (rType f) (c.lanes.headD 0)))
        else VecWritten c.us c.lanes f.d.toNat fun l => words32 (rType f).regs (opnd s0 c f.a (rType f) l))))

/-- R352, R353: FADD, FSUB, FMUL, FFMA and FRND give in every element the exact result rounded once under RM, under the policy
on results. R366: the instructions of class X give in every element the function's result, under the policy on results. -/
def Obligations.VectorFloatResults : Prop :=
  (∀ (f : RForm) (i : Instr) (r : Mode → Machine.Num → Machine.Num → Machine.Num → Machine.Num) (s s0 : State) (c : Ctx),
    (i, r) ∈ [(.fadd f, fun m a b _ => a.add m b), (.fsub f, fun m a b _ => a.add m b.neg), (.fmul f, fun _ a b _ => a.mul b),
      (.ffma f, fun m a b k => (a.mul b).add m k), (.frnd f, fun m a _ _ => roundIntegral m a)] →
    issued i s = some (c, s0) →
    FloatStep i s s0 c f.d
      (fun l => (List.range (rType f).els).map fun j =>
        let v : Nat → Machine.Num := fun x => valueOf (rType f).ff ((rType f).elem j x)
        ((rType f).ff, roundTo (rType f).ff (r (modeOf (mRm f.mod)) (v (opnd s0 c f.a (rType f) l))
          (v (opndLit s0 c f.b f.lit (rType f) l)) (v (opnd s0 c f.c (rType f) l))) (modeOf (mRm f.mod))))
      (fun es => [BitVec.ofNat 32 ((rType f).join es)])) ∧
  (∀ (f : RForm) (i : Instr) (op : SpecialOp) (s s0 : State) (c : Ctx),
    (i, op) ∈ [(.rcp f, .rcp), (.rsq f, .rsq), (.sqrt f, .sqrt), (.exp2 f, .exp2), (.log2 f, .log2), (.sin f, .sin),
      (.cos f, .cos), (.tanh f, .tanh), (.sigm f, .sigm)] →
    issued i s = some (c, s0) →
    FloatStep i s s0 c f.d
      (fun l => (List.range (rType f).els).map fun j =>
        ((rType f).ff, specialFn op (rType f).ff (modeOf (mRm f.mod)) ((rType f).elem j (opnd s0 c f.a (rType f) l))))
      (fun es => [BitVec.ofNat 32 ((rType f).join es)]))

/-- R354: FMIN and FMAX copy the bits of the operand they choose; only the NaN of two NaNs is a result, which passes the policy,
and under policy 2 raises cause 0x10 before anything is written. R359: DOT4 adds four byte products to C for the integer types,
and rounds the exact sum of two products and an F32 accumulator once for the packed ones. -/
def Obligations.MinMaxAndDotProduct : Prop :=
  (∀ (f : RForm) (i : Instr) (isMax : Bool) (s s0 : State) (c : Ctx),
    (i, isMax) ∈ [(.fmin f, false), (.fmax f, true)] → issued i s = some (c, s0) →
    let res : Nat → List (Nat × Bool) := fun l => (List.range (rType f).els).map fun j =>
      minMaxCode isMax (rType f).ff ((rType f).elem j (opnd s0 c f.a (rType f) l))
        ((rType f).elem j (opndLit s0 c f.b f.lit (rType f) l))
    (c.launch.nfpol = 2 → (∃ l ∈ c.lanes, ∃ p ∈ res l, p.2 = true) → exec i s = .next (raiseHere c 0x10 0 0 s0)) ∧
    ((c.launch.nfpol ≠ 2 ∨ ∀ l ∈ c.lanes, ∀ p ∈ res l, p.2 = false) →
      UnitStep i s s0 c (VecWritten c.us c.lanes f.d.toNat fun l =>
        [BitVec.ofNat 32 ((rType f).join ((res l).map fun p =>
          if p.2 then policy c.launch.nfpol (rType f).ff p.1 else p.1))]))) ∧
  (∀ (f : RForm) (s s0 : State) (c : Ctx), issued (.dot4 f) s = some (c, s0) →
    (mType f.mod = 6 ∨ mType f.mod = 7 →
      let t : OpTy := ⟨32, 1, decide (mType f.mod = 6), none⟩
      UnitStep (.dot4 f) s s0 c (VecWritten c.us c.lanes f.d.toNat fun l =>
        [t.extend32 (t.reduce (mSat f.mod) (dotInt t.sgn (opnd s0 c f.a n32 l) (opndLit s0 c f.b f.lit n32 l)
          (t.int (opnd s0 c f.c t l))))])) ∧
    (mType f.mod = 11 ∨ mType f.mod = 12 →
      FloatStep (.dot4 f) s s0 c f.d
        (fun l =>
          let m := modeOf (mRm f.mod)
          let v : Nat → Nat → Machine.Num := fun x j => valueOf (rType f).ff ((rType f).elem j x)
          let a := opnd s0 c f.a (rType f) l
          let b := opndLit s0 c f.b f.lit (rType f) l
          [(.f32, roundTo .f32 (((valueOf .f32 (opnd s0 c f.c ⟨32, 1, true, some .f32⟩ l)).add m
            ((v a 0).mul (v b 0))).add m ((v a 1).mul (v b 1))) m)])
        (fun es => es.map (BitVec.ofNat 32))))

/-- R185 to R188, R355 to R358: the conversions between formats round each value once, under the policy on results. CVT converts
one value; SRND rounds with the hash of the key and the lane; PACK and UNPACK convert each element; DQBLK rounds the value of a
block element. R187, R358: QBLK quantises each block of 32 lanes that holds a lane of EM; a lane outside EM supplies +0. Each
lane of EM receives its element and the block's scale; under policy 2 a block that cannot be quantised raises cause 0x10. -/
def Obligations.FormatConversions : Prop :=
  (∀ (f : RForm) (s s0 : State) (c : Ctx),
    (∀ df sf : Fmt, cvDst f = some (.num df) → cvSrc f = some (.num sf) → issued (.cvt f) s = some (c, s0) →
      FloatStep (.cvt f) s s0 c f.d
        (fun l => [(df, convert df sf (modeOf (cvRm f)) (mSat f.mod) (opnd s0 c f.a sf.opTy l))])
        (fun es => df.place (es.headD 0))) ∧
    (∀ (df : Fmt) (n : Nat),
      ((cvDst f = some (.num df) ∧ (df = .f16 ∨ df = .bf16 ∨ df = .e2m1 ∨ ∃ p g x, df = .b8 p g x) ∧ n = 1) ∨
        (cvDst f = some (.packed df) ∧ n = 2)) →
      issued (.srnd f) s = some (c, s0) →
      FloatStep (.srnd f) s s0 c f.d
        (fun l => (List.range n).map fun i => (df, srndTo df
          (valueOf .f32 (f32Pair s0 c f.a n l / 2 ^ (32 * i) % 2 ^ 32))
          (srndHash (BitVec.ofNat 32 (opndLit s0 c f.b f.lit n32 l)) (laneKey c l) i)))
        (fun es => [BitVec.ofNat 32 (es.foldr (fun x acc => x + acc * 2 ^ 16) 0)])) ∧
    (∀ (df sf : Fmt) (n : Nat), packRow f = some (df, sf, n) → issued (.pack f) s = some (c, s0) →
      FloatStep (.pack f) s s0 c f.d
        (fun l => [f.a, f.b].flatMap fun r => (List.range n).map fun i =>
          (df, convert df sf (modeOf (cvRm f)) (mSat f.mod)
            (packSource s0 c sf r n l / 2 ^ (32 * i) % 2 ^ 32)))
        (fun es => [BitVec.ofNat 32 (es.foldr (fun x acc => x + acc * 2 ^ df.width) 0)])) ∧
    (∀ (df sf : Fmt) (n : Nat), unpackRow f = some (df, sf, n) → issued (.unpack f) s = some (c, s0) →
      FloatStep (.unpack f) s s0 c f.d
        (fun l => (List.range n).map fun i =>
          (df, convert df sf .rne false (unpackSource s0 c sf f.a n l / 2 ^ (sf.width * i) % 2 ^ sf.width)))
        (fun es => es.map (BitVec.ofNat 32))) ∧
    (∀ (df : Fmt) (mx : Bool), cvDst f = some (.num df) → cvSrc f = some (if mx then .mxi8 else .mxf4) →
      issued (.dqblk f) s = some (c, s0) →
      FloatStep (.dqblk f) s s0 c f.d
        (fun l => [(df, roundTo df (blockValue mx (opnd s0 c f.b (Fmt.opTy .e8m0) l)
          (opnd s0 c f.a (if mx then Fmt.opTy (.int 8 true) else Fmt.opTy .e2m1) l)) (modeOf (cvRm f)))])
        (fun es => [BitVec.ofNat 32 (es.headD 0)]))) ∧
  (∀ (f : RForm) (mx : Bool) (src : Fmt) (s s0 : State) (c : Ctx),
    cvDst f = some (if mx then .mxi8 else .mxf4) → cvSrc f = some (.num src) → issued (.qblk f) s = some (c, s0) →
    let block : Nat → Option (Nat × List Nat) := fun l => quantise c.launch.nfpol mx (blockCodes s0 c f.a src (l / 32))
    ((∃ l ∈ c.lanes, block l = none) → exec (.qblk f) s = .next (raiseHere c 0x10 0 0 s0)) ∧
    ((∀ l ∈ c.lanes, (block l).isSome) →
      UnitStep (.qblk f) s s0 c (VecWritten c.us c.lanes f.d.toNat fun l =>
        let b := (block l).getD (0, [])
        let code := b.2.getD (l % 32) 0
        [if mx then BitVec.ofInt 32 (signed 8 code) else BitVec.ofNat 32 code, BitVec.ofNat 32 b.1])))

/-- R361, R362, R364: SHFL reads the lane that MODE, SEG and B choose, or its own where that lane is not in EM; VOTE tests the
lanes of EM; BCAST copies one lane, in EM or not. Where R7 leaves a dead lane's value open, BCAST writes the model's free value
(log 2). R190, R363: RDX combines the lanes of EM in the tree order, into every lane of EM or a scalar register; SCAN gives each
lane the combination of the positions up to it, or below it with C bit 37. Under policy 2 a non-finite combination raises cause
0x10. -/
def Obligations.LaneOperations : Prop :=
  (∀ (f : RForm) (s s0 : State) (c : Ctx),
    (issued (.shfl f) s = some (c, s0) →
      UnitStep (.shfl f) s s0 c (VecWritten c.us c.lanes f.d.toNat fun l =>
        let n := if bits f.c 0 3 = 0 then c.w else 2 ^ bits f.c 0 3
        let q := l - l % n
        let b := opndLit s0 c f.b f.lit n32 l
        let k := match modeField f with
          | 0 => q + b % n
          | 1 => if l < q + b then l else l - b
          | 2 => if q + n ≤ l + b then l else l + b
          | _ => q + (l % n ^^^ b % n)
        resultWords (rType f) (opnd s0 c f.a (rType f) (if c.em.getLsbD k then k else l)))) ∧
    (issued (.vote f) s = some (c, s0) →
      let v : Nat → Nat := opnd s0 c f.a (rType f)
      UnitStep (.vote f) s s0 c (SclWritten c.us (f.d.toNat - 0x100) (match modeField f with
        | 0 => if ∀ l ∈ c.lanes, v l ≠ 0 then 1 else 0
        | 1 => if ∃ l ∈ c.lanes, v l ≠ 0 then 1 else 0
        | 2 => if ∀ l ∈ c.lanes, ∀ k ∈ c.lanes, v l = v k then 1 else 0
        | _ => maskOf (c.lanes.filter fun l => v l ≠ 0)))) ∧
    (issued (.bcast f) s = some (c, s0) →
      let k := (sval s0 c f.b).toNat % 2 ^ 32 % c.w
      let alive := c.u.grp.getD 0 * c.w + k < c.launch.tx * c.launch.ty * c.launch.tz ∨ (0x100 ≤ f.a.toNat ∧ f.a ≠ 0x182)
      UnitStep (.bcast f) s (if alive then s0 else (s0.draw 64).2) c (VecWritten c.us c.lanes f.d.toNat fun _ =>
        words32 (rType f).regs (if alive then opnd s0 c f.a (rType f) k else (s0.draw 64).1.toNat % 2 ^ (rType f).w)))) ∧
  (∀ (f : RForm) (s s0 : State) (c : Ctx),
    let t := rType f
    let op := rdxCombine c.launch.nfpol t (modeField f)
    let own := rdxIdentity t (modeField f)
    (issued (.rdx f) s = some (c, s0) →
      let r := (treeReduce op (clog2 c.w) (rdxPositions s0 c f)).getD (own, false)
      (r.2 = true → exec (.rdx f) s = .next (raiseHere c 0x10 0 0 s0)) ∧
      (r.2 = false → UnitStep (.rdx f) s s0 c (if 0x100 ≤ f.d.toNat
        then SclWritten c.us (f.d.toNat - 0x100) (if t.fmt.isSome then BitVec.ofNat 64 r.1 else t.extend r.1)
        else VecWritten c.us c.lanes f.d.toNat fun _ => resultWords t r.1))) ∧
    (issued (.scan f) s = some (c, s0) →
      let v := (List.range (clog2 c.w)).foldl (fun v j => scanStep op (2 ^ j) v) (rdxPositions s0 c f)
      let upTo : Nat → Nat := fun l => ((v.getD l none).getD (own, false)).1
      ((∃ p ∈ v, p.any (·.2)) → exec (.scan f) s = .next (raiseHere c 0x10 0 0 s0)) ∧
      ((∀ p ∈ v, p.any (·.2) = false) → UnitStep (.scan f) s s0 c (VecWritten c.us c.lanes f.d.toNat fun l =>
        resultWords t (if f.c = 0 then upTo l else if l = 0 then own else upTo (l - 1))))))

/-! ## Scalar and control instructions (class S) -/

/-- R313, R314: the scalar instructions write the exact result of the low w bits of their operands, reduced to w bits and
extended to 64. That SSEL tests all 64 bits of A is the model's reading (log 21). -/
def Obligations.ScalarArithmetic : Prop :=
  (∀ (f : RForm) (i : Instr) (r : OpTy → W64 → W64 → W64 → Int) (s s0 : State) (c : Ctx),
    let n : W64 → Nat := fun b => b.toNat % 256
    let v : OpTy → W64 → Int := fun t a => t.int (a.toNat % 2 ^ t.w)
    (i, r) ∈ [(.sadd f, fun t a b _ => v t a + v t b), (.ssub f, fun t a b _ => v t a - v t b),
      (.smul f, fun t a b _ => v t a * v t b), (.sand f, fun _ a b _ => (a &&& b).toNat), (.sor f, fun _ a b _ => (a ||| b).toNat),
      (.sxor f, fun _ a b _ => (a ^^^ b).toNat), (.snot f, fun _ a _ _ => (~~~a).toNat),
      (.sandn f, fun _ a b _ => (a &&& ~~~b).toNat), (.sshl f, fun t a b _ => if t.w ≤ n b then 0 else v t a * 2 ^ n b),
      (.sshr f, fun t a b _ => v t a / 2 ^ n b),
      (.scmp f, fun t a b _ => if ccInt (bits f.mod 4 3) (v t a) (v t b) then 1 else 0),
      (.ssel f, fun t a b k => if a ≠ 0 then v t b else v t k),
      (.spopc f, fun t a _ _ => (((List.range t.w).countP fun k => a.getLsbD k : Nat) : Int)),
      (.sffs f, fun t a _ _ => ((((List.range t.w).find? fun k => a.getLsbD k).getD t.w : Nat) : Int)),
      (.smov f, fun t a _ _ => v t a)] →
    issued i s = some (c, s0) →
    UnitStep i s s0 c (SclWritten c.us (f.d.toNat - 0x100) (scalarValue (scalarTy f) (mSat f.mod && bits f.mod 4 3 = 4)
      (r (scalarTy f) (sval s0 c f.a) (svalLit s0 c f.b f.lit) (sval s0 c f.c))))) ∧
  ∀ (f : IForm) (t : OpTy) (s s0 : State) (c : Ctx), tyOf (mType f.mod) = some t → issued (.smovi f) s = some (c, s0) →
    UnitStep (.smovi f) s s0 c (SclWritten c.us (f.d.toNat - 0x100)
      (scalarValue t false (t.int ((f.lit.getD (f.imm.signExtend 64)).toNat % 2 ^ t.w))))

/-- R319, R320, R324: branches continue at the clause header of their own clause plus 8 × IMM18; CALL writes the address of the
clause after its own into the link; RET continues at the value of A, or raises cause 0x01 when the lanes of X differ. NOP, YIELD
and WAITFE only move on. R114, R321, R322: SPLIT and a CALLI whose lanes all enter open a region and form sub-groups: one for
each of the first four distinct targets in the order of the lowest lane, with exactly the lanes that name it; the other lanes of
EM are the residue; a handler's code forms them as the group's own stream does. CALLI also writes 1 into the link pair. With a
region open both raise cause 0x01; that a handler's do so while a residue waits is the model's reading (log 73). -/
def Obligations.ControlFlow : Prop :=
  (∀ (s s0 : State) (c : Ctx),
    let th := c.us.thread c.slot
    let target : IForm → Nat := fun f => (((th.pc : Int) + 8 * f.imm.toInt) % 2 ^ 64).toNat
    (∀ f : IForm, issued (.bra f) s = some (c, s0) → UnitStep (.bra f) s s0 c (AtClause c (target f))) ∧
    (∀ (f : IForm) (i : Instr) (zero : Bool), (i, zero) ∈ [(.brz f, true), (.brnz f, false)] → issued i s = some (c, s0) →
      let v := if f.mod = 1 then sval s0 c f.a &&& c.x else sval s0 c f.a
      UnitStep i s s0 c (if decide (v = 0) = zero then AtClause c (target f) else AtNext c 1)) ∧
    (∀ f : IForm, issued (.call f) s = some (c, s0) → ∃ u, exec (.call f) s = .next u ∧ OnlyUnit c.u s0 u ∧
      ∃ v, u.unit? c.u = some v ∧ (c.us.hasStream c.slot → v.thread c.slot = Thread.at (target f) th.lastIssue) ∧
        if f.a.toNat < 0x100 then VecWritten c.us (lanesOf c.w c.x) f.a.toNat (fun _ => words32 2 th.nextPc) v
        else SclWritten c.us (f.a.toNat - 0x100) (BitVec.ofNat 64 th.nextPc) v) ∧
    (∀ f : RForm, issued (.ret f) s = some (c, s0) →
      let ls := lanesOf c.w c.x
      let vec := decide (f.a.toNat < 0x100)
      let v := if vec then pairOf c.us f.a.toNat (ls.headD 0) else (sval s0 c f.a).toNat
      (vec = true → (∃ l ∈ ls, pairOf c.us f.a.toNat l ≠ v) → exec (.ret f) s = .next (raiseHere c 0x01 0 0 s0)) ∧
      ((vec = true → ∀ l ∈ ls, pairOf c.us f.a.toNat l = v) → ¬(v = 1 ∧ c.us.inRegion = true ∧ c.us.region.kind = true) →
        UnitStep (.ret f) s s0 c (AtClause c v))) ∧
    ∀ (f : RForm) (i : Instr), i ∈ [.nop f, .yield f, .waitfe f] → issued i s = some (c, s0) → UnitStep i s s0 c (AtNext c 1)) ∧
  (∀ (s s0 : State) (c : Ctx),
    let formed : Bool → BitVec 9 → Nat → UnitState → Prop := fun kind a join u =>
      let target : Nat → Nat := pairOf c.us a.toNat
      let ds := (c.lanes.map target).eraseDups
      u.region.isOpen = true ∧ u.region.kind = kind ∧ u.region.join = join ∧
      u.region.emask = (if c.us.region.emask = 0 then c.x else c.us.region.emask) ∧
      u.region.subs.map (fun g => (g.th.pc, g.arr, g.xmask)) =
        (ds.take 4).map (fun d => (d, false, maskOf (c.lanes.filter fun l => target l = d))) ∧
      u.region.resid = maskOf (c.lanes.filter fun l => target l ∉ ds.take 4) ∧ u.region.byHandler = c.inHandler ∧
      u.xOf c.slot = c.us.xOf c.slot ∧ (u.thread c.slot).run = false
    (∀ i : Instr, (∃ f, i = .split f) ∨ (∃ f, i = .calli f) → issued i s = some (c, s0) → c.nested = true →
      exec i s = .next (raiseHere c 0x01 0 0 s0)) ∧
    (∀ f : IForm, issued (.split f) s = some (c, s0) → c.nested = false → c.slot = 0 ∨ c.slot = 5 →
      UnitStep (.split f) s s0 c fun u =>
        formed false f.a (((((c.us.thread c.slot).pc : Int) + 8 * f.imm.toInt) % 2 ^ 64).toNat) u ∧ u.vregs = c.us.vregs ∧ u.sregs = c.us.sregs) ∧
    (∀ (f : RForm) (rs : List (Nat × WordAns)) (s1 : State), issued (.calli f) s = some (c, s0) →
      c.nested = false → c.slot = 0 ∨ c.slot = 5 → acquiring s0 c.u = false → calleeBudgets c (pairOf c.us f.a.toNat) s0 = (rs, s1) →
      (∀ p ∈ rs, (∃ w, p.2 = .word w) ∧ overBudget c p.2 = false) →
      UnitStep (.calli f) s (endProbe s1 c.u c.rep) c fun u =>
        formed true f.a (c.us.thread c.slot).nextPc u ∧ u.sregs = c.us.sregs ∧
        ∀ r l, l < 64 → u.vreg r l =
          if l ∈ c.lanes ∧ r = f.d.toNat then 1 else if l ∈ c.lanes ∧ r = f.d.toNat + 1 then 0 else c.us.vreg r l))

/-- R115, R116, R320, R322: JOIN, and a RET of the value 1 in a CALLI region, make the sub-group arrive. The last arrival closes
the region: the residue runs the instruction again with X = RESID, or the stream that opened the region, the group's or its
handler's, continues at the join with X = EMASK. A JOIN with no region of KIND 0 of its own raises cause 0x01. R323: EXIT takes
the lanes of EM out of the group; when none remains, in handler mode and in the caller, the unit has exited. A sub-group that
loses its last lane while others remain has arrived (R115), and the last arrival closes the region as above; nothing but the unit
changes, and it keeps its registers. -/
def Obligations.ArrivalAndExit : Prop :=
  (∀ (s s0 : State) (c : Ctx) (i : Instr) (kind : Bool) (g : SubGroup),
    ((∃ f, i = .join f) ∧ kind = false ∨ ∃ f : RForm, i = .ret f ∧ kind = true ∧
      (if f.a.toNat < 0x100 then pairOf c.us f.a.toNat ((lanesOf c.w c.x).headD 0) = 1 ∧ ∀ l ∈ lanesOf c.w c.x, pairOf c.us f.a.toNat l = 1
        else sval s0 c f.a = 1)) →
    issued i s = some (c, s0) →
    (kind = false → (c.us.inRegion = false ∨ c.us.region.kind = true) → exec i s = .next (raiseHere c 0x01 0 0 s0)) ∧
    (c.us.inRegion = true → c.us.region.kind = kind → c.us.region.subs[subIdx c.slot]? = some g →
      let others := c.us.region.subs.eraseIdx (subIdx c.slot)
      let own := if c.us.region.byHandler then 5 else 0
      ((∃ h ∈ others, h.arr = false) →
        UnitStep i s s0 c fun u => u.region.isOpen = true ∧ (u.region.subs[subIdx c.slot]?).map (·.arr) = some true ∧
          u.region.subs.eraseIdx (subIdx c.slot) = others ∧ u.vregs = c.us.vregs ∧ u.sregs = c.us.sregs ∧ u.x = c.us.x) ∧
      ((∀ h ∈ others, h.arr = true) → c.us.region.resid ≠ 0 →
        UnitStep i s s0 c fun u => u.region.isOpen = false ∧ u.region.subs = [] ∧ u.xOf own = c.us.region.resid ∧
          u.override.map (·.em) = some c.us.region.resid ∧ u.vregs = c.us.vregs ∧ u.sregs = c.us.sregs) ∧
      ((∀ h ∈ others, h.arr = true) → c.us.region.resid = 0 → (kind = true → c.us.region.bmask = 0) →
        UnitStep i s s0 c fun u => u.region.isOpen = false ∧ u.region.subs = [] ∧ u.region.emask = 0 ∧ u.xOf own = c.us.region.emask ∧
          (u.thread own).pc = c.us.region.join ∧ u.vregs = c.us.vregs ∧ u.sregs = c.us.sregs))) ∧
  (∀ (f : RForm) (s s0 : State) (c : Ctx), issued (.exit f) s = some (c, s0) →
    let whole := c.caller = true ∨ 5 ≤ c.slot
    let emask := c.us.region.emask &&& ~~~c.em
    let left := if emask ≠ 0 ∧ c.us.region.byHandler = false then emask else c.us.x &&& ~~~c.em
    ∃ t, exec (.exit f) s = .next t ∧
      (whole ∨ left = 0 ∨ c.us.region.isOpen = false ∨ c.us.xOf c.slot &&& ~~~c.em ≠ 0 →
        (∀ q, q ≠ c.u → t.unit? q = s0.unit? q) ∧ t.mem.hbm = s0.mem.hbm ∧ t.mem.msc = s0.mem.msc ∧
        ∃ u, t.unit? c.u = some u ∧ u.vregs = c.us.vregs ∧ u.sregs = c.us.sregs ∧
          (whole ∨ left = 0 → u.exited = true ∧ u.x = 0) ∧
          (¬whole → left ≠ 0 → u.exited = c.us.exited ∧ u.x = c.us.x &&& ~~~c.em ∧ u.region.emask = emask ∧
            u.region.resid = c.us.region.resid &&& ~~~c.em ∧
            u.region.subs.map (·.xmask) = c.us.region.subs.map fun g => g.xmask &&& ~~~c.em)) ∧
      (¬whole → left ≠ 0 → c.us.region.isOpen = true → c.us.region.byHandler = false →
        (c.us.region.subs[subIdx c.slot]?).isSome = true → c.us.xOf c.slot &&& ~~~c.em = 0 →
        let others := (c.us.region.subs.eraseIdx (subIdx c.slot)).map fun h => h.arr || decide (h.xmask &&& ~~~c.em = 0)
        let resid := c.us.region.resid &&& ~~~c.em
        (∀ j ∈ others, j = true) → resid = 0 → c.us.region.kind = true → c.us.region.bmask &&& ~~~c.em = 0) →
      (¬whole → left ≠ 0 → c.us.region.isOpen = true → c.us.region.byHandler = false →
        (c.us.region.subs[subIdx c.slot]?).isSome = true → c.us.xOf c.slot &&& ~~~c.em = 0 →
        let others := (c.us.region.subs.eraseIdx (subIdx c.slot)).map fun h => h.arr || decide (h.xmask &&& ~~~c.em = 0)
        let resid := c.us.region.resid &&& ~~~c.em
        (∀ q, q ≠ c.u → t.unit? q = s0.unit? q) ∧ t.mem.hbm = s0.mem.hbm ∧ t.mem.msc = s0.mem.msc ∧
        ∃ u, t.unit? c.u = some u ∧ u.vregs = c.us.vregs ∧ u.sregs = c.us.sregs ∧ u.exited = c.us.exited ∧
          (false ∈ others → u.region.isOpen = true ∧ (u.region.subs[subIdx c.slot]?).map (·.arr) = some true ∧ u.x = c.us.x &&& ~~~c.em) ∧
          (false ∉ others → resid ≠ 0 → u.region.isOpen = false ∧ u.region.subs = [] ∧ u.x = resid ∧ u.override.map (·.em) = some resid) ∧
          (false ∉ others → resid = 0 → u.region.isOpen = false ∧ u.region.subs = [] ∧ u.region.emask = 0 ∧ u.x = emask ∧
            u.main.pc = c.us.region.join)))

/-- R120, R332, R335, R337: TRAP takes cause 0x14 through the handler table: entry 0x14 of a group, 0x94 of the caller. The unit
continues at the entry's clause in handler mode, with TINFO, TADDR, TPC and TMASK written and X the handler's mask; an entry of
0 ends the team. R122, R332: TRET ends handler mode. After a lane-level trap the instruction is issued again for F ∧ P; after
cause 0x14, or with SKIP set, the stream stands after the trapped instruction; otherwise at it. A SPLIT or CALLI of the residue
that is skipped rejoins (log 73). An instruction whose cause came after its issue (R183, R227) is issued again in issue order, as the
next or behind earlier ones, and stays passed over with SKIP set. That TPC counts words from the first after the header is the
model's reading (log 45). -/
def Obligations.TrapEntryAndReturn : Prop :=
  (∀ (f : IForm) (s s0 : State) (c : Ctx), issued (.trap f) s = some (c, s0) → c.us.exited = false → c.us.handler = none →
    (∀ (pc : Nat) (s1 : State), readHtab s0 c.u 0x14 = (.entry pc, s1) →
      ∃ t u, exec (.trap f) s = .next t ∧ t.unit? c.u = some u ∧ (∀ q, q ≠ c.u → t.unit? q = s1.unit? q) ∧
        t.mem = (dropProbes s1 fun q => q = c.u).mem ∧
        u.vregs = c.us.vregs ∧ u.sregs = c.us.sregs ∧
        (u.handler.map fun h => (h.th.pc, h.x)) = some (pc, if c.caller then 1 else
          if c.rep.instr.isSome then c.us.xOf c.slot else c.us.union) ∧
        u.tinfo.toNat = 0x14 + (if c.caller then 3 else 1) * 2 ^ 8 + f.imm.toNat * 2 ^ 24 ∧ u.taddr = 0 ∧
        u.tpc.toNat = c.rep.pc % 2 ^ 57 + (c.rep.idx - 1) % 16 * 2 ^ 57 ∧
        u.tmask = if c.caller then 0 else if c.rep.instr.isSome then c.us.xOf c.slot else c.us.union) ∧
    (∀ s1 : State, readHtab s0 c.u 0x14 = (.zero, s1) → ∃ t, exec (.trap f) s = .next t ∧
      (t.team? c.u.team).map (·.life) = some .ended ∧ (t.team? c.u.team).map (·.fatal) = some true)) ∧
  (∀ (f : RForm) (s s0 : State) (c : Ctx) (h : Handler), issued (.tret f) s = some (c, s0) → c.us.handler = some h →
    let region := c.us.region
    let skip := c.us.tinfo.getLsbD 15 = true ∨ h.trap.cause = 0x14
    let residue := region.isOpen = false ∧ region.byHandler = false ∧ region.emask ≠ 0 ∧ h.slot = 0 ∧
      ((∃ g, h.trap.rep.instr = some (.split g)) ∨ ∃ g, h.trap.rep.instr = some (.calli g))
    let late := (c.caller = true ∨ h.trap.level = 1) ∧ h.trap.rep.acc.isSome = true
    let behind := ∃ o ∈ c.us.replays, ∃ a b, o.acc = some a ∧ h.trap.rep.acc = some b ∧ a < b
    (late → ∃ t u, exec (.tret f) s = .next t ∧ t.unit? c.u = some u ∧ u.handler = none ∧ u.vregs = c.us.vregs ∧ u.sregs = c.us.sregs ∧
      u.x = c.us.x ∧ u.main = c.us.main ∧
      (c.us.tinfo.getLsbD 15 = false → (∀ q, q ≠ c.u → t.unit? q = s0.unit? q) ∧
        (¬behind → u.override = some h.trap.rep) ∧ (behind → h.trap.rep ∈ u.replays))) ∧
    (¬late → residue → h.trap.level ≠ 0 → skip → (region.kind = true → region.bmask = 0) →
      ∃ t u, exec (.tret f) s = .next t ∧ t.unit? c.u = some u ∧ (∀ q, q ≠ c.u → t.unit? q = s0.unit? q) ∧
        u.handler = none ∧ u.vregs = c.us.vregs ∧ u.sregs = c.us.sregs ∧ u.x = region.emask ∧ u.region.emask = 0 ∧ u.main.pc = region.join) ∧
    (¬late → ¬residue → ∃ t u, exec (.tret f) s = .next t ∧ t.unit? c.u = some u ∧ (∀ q, q ≠ c.u → t.unit? q = s0.unit? q) ∧
      u.handler = none ∧ u.vregs = c.us.vregs ∧ u.sregs = c.us.sregs ∧ u.x = c.us.x ∧
      (c.caller = false → h.trap.level = 0 → h.trap.f &&& sval s0 c f.a ≠ 0 → (∀ g, h.trap.rep.instr ≠ some (.calli g)) →
        h.trap.rep.instr ≠ none → u.override = some { h.trap.rep with em := h.trap.f &&& sval s0 c f.a }) ∧
      (h.trap.level ≠ 0 → c.us.override = none → h.trap.rep.instr ≠ none → h.slot = 0 →
        let th := c.us.main
        let n := if takesLiteral th.header.cls (th.words.getD th.idx 0) then 2 else 1
        let assigned := ∀ k w, h.trap.rep.instr ≠ some (.unassignedOpcode k w)
        u.main = if skip then
          (if assigned ∧ th.idx + n < th.words.length then { th with idx := th.idx + n, park := .none } else Thread.at th.nextPc th.lastIssue)
          else th)))

/-- R334 to R337: SREAD writes the register of the number IMM18 into D at once; where it reads a counter, a free number of
cycles has passed (log 20). SWRITE clears CHG by writing 1, writes SKIP in handler mode, and changes nothing else. -/
def Obligations.SystemRegisters : Prop :=
  ∀ (f : IForm) (s s0 : State) (c : Ctx),
    (issued (.sread f) s = some (c, s0) →
      let s1 := if 11 ≤ f.imm.toNat then s0.passCycles c.core else s0
      let d := s1.pkg.dies.getD (c.core / 32) default
      UnitStep (.sread f) s s1 c (SclWritten c.us (f.d.toNat - 0x100) (match f.imm.toNat with
        | 0 => BitVec.ofNat 64 (d.step % 4 + if d.chg then 4 else 0)
        | 1 => c.us.tinfo
        | 2 => c.us.taddr
        | 3 => c.us.tpc
        | 4 => c.us.tmask
        | 8 => s1.ctxReg c.team.ctx 0x86
        | 9 => s1.ctxReg c.team.ctx 0x87
        | 10 => s1.ctxReg c.team.ctx 0x88
        | 11 => match s1.team? c.u.team with | some t => BitVec.ofNat 64 t.budget | none => 0
        | n => if n < 0x28 then tget 0 (s1.core c.core).pmc (n - 0x20) else tget 0 (s1.core c.core).pmcc (n - 0x28)))) ∧
    (issued (.swrite f) s = some (c, s0) →
      let v := sval s0 c f.a
      let s1 : State := if f.imm = 0 ∧ v.getLsbD 2 then
          { s0 with pkg := { s0.pkg with dies := s0.pkg.dies.modify (c.core / 32) fun d => { d with chg := false } } } else s0
      UnitStep (.swrite f) s s1 c fun u =>
        u.unplaced = ({ c.us with tinfo := if f.imm = 1 then setBit c.us.tinfo 15 (v.getLsbD 15) else c.us.tinfo } : UnitState).unplaced)

/-- R109, R325, R326: an arrival claims or finds the barrier word, records its PHASE and counts; the last arrival of a phase
flips PHASE and clears ARRIVED. BWAIT passes once PHASE differs from the record and otherwise parks. A barrier that the team
does not hold raises cause 0x07. BSYNC arrives and waits, and once parked only waits; ARRIVED is modulo 2^16. The memory effects of the release and the acquire at scope 0 are the
L1 steps of R160 and R161. -/
def Obligations.NamedBarriers : Prop :=
  ∀ (f : IForm) (s s0 : State) (c : Ctx),
    let b := f.imm.toNat % 256
    let k := c.team.home
    let w := s0.barrier k b
    let held : W64 → Bool := fun w => w.getLsbD 33 && decide (bits w 40 4 = c.place)
    let claimed : Option W64 :=
      if f.imm.getLsbD 8 then
        if w.getLsbD 33 = false then some (barrierWord (bits f.imm 9 8) 0 c.place false)
        else if bits w 40 4 ≠ c.place ∨ bits w 0 16 ≠ bits f.imm 9 8 then none else some w
      else if held w then some w else none
    let counted : W64 → W64 := fun w =>
      if bits w 16 16 + 1 = bits w 0 16 then barrierWord (bits w 0 16) 0 c.place (!w.getLsbD 32)
      else barrierWord (bits w 0 16) (bits w 16 16 + 1) c.place (w.getLsbD 32)
    let arrived : W64 → State := fun w => (arriveSync (releaseL1 s0 c 0) c.u k b w).setBarrier k b (counted w)
    let recorded : W64 → UnitState → Prop := fun w u => ({ u with records := c.us.records } : UnitState).unplaced = c.us.unplaced ∧
      ∀ j, tget 0 u.records j = if j = b then 1 + bits w 32 1 else tget 0 c.us.records j
    (issued (.barrive f) s = some (c, s0) →
      (claimed = none → exec (.barrive f) s = .next (raiseHere c 0x07 0 0 s0)) ∧
      (∀ w', claimed = some w' → syncWait s0 c = false → UnitStep (.barrive f) s (arrived w') c (recorded w'))) ∧
    (issued (.bwait f) s = some (c, s0) → acquireOpen s0 c.u = false →
      (held w = false → exec (.bwait f) s = .next (raiseHere c 0x07 0 0 s0)) ∧
      (held w = true → tget 0 c.us.records b ≠ 1 + bits w 32 1 →
        UnitStep (.bwait f) s (phaseSync (acquirePart s0 c 0) c.u c.us k b) c (AtNext c 1)) ∧
      (held w = true → tget 0 c.us.records b = 1 + bits w 32 1 → UnitStep (.bwait f) s s0 c (ParkedAs c .retry))) ∧
    (issued (.bsync f) s = some (c, s0) → (c.us.thread c.slot).park = .barrier b →
      (held w = false → exec (.bsync f) s = .next (raiseHere c 0x07 0 0 s0)) ∧
      (held w = true → tget 0 c.us.records b ≠ 1 + bits w 32 1 →
        UnitStep (.bsync f) s (phaseSync (acquirePart s0 c 0) c.u c.us k b) c (AtNext c 1)) ∧
      (held w = true → tget 0 c.us.records b = 1 + bits w 32 1 → UnitStep (.bsync f) s s0 c (ParkedAs c (.barrier b)))) ∧
    (issued (.bsync f) s = some (c, s0) → (c.us.thread c.slot).park ≠ .barrier b →
      (claimed = none → exec (.bsync f) s = .next (raiseHere c 0x07 0 0 s0)) ∧
      (∀ w', claimed = some w' → syncWait s0 c = false → c.place < 16 →
        (bits w' 16 16 + 1 = bits w' 0 16 → UnitStep (.bsync f) s
          ((acquirePart (arrived w') c 0).pass (.phase k b (bits w' 32 1)) (.unit c.u)) c (recorded w')) ∧
        (bits w' 16 16 + 1 ≠ bits w' 0 16 → UnitStep (.bsync f) s (arrived w') c (recorded w'))))

/-- R327, R328: TKGET gives NEXT and counts it up, claiming a dispenser that nobody holds; TKWAIT passes once (SERVING - t) mod
2^24 < 2^23 and otherwise parks; TKADV counts SERVING up. The misuses raise cause 0x07 and change nothing else. R110, R329:
QPUSH gives the value to the oldest pop that waits, or appends it to the queue, and parks on a full queue; QPOP takes the oldest entry
at once, or marks D empty and waits its turn. A queue number above 7 raises cause 0x07. That a pop delivers at once, and that a
push waits for no pop of its own unit, are the model's readings (logs 69, 96). -/
def Obligations.DispensersAndQueues : Prop :=
  (∀ (f : RForm) (s s0 : State) (c : Ctx),
    let k := (sval s0 c f.a).toNat
    let w := s0.ticket c.team.home k
    let next := bits w 0 24
    let serving := bits w 32 24
    let mine := w.getLsbD 56 = true ∧ bits w 57 4 = c.place
    (issued (.tkget f) s = some (c, s0) → c.place < 16 →
      (63 < k ∨ (w.getLsbD 56 = true ∧ (bits w 57 4 ≠ c.place ∨ (next + 2 ^ 24 - serving) % 2 ^ 24 = 2 ^ 23 - 1)) →
        exec (.tkget f) s = .next (raiseHere c 0x07 0 0 s0)) ∧
      (k ≤ 63 → w.getLsbD 56 = false → UnitStep (.tkget f) s (s0.setTicket c.team.home k (ticketWord 1 0 c.place)) c
        (SclWritten c.us (f.d.toNat - 0x100) 0)) ∧
      (k ≤ 63 → mine → (next + 2 ^ 24 - serving) % 2 ^ 24 ≠ 2 ^ 23 - 1 →
        UnitStep (.tkget f) s (s0.setTicket c.team.home k (ticketWord (next + 1) serving c.place)) c
          (SclWritten c.us (f.d.toNat - 0x100) (BitVec.ofNat 64 next)))) ∧
    (issued (.tkwait f) s = some (c, s0) →
      (63 < k ∨ ¬mine → exec (.tkwait f) s = .next (raiseHere c 0x07 0 0 s0)) ∧
      (k ≤ 63 → mine → acquireOpen s0 c.u = true → UnitStep (.tkwait f) s s0 c (ParkedAs c .retry)) ∧
      (k ≤ 63 → mine → acquireOpen s0 c.u = false →
        let t := (sval s0 c f.b).toNat % 2 ^ 24
        if (serving + 2 ^ 24 - t) % 2 ^ 24 < 2 ^ 23 then
          UnitStep (.tkwait f) s ((acquirePart s0 c 0).pass (.ticket c.team.home k) (.unit c.u)) c (AtNext c 1)
        else UnitStep (.tkwait f) s s0 c (ParkedAs c .retry))) ∧
    (issued (.tkadv f) s = some (c, s0) →
      (63 < k ∨ ¬mine ∨ serving = next → exec (.tkadv f) s = .next (raiseHere c 0x07 0 0 s0)) ∧
      (k ≤ 63 → mine → serving ≠ next → syncWait s0 c = true → UnitStep (.tkadv f) s s0 c (ParkedAs c .retry)) ∧
      (k ≤ 63 → mine → serving ≠ next → syncWait s0 c = false →
        UnitStep (.tkadv f) s (((releaseL1 s0 c 0).pass (.unit c.u) (.ticket c.team.home k)).setTicket c.team.home k (ticketWord next (serving + 1) c.place)) c (AtNext c 1)))) ∧
  (∀ (f : RForm) (s s0 : State) (c : Ctx),
    let q := (sval s0 c f.a).toNat
    let entries := tget [] c.team.queues q
    (∀ i : Instr, i = .qpush f ∨ i = .qpop f → issued i s = some (c, s0) → 7 < q →
      exec i s = .next (raiseHere c 0x07 0 0 s0)) ∧
    (issued (.qpush f) s = some (c, s0) → q ≤ 7 →
      (16 ≤ entries.length → UnitStep (.qpush f) s s0 c (ParkedAs c .retry)) ∧
      (entries.length < 16 → syncWait s0 c = true → UnitStep (.qpush f) s s0 c (ParkedAs c .retry)) ∧
      (entries.length < 16 → syncWait s0 c = false → c.team.popOf q = none →
        UnitStep (.qpush f) s (((releaseL1 s0 c 0).pass (.unit c.u) (.push c.u.team q entries.length)).modTeam c.u.team fun t =>
          { t with queues := tset [] t.queues q (tget [] t.queues q ++ [sval s0 c f.b]) }) c (AtNext c 1)) ∧
      (∀ p w, entries.length < 16 → syncWait s0 c = false → c.team.popOf q = some p → s0.unit? p.1 = some w → p.1.team = c.u.team →
        ∃ t u, exec (.qpush f) s = .next t ∧ t.unit? p.1 = some u ∧
          u.unplaced = ((w.setSreg (p.2.2 - 0x100) (sval s0 c f.b)).mark p.2.2 1 false).unplaced ∧
          (∀ r, r ≠ p.1 → r ≠ c.u → t.unit? r = s0.unit? r) ∧
          (p.1 ≠ c.u → (t.unit? c.u).map (·.unplaced) = some c.us.unplaced) ∧
          (t.team? c.u.team).map (·.queues) = some c.team.queues ∧ (t.team? c.u.team).map (·.pops) = some (c.team.pops.erase p) ∧
          t.mem = (releaseL1 s0 c 0).mem)) ∧
    (issued (.qpop f) s = some (c, s0) → q ≤ 7 →
      (∀ v l, entries = v :: l → ∃ t u, exec (.qpop f) s = .next t ∧ t.unit? c.u = some u ∧
        u.sreg (f.d.toNat - 0x100) = v ∧ (∀ r, r ≠ f.d.toNat - 0x100 → u.sreg r = c.us.sreg r) ∧ u.vregs = c.us.vregs ∧
        (∀ p, p ≠ c.u → t.unit? p = s0.unit? p) ∧ t.mem = s0.mem ∧
        ∀ j, (t.team? c.u.team).map (fun t => tget [] t.queues j) = some (if j = q then l else tget [] c.team.queues j)) ∧
      (entries = [] →
        UnitStep (.qpop f) s (s0.modTeam c.u.team fun t => { t with pops := t.pops ++ [(c.u, q, f.d.toNat)] }) c fun u =>
          u.unplaced = (c.us.mark f.d.toNat 1 true).unplaced)))

/-- R115, R330, R331: SLICE parks its unit, and raises cause 0x01 in an open region; GROW sends one request and parks, writes
the distributor's answer into D, and raises cause 0x07 where the grid may not grow so. -/
def Obligations.SliceAndGrow : Prop :=
  ∀ (s s0 : State) (c : Ctx),
    (∀ f : RForm, issued (.slice f) s = some (c, s0) →
      if c.us.region.isOpen ∧ c.slot < 5 then exec (.slice f) s = .next (raiseHere c 0x01 0 0 s0)
      else UnitStep (.slice f) s s0 c (ParkedAs c .slice)) ∧
    ∀ f : IForm, issued (.grow f) s = some (c, s0) →
      let k := (f.lit.getD (f.imm.setWidth 64)).toNat
      let refused := 2 ^ 40 < c.launch.count + pendingGrowth s0 c.team.launch + k ∨
        (1 < c.launch.setsz ∧ k % c.launch.setsz ≠ 0) ∨ c.launch.role ≠ .none
      (∀ v, (c.us.thread c.slot).park = .grow (some v) →
        UnitStep (.grow f) s s0 c (SclWritten c.us (f.d.toNat - 0x100) v)) ∧
      ((∀ a, (c.us.thread c.slot).park ≠ .grow a) → refused → exec (.grow f) s = .next (raiseHere c 0x07 0 0 s0)) ∧
      ((∀ a, (c.us.thread c.slot).park ≠ .grow a) → ¬refused →
        UnitStep (.grow f) s { s0 with growReqs := s0.growReqs ++ [⟨c.u, c.slot, k⟩] } c (ParkedAs c (.grow none)))

/-! ## Memory instructions (class M and the scalar accesses) -/

/-- R117, R146, R148 to R150, R369, R370, R373: loads from the spaces with a single copy. Each lane's bytes are read at issue,
zero-extended, and delivered at write-back; until then the destination is empty. The stores are unchanged. R375: of an ordered lane
of 128 bits the lower half is read at issue, and the upper half waits, as an event of its own by the model's choice (log 97). -/
def Obligations.SingleCopyLoads : Prop :=
  ∀ (f : MForm) (s s0 : State) (c : Ctx) (i : Instr) (regs order : Nat) (once : Bool) (addr : Nat → Int)
    (place : Int → Except Byte Place),
    let n := 2 ^ bits f.mod 0 3
    (i, regs, order, once, addr, place) ∈
      [(.lds f, mRegs f, mOrder f, uniformAddr f.a, offsetAddr s0 c f.a (mOff f), fun x => scratchPlace c x n),
       (.ldc f, mRegs f, mOrder f, uniformAddr f.a, globalAddr s0 c f.a (mOff f), fun x => setPlace s0 c x n),
       (.lda f, mRegs f, mOrder f, uniformAddr f.a, offsetAddr s0 c f.a (mOff f), fun x => actPlace c x n),
       (.ldk f, mRegs f, 0, uniformAddr f.a, offsetAddr s0 c f.a f.off.toInt, fun x => constPlace c x n),
       (.sldk f, 1, 0, true, fun _ => ((sval s0 c f.a).toNat : Int) + f.off.toInt, fun x => constPlace c x n)] →
    issued i s = some (c, s0) → orderWait s0 c false = false →
    (∀ l ∈ reqLanes c once, ∃ p, place (addr l) = .ok p ∧ placeBad s0 p n = false) →
    (c.again = true ∨ overlaps s0 c.u false ((reqLanes c once).filterMap fun l =>
      match place (addr l) with | .ok p => some (placeKey p, n) | .error _ => none) = false) →
    let half := order ≠ 0 ∧ n = 16
    let read : Nat → Nat → Nat := fun l k => natOf (match place (addr l) with | .ok p => placeRead s0 c p k | .error _ => [])
    Queues i s s0 c f.d regs fun t a =>
      a.kind = (if half then .place false true else .load (decide (order ≠ 0))) ∧
      (¬half → a.lanes.map (fun x => (x.lane, x.va, x.st)) =
        (reqLanes c once).map (fun l => (l, (addr l).toNat, .done (words32 (max regs 2) (read l n))))) ∧
      (half → a.lanes.map (fun x => (x.lane, x.ia, x.size, x.data, x.st)) =
        (reqLanes c once).map (fun l => (l, (match place (addr l) with | .ok p => placeKey p | .error _ => 0) + 8, 8, words32 2 (read l 8), .waiting))) ∧
      t.mem = s0.mem ∧ ∀ k, (t.core k).scratch = (s0.core k).scratch ∧ (t.core k).act = (s0.core k).act ∧
        (t.core k).weight = (s0.core k).weight ∧ (t.core k).scale = (s0.core k).scale

/-- R117, R129, R141, R369 to R372: LD of a group, and SLD. The access waits for its home but for a lane that hits in the core's
L1, whose bytes are read at once, a notify word's as zero (R5); an ordered lane of 128 bits always waits (R375); no byte of memory
changes. R316, R317: SLD of the caller is
checked at its home at issue; what it reads is delivered at write-back. The caller's access acts in its step by the model's
choice (log 25). -/
def Obligations.GlobalLoads : Prop :=
  (∀ (f : MForm) (s s0 : State) (c : Ctx) (i : Instr) (regs : Nat) (scalar : Bool) (good : List (LaneReq × Nat)),
    (i, regs, scalar) ∈ [(.ld f, mRegs f, false), (.sld f, 1, true)] → issued i s = some (c, s0) →
    let n := 2 ^ bits f.mod 0 3
    let order := mOrder f
    let once := uniformAddr f.a || scalar
    let reqs : List LaneReq := (reqLanes c once).map fun l => ⟨l, globalAddr s0 c f.a (mOff f) l, [], []⟩
    let remote := decide (order ≠ 0) && !scopeLocal (ctxScope s0 c (mScope f)) c.core
    translateLanes c .read n once reqs = (good, []) → orderWait s0 c false = false →
    (c.again = true ∨ overlaps s0 c.u false (good.map fun q => (q.2, n)) = false) → s0.pkg.badLines = [] → c.caller = false →
    Queues i s s0 c f.d regs fun t a =>
      a.kind = .load (decide (order ≠ 0)) ∧
      a.lanes.map (fun x => (x.lane, x.va, x.ia, x.size)) = good.map (fun q => (q.1.lane, q.1.va.toNat, q.2, n)) ∧
      a.lanes.map (·.st) = good.map (fun q =>
        if !remote && !(decide (order ≠ 0) && decide (n = 16)) && l1Hit s0 c.core q.2 n && !loadBad s0 c.core q.2 n &&
            !redAhead s0 c.core q.2 s0.nextId && !olderOpen s0 c.u s0.nextId q.2 n
        then .done (words32 (max regs 2) (natOf ((List.range n).map fun j => readOf s0 (q.2 + j) (coreByte s0 c.core (q.2 + j)))))
        else .waiting) ∧
      t.mem = s0.mem ∧ ∀ k x, coreByte t k x = coreByte s0 k x) ∧
  (∀ (f : MForm) (s s0 s2 : State) (c : Ctx) (q : LaneReq × Nat), issued (.sld f) s = some (c, s0) → c.caller = true →
    let n := 2 ^ bits f.mod 0 3
    let acq := mOrder f ≠ 0
    let remote := decide acq && !scopeLocal (ctxScope s2 c (mScope f)) c.core
    let r := if remote then acquireRead s2 c.core q.2 n (ctxScope s2 c (mScope f)) else coreRead s2 c.core q.2 n (mHint f)
    translateLanes c .read n true [⟨c.lanes.headD 0, globalAddr s0 c f.a (mOff f) (c.lanes.headD 0), [], []⟩] = ([q], []) →
    orderWait s0 c false = false → (c.again = true ∨ overlaps s0 c.u false [(q.2, n)] = false) →
    redAhead s0 c.core q.2 s0.nextId = false → scalarHome c false q.2 q.1.va.toNat n s0 = .ok s2 →
    (if remote then acquireBad s2 c.core q.2 n else loadBad s2 c.core q.2 n) = false →
    Queues (.sld f) s r.2 c f.d 1 fun t a => a.lanes.map (·.st) = [.done (words32 2 (natOf r.1))] ∧ t.mem = r.2.mem)

/-- R146, R148, R149, R369, R370, R373: stores to the spaces with a single copy, in ascending lane order. Every byte of the
scratchpads and of the activation stores outside the bytes that a lane stores is as before, and so is memory, but for the
release part's write-backs. R375: of an ordered lane of 128 bits the upper half waits, an event of its own (log 97). That a release
at a local scope also writes back the core's dirty bytes is the model's choice (log 98). -/
def Obligations.SingleCopyStores : Prop :=
  ∀ (f : MForm) (s s0 : State) (c : Ctx) (i : Instr) (addr : Nat → Int) (place : Int → Except Byte Place),
    let n := 2 ^ bits f.mod 0 3
    (i, addr, place) ∈
      [(.sts f, offsetAddr s0 c f.a (mOff f), fun x => scratchPlace c x n),
       (.stc f, globalAddr s0 c f.a (mOff f), fun x => setPlace s0 c x n),
       (.sta f, offsetAddr s0 c f.a (mOff f), fun x => actPlace c x n)] →
    issued i s = some (c, s0) → orderWait s0 c (decide (mOrder f ≠ 0)) = false →
    (∀ l ∈ c.lanes, ∃ p, place (addr l) = .ok p) →
    let keys := c.lanes.map fun l => match place (addr l) with | .ok p => placeKey p | .error _ => 0
    (c.again = true ∨ overlaps s0 c.u true (keys.map fun k => (k, n)) = false) →
    let half := mOrder f ≠ 0 ∧ n = 16
    let s1 := if mOrder f ≠ 0 then releaseAll s0 c else s0
    let data : Nat → Bytes := fun l => (bytesOf n (ofWords32 (storeData s0 c f.d (mRegs f) l))).take (if half then 8 else n)
    let hits : (Except Byte Place → Option Nat) → Nat → Option Byte := fun off a =>
      lastByte (c.lanes.filterMap fun l => (off (place (addr l))).map fun o => (l, o)) (·.2) (fun x => data x.1) a
    ∃ t u, exec i s = .next t ∧ OthersKept c.u s0 t ∧ t.unit? c.u = some u ∧ u.unplaced = c.us.unplaced ∧
      (¬half → t.inflight = s0.inflight) ∧
      (half → ∃ a, t.inflight = s0.inflight ++ [a] ∧ a.u = c.u ∧ a.kind = .place true false ∧
        a.lanes.map (fun x => (x.lane, x.ia, x.size, x.data, x.st)) =
          (c.lanes.zip keys).map (fun q => (q.1, q.2 + 8, 8, (storeData s0 c f.d (mRegs f) q.1).drop 2, .waiting))) ∧
      t.mem = s1.mem ∧
      ∀ k a, tget 0 (t.core k).scratch a = (hits (scratchOff k) a).getD (tget 0 (s0.core k).scratch a) ∧
        tget 0 (t.core k).act a = (hits (actOff k) a).getD (tget 0 (s0.core k).act a) ∧
        (t.core k).weight = (s0.core k).weight ∧ (t.core k).scale = (s0.core k).scale

/-- R129, R134, R141, R369 to R373, R388: ST and SST with ORDER 0, and IMST, whose lanes their homes all admit and whose lines
the core's L1 holds. The core then reads the bytes of the last lane that stores them, and every other byte, and every byte that
another core reads, is as before; of the memory side only a slice's event counters may change. R141, R156, R160 to R162, R316,
R374: a store of one lane that its home admits, with every ORDER and HINT: the release part and the store; of an ordered store of
128 bits the upper half waits, an event of its own (R375). Nothing else changes; the memory effects are the L1 steps of R141 and
R160 to R162. The write-back of a releasing store's own
line is the model's reading (log 23). -/
def Obligations.GlobalStores : Prop :=
  (∀ (s s0 s1 : State) (c : Ctx) (i : Instr) (n : Nat) (once : Bool) (reqs : List LaneReq),
    ((∃ f, i = .st f ∧ mOrder f = 0 ∧ n = 2 ^ bits f.mod 0 3 ∧ once = uniformAddr f.a ∧ s1 = s0 ∧
        reqs = c.lanes.map fun l => ⟨l, globalAddr s0 c f.a (mOff f) l, storeData s0 c f.d (mRegs f) l, []⟩) ∨
      (∃ f, i = .sst f ∧ mOrder f = 0 ∧ n = 2 ^ bits f.mod 0 3 ∧ once = true ∧ s1 = s0 ∧
        reqs = [c.lanes.headD 0].map fun l => ⟨l, globalAddr s0 c f.a (mOff f) l, words32 2 (sval s0 c f.d).toNat, []⟩) ∨
      (∃ f bs d, i = .imst f ∧ readAtIssue c (sval s0 c f.b).toNat 16 s0 = (.ok bs, s1) ∧
        imageDesc (BitVec.ofNat 128 (natOf bs)) = some d ∧ d.write = true ∧ coordGate c f.a f.fea (d.dim + 1) = .go ∧
        n = texelBytes d.fmt ∧ once = false ∧
        let texels := c.lanes.filterMap fun l => (texelAt s1 c f d l).map fun x =>
          (l, d.addr x.1 x.2.1 x.2.2.1 x.2.2.2, storeTexel d.fmt (dataWords s1 c f.d 4 l))
        (∀ x ∈ texels, ∀ q ∈ x.2.2, traps c.launch.nfpol q.1 q.2 = false) ∧
        reqs = texels.map fun x => ⟨x.1, x.2.1,
          words32 4 (x.2.2.foldr (fun q acc => policy c.launch.nfpol q.1 q.2 + acc * 2 ^ q.1.width) 0), []⟩)) →
    issued i s = some (c, s0) → ∀ good, translateLanes c .write n once reqs = (good, []) → acquiring s1 c.u = false →
    (c.again = true ∨ overlaps s1 c.u true (good.map fun q => (q.2, n)) = false) →
    (c.caller = true → probeOf s1 c = none) →
    (∀ q ∈ good, verdict s1 c.secure true q.2 = .ok ∧ (s1.l1? c.core (lineOf q.2)).isSome ∧ q.2 % 128 + n ≤ 128) →
    ∃ t u, exec i s = .next t ∧ OthersKept c.u s1 t ∧ t.unit? c.u = some u ∧ u.unplaced = c.us.unplaced ∧
      t.inflight = s1.inflight ∧ { t.mem with mscc := s1.mem.mscc } = s1.mem ∧
      ∀ k a, coreByte t k a = if k = c.core
        then (lastByte good (·.2) (fun q => bytesOf n (ofWords32 q.1.data)) a).getD (coreByte s1 k a) else coreByte s1 k a) ∧
  (∀ (f : MForm) (s s0 s2 s4 : State) (c : Ctx) (i : Instr) (data : List W32) (q : LaneReq × Nat),
    (i, data) ∈ [(.st f, storeData s0 c f.d (mRegs f) (c.lanes.headD 0)), (.sst f, words32 2 (sval s0 c f.d).toNat)] →
    issued i s = some (c, s0) → c.lanes.length = 1 →
    let n := 2 ^ bits f.mod 0 3
    let ordered := mOrder f ≠ 0
    let s1 := if ordered then releaseL1 s0 c (mScope f) else s0
    translateLanes c .write n (uniformAddr f.a || decide (i = .sst f))
      [⟨c.lanes.headD 0, globalAddr s0 c f.a (mOff f) (c.lanes.headD 0), data, []⟩] = ([q], []) →
    orderWait s0 c (decide ordered) = false → (c.again = true ∨ overlaps s0 c.u true [(q.2, n)] = false) →
    (if c.caller then scalarHome c true q.2 q.1.va.toNat n s0 = .ok s4 ∧ s2 = (if ordered then releaseL1 s4 c (mScope f) else s4)
      else homeCheck s1.fresh.2 c.u c.secure true q.2 = (.ok, s2)) →
    let stored : Bytes → State := fun bs =>
      storeSync (storeLane s2 c.core q.2 (mHint f) bs (decide ordered) (scopeLocal (ctxScope s0 c (mScope f)) c.core)) c.u c.core
        (if ordered then some (.unit c.u) else none) q.2 bs
    let s3 := stored (bytesOf n (ofWords32 data))
    (¬(ordered ∧ n = 16) → UnitStep i s s3 c fun u => u.unplaced = c.us.unplaced) ∧
    (ordered → n = 16 → c.caller = false → ∃ a, a.u = c.u ∧ a.kind = .store true ∧ a.scope = mScope f ∧
      a.lanes = [⟨c.lanes.headD 0, q.1.va.toNat + 8, q.2 + 8, 8, data.drop 2, [], .waiting⟩] ∧
      let s4 := (stored (bytesOf 8 (ofWords32 (data.take 2)))).pass (.unit c.u) (.issued a.id)
      UnitStep i s { s4 with inflight := s4.inflight ++ [a] } c fun u => u.unplaced = c.us.unplaced))

/-- R165, R311, R318, R376 to R378: ATOM queues one returning atomic for each lane with a global address, an acquire and a
release at SCOPE, and performs an aperture lane at the scratchpad at once; SATOM, performed at issue (log 25), delivers the old
value at write-back and writes the new one over exactly its bytes. That a value which MIN or MAX copies meets the policy as any
other (log 41), and that a release at a local scope also writes back the core's other dirty bytes (log 98), are the model's readings. -/
def Obligations.Atomics : Prop :=
  ∀ (f : AForm) (s s0 : State) (c : Ctx),
    let t := aTy (bits f.mod 0 3)
    let aop := f.aop.toNat
    let cas := aop = 7
    let s1 := releaseL1 s0 c f.scope.toNat
    let loc := scopeLocal (ctxScope s0 c f.scope.toNat) c.core
    (issued (.atom f) s = some (c, s0) → orderWait s0 c true = false →
      let reqs : List LaneReq := c.lanes.map fun l =>
        ⟨l, globalAddr s0 c f.a 0 l, words32 2 (opndLit s0 c f.b f.lit t l), if cas then words32 2 (opnd s0 c f.d t l) else []⟩
      (∀ good, splitLanes c t.bytes (uniformAddr f.a) reqs = ([], good, []) →
        (c.again = true ∨ overlaps s0 c.u true (good.map fun q => (q.2, t.bytes)) = false) →
        Queues (.atom f) s s1 c f.d (atRegs f) fun x a => a.kind = .atom aop (bits f.mod 0 3) loc ∧ a.scope = f.scope.toNat ∧
          a.lanes = good.map (fun q => ⟨q.1.lane, q.1.va.toNat, q.2, t.bytes, q.1.data, q.1.cmp, .waiting⟩) ∧ x.mem = s1.mem) ∧
      (∀ (q : LaneReq) (k o : Nat), splitLanes c t.bytes (uniformAddr f.a) reqs = ([(q, .scratch k o)], [], []) →
        let old := natOf ((List.range t.bytes).map fun j => tget 0 (s0.core k).scratch (o + j))
        let new := bytesOf t.bytes (aopResult c.launch.nfpol aop t old (ofWords32 q.data) (ofWords32 q.cmp)).1
        let s2 := releaseAll s0 c
        placeBad s0 (.scratch k o) t.bytes = false →
        Queues (.atom f) s s2 c f.d (atRegs f) fun x a => a.lanes.map (fun y => (y.lane, y.st)) = [(q.lane, .done (words32 2 old))] ∧
          x.mem = s2.mem ∧ ∀ j b, tget 0 (x.core j).scratch b =
            if j = k ∧ o ≤ b ∧ b < o + t.bytes ∧ ¬(cas ∧ old ≠ ofWords32 q.cmp) then new.getD (b - o) 0
            else tget 0 (s0.core j).scratch b)) ∧
    (∀ (q : LaneReq × Nat) (s2 : State), issued (.satom f) s = some (c, s0) → orderWait s0 c true = false →
      translateLanes c .rw t.bytes true [⟨c.lanes.headD 0, (sval s0 c f.a).toNat, [], []⟩] = ([q], []) →
      (c.again = true ∨ overlaps s0 c.u true [(q.2, t.bytes)] = false) → 
      redAhead s0 c.core q.2 s0.fresh.2.nextId = false →
      scalarHome c true q.2 (sval s0 c f.a).toNat t.bytes s0.fresh.2 = .ok s2 → loadBad s2 c.core q.2 t.bytes = false →
      let s3 := ownLine (releaseL1 s2 c f.scope.toNat) c.core q.2 (scopeLocal (ctxScope s2 c f.scope.toNat) c.core)
        (ctxScope s2 c f.scope.toNat)
      let old := natOf ((List.range t.bytes).map fun j => readOf s3 (q.2 + j) (coreByte s3 c.core (q.2 + j)))
      let r := aopResult c.launch.nfpol aop t old (opndLit s0 c f.b f.lit t 0) (opnd s0 c f.d t 0)
      (r.2 = true → exec (.satom f) s = .next (raiseHere c 0x10 0 0 s3)) ∧
      (r.2 = false → (s3.l1? c.core (lineOf q.2)).isSome → q.2 % 128 + t.bytes ≤ 128 →
        Queues (.satom f) s s3 c f.d 1 fun x a => a.lanes.map (·.st) = [.done (words32 2 old)] ∧ x.mem = s3.mem ∧
          ∀ k b, coreByte x k b =
            if k = c.core ∧ q.2 ≤ b ∧ b < q.2 + t.bytes ∧ ¬(cas ∧ old ≠ opnd s0 c f.d t 0) then
              (bytesOf t.bytes r.1).getD (b - q.2) 0 else coreByte s3 k b))

/-- R166, R184, R379, R380: RED combines the lanes that name one address and sends one reduction for each address; under policy
2 a non-finite combination raises cause 0x10 and sends nothing. -/
def Obligations.Reductions : Prop :=
  ∀ (f : AForm) (s s0 : State) (c : Ctx) (good : List (LaneReq × Nat)), issued (.red f) s = some (c, s0) →
    let t := aTy (bits f.mod 0 3)
    let reqs : List LaneReq := c.lanes.map fun l => ⟨l, globalAddr s0 c f.a 0 l, words32 2 (opndLit s0 c f.b f.lit t l), []⟩
    let gs := redGroups f.aop.toNat c.launch.nfpol t good
    splitLanes c t.bytes (uniformAddr f.a) reqs = ([], good, []) → orderWait s0 c false = false →
    (c.again = true ∨ overlaps s0 c.u true (good.map fun q => (q.2, t.bytes)) = false) →
    ((∃ g ∈ gs, redTraps c.launch.nfpol t g.v = true) → exec (.red f) s = .next (raiseHere c 0x10 0 0 s0)) ∧
    ((∀ g ∈ gs, redTraps c.launch.nfpol t g.v = false) →
      ∃ x u a, exec (.red f) s = .next x ∧ x.inflight = s0.inflight ++ [a] ∧ a.u = c.u ∧ a.dst = none ∧
        a.kind = .red f.aop.toNat (bits f.mod 0 3) ∧
        a.lanes.map (fun y => (y.lane, y.va, y.ia, y.size, y.data, y.st)) =
          gs.map (fun g => (g.lane, g.va, g.at_, t.bytes, words32 2 g.v, .waiting)) ∧
        OthersKept c.u s0 x ∧ x.unit? c.u = some u ∧ u.unplaced = c.us.unplaced)

/-- R52, R160, R161, R164, R324, R381 to R383: FENCE waits for what its parts order and then performs the L1 steps of a release
and of an acquire; with the group's network status set, a fence at scope 4 raises cause 0x12, before it acts or, when its
release part has waited, after the wait; taking the cause clears the status (R52). PREF and CCTL change no register: PREF never
parks or faults, and CCTL acts on the lines of the lanes that the translation lets through. That a release at a local scope also
writes back the core's dirty bytes is the model's choice (log 98). -/
def Obligations.FencesAndCacheControl : Prop :=
  ∀ (f : MForm) (s s0 : State) (c : Ctx),
    let o := if mOrder f = 0 then 3 else mOrder f
    let sc := if mOrder f = 0 then 0 else mScope f
    let rel := o = 2 ∨ o = 3
    let acq := o = 1 ∨ o = 3
    (issued (.fence f) s = some (c, s0) →
      let waits := acquiring s0 c.u = true ∨ (rel ∧ (storesDone s0 c.u = false ∨ loadsReturned s0 c.u = false)) ∨
        (acq ∧ loadsReturned s0 c.u = false) ∨ (rel ∧ sc = 4 ∧ netBusy s0 c.u = true)
      let begun := rel ∧ sc = 4 ∧ (c.us.thread c.slot).park = .fence
      (∀ p, sc = 4 → c.us.net = some p → ¬(begun ∧ waits) → exec (.fence f) s = .next (raiseHere c 0x12
        (BitVec.ofNat 64 (p.2.toNat * 2 ^ 42 + p.1.toNat * 2 ^ 45)) 0
        (s0.modUnit c.u fun u => u.modThread c.slot fun th => { th with park := .none }))) ∧
      (sc ≠ 4 ∨ c.us.net = none ∨ begun → waits →
        UnitStep (.fence f) s s0 c (ParkedAs c (if rel ∧ sc = 4 then .fence else .retry))) ∧
      (sc ≠ 4 ∨ c.us.net = none → ¬waits →
        let s1 := if rel then (releaseAll s0 c).pass (.unit c.u) (.fence c.u) else s0
        UnitStep (.fence f) s (if acq then fenceSync (acquirePart s1 c sc) c.u c.core (ctxScope s1 c sc) else s1) c (AtNext c 1))) ∧
    (issued (.pref f) s = some (c, s0) → ∃ t u, exec (.pref f) s = .next t ∧ OthersKept c.u s0 t ∧ t.unit? c.u = some u ∧
      AtNext c 1 u ∧ t.inflight = s0.inflight) ∧
    ∀ (i : Instr) (act : State → Nat → Nat → State) (good : List (LaneReq × Nat)),
      (i, act) ∈ [(.cctlWb f, writebackLine), (.cctlInv f, evictL1), (.cctlClrp f, fun s k line =>
        let s := match s.l1? k line with | some l => s.setL1 k line { l with prio := .normal } | none => s
        match s.msc? line with | some l => s.setMsc line { l with prio := .normal } | none => s)] →
      issued i s = some (c, s0) →
      translateLanes c .read 1 (uniformAddr f.a) ((reqLanes c (uniformAddr f.a)).map fun l =>
        ⟨l, globalAddr s0 c f.a f.off.toInt l, [], []⟩) = (good, []) → acquiring s0 c.u = false →
      (c.again = true ∨ overlaps s0 c.u true (good.map fun q => (q.2 - q.2 % 128, 128)) = false) →
      UnitStep i s (good.foldl (fun s q => act s c.core (lineOf q.2)) s0).fresh.2 c fun u => u.unplaced = c.us.unplaced

/-- R384 to R389: once the descriptors have been read, TEX and TFETCH read each lane's texels, and their four words are
delivered at write-back; a TFETCH lane that lies outside the image reads zeros. Under policy 2 a non-finite TEX result raises
cause 0x10. The reading of descriptors in one step and TFETCH outside the policy are the model's (logs 29, 46). -/
def Obligations.ImageReads : Prop :=
  ∀ (f : RForm) (s s0 s1 : State) (c : Ctx) (bs : Bytes) (d : ImageDesc),
    acquiring s0 c.u = false → readAtIssue c (sval s0 c f.b).toNat 16 s0 = (.ok bs, s1) →
    imageDesc (BitVec.ofNat 128 (natOf bs)) = some d →
    (∀ (lanes : List (Nat × List W32)) (held : List HeldLane) (s2 : State), issued (.tfetch f) s = some (c, s0) →
      coordGate c f.a f.fea (d.dim + 1) = .go → texLanes c (fetchLane s1 c f d) s1 = (lanes, [], held, s2) →
      Queues (.tfetch f) s s2 c f.d 4 fun t a =>
        a.lanes.map (fun x => (x.lane, x.st)) = lanes.map (fun p => (p.1, .done p.2)) ++ held.map (fun h => (h.lane, h.status)) ∧
        (held = [] → lanes.map (·.1) = c.lanes ∧ t.mem = s2.mem) ∧ ∀ p ∈ lanes, texelAt s1 c f d p.1 = none → p.2 = [0, 0, 0, 0]) ∧
    (∀ (bs' : Bytes) (sm : SamplerDesc) (lanes : List (Nat × List W32)) (held : List HeldLane) (s2 s3 : State),
      issued (.tex f) s = some (c, s0) →
      let lod := f.mod.getLsbD 0
      d.fmt ≠ 7 → coordGate c f.a f.fea (d.dim + 1 + if lod then 1 else 0) = .go →
      readAtIssue c (sval s1 c f.c).toNat 16 s1 = (.ok bs', s2) → samplerDesc (BitVec.ofNat 128 (natOf bs')) = some sm →
      let num : Nat → Nat → Rat := fun r l => f32Rat (c.us.vreg r l)
      texLanes c (fun l r => sample c d sm ((List.range (d.dim + 1)).map fun k => num (f.a.toNat + k) l)
        (if lod then some (num (f.a.toNat + d.dim + 1) l) else none) r) s2 = (lanes, [], held, s3) →
      let trapped := ∃ p ∈ lanes, ∃ v ∈ p.2, traps c.launch.nfpol .f32 v.toNat = true
      (held = [] → trapped → exec (.tex f) s = .next (raiseHere c 0x10 0 0 s3)) ∧
      (held ≠ [] ∨ ¬trapped →
        Queues (.tex f) s s3 c f.d 4 fun t a => a.lanes.map (fun x => (x.lane, x.st)) =
          lanes.map (fun p => (p.1, .done (p.2.map fun v => BitVec.ofNat 32 (policy c.launch.nfpol .f32 v.toNat)))) ++
            held.map (fun h => (h.lane, h.status)) ∧
          (held = [] → lanes.map (·.1) = c.lanes ∧ t.mem = s3.mem)))

/-- R245 to R253, R413 to R416: TRACE gives each lane's record at write-back, and a ray with a NaN gives a record of zeros;
HGATH writes the features of each lane into the activation store, and its validity at write-back. A lane whose page makes it wait
stays in flight while its group goes on. A record or a level's features whose bytes an unordered write has met are free values, and no
fault is taken for them (R247, R251; log 74). HSCAT goes on with its contributions in flight, and each step sends its reductions at its
home, where one may be parked. That the lanes that need not wait are read in one step is the model's choice (logs 34, 35). -/
def Obligations.RaysAndHashGrids : Prop :=
  (∀ (f : RForm) (s s0 s1 : State) (c : Ctx),
    (∀ (lanes : List (Nat × List W32 × Bool)) (held : List HeldLane), issued (.trace f) s = some (c, s0) → acquiring s0 c.u = false →
      traceLanes c f.a.toNat (sval s0 c f.b).toNat (sval s0 c (f.b + 1)).toNat s0 = (lanes, [], held, s1) →
      let trapped := ∃ p ∈ lanes, traceTraps c.launch.nfpol p.2 = true
      (held = [] → trapped → exec (.trace f) s = .next (raiseHere c 0x10 0 0 s1)) ∧
      (held ≠ [] ∨ ¬trapped →
        Queues (.trace f) s s1 c f.d 7 fun t a =>
          a.lanes.map (fun x => (x.lane, x.st)) =
            lanes.map (fun p => (p.1, .done (p.2.1 ++ if held = [] then [] else [if p.2.2 then 1 else 0]))) ++
            held.map (fun h => (h.lane, h.status)) ∧
          (held = [] → lanes.map (·.1) = c.lanes ∧ t.mem = s1.mem) ∧
          ∀ p ∈ lanes, (∃ k, k < 8 ∧ f32Val (c.us.vreg (f.a.toNat + k) p.1) = .nan) → p.2.1 = [0, 0, 0, 0, 0, 0, 0])) ∧
    (∀ (ls : List GridLevel) (bs : Bytes) (done : List (Nat × List (Fmt × Nat))) (held : List HeldLane) (s2 : State),
      issued (.hgath f) s = some (c, s0) → acquiring s0 c.u = false →
      let pw := sval s0 c (f.b + 1)
      readGrid c (sval s0 c f.b).toNat s0 = (.ok ls bs, s1) → f.a.toNat ≤ 253 → bits pw 29 35 = 0 → bits pw 0 22 % 512 = 0 →
      bits pw 22 7 + c.w ≤ 128 → bits pw 0 22 + 512 * ceilDiv ((ls.map (·.feat)).foldl (· + ·) 0) 2 ≤ 2 ^ 22 →
      gatherLanes c ls f.a.toNat s1 = (done, [], held, s2) →
      let free : Nat → List Bool := fun l => racedFeatures s2 s1.nextId l ls
      let trapped := ∃ p ∈ done, ∃ v ∈ p.2.zip (free p.1), v.2 = false ∧ traps c.launch.nfpol v.1.1 v.1.2 = true
      let status : Nat → W32 := fun l => if posFinite (position c f.a.toNat l) then 0 else 1
      (held = [] → trapped → exec (.hgath f) s = .next (raiseHere c 0x10 0 0 s2)) ∧
      (held = [] → ¬trapped →
        let s3 := done.foldl (fun s p =>
          writeFeatures s c.core c.u (bits pw 0 22) (bits pw 22 7 + p.1) c.launch.nfpol p.2 (free p.1)) s2
        Queues (.hgath f) s s3 c f.d 1 fun t a =>
          a.lanes.map (fun x => (x.lane, x.st)) = done.map (fun p => (p.1, .done [status p.1])) ∧ done.map (·.1) = c.lanes ∧
          t.mem = s3.mem ∧ ∀ k, (t.core k).act = (s3.core k).act ∧ (t.core k).scratch = (s0.core k).scratch) ∧
      (held ≠ [] → Queues (.hgath f) s s2 c f.d 1 fun t a =>
          a.lanes.map (fun x => (x.lane, x.st)) =
            done.map (fun p => (p.1, .done (status p.1 :: p.2.map fun v => BitVec.ofNat 32 v.2))) ++ held.map (fun h => (h.lane, h.status)) ∧
          ∀ k, (t.core k).act = (s2.core k).act ∧ (t.core k).scratch = (s0.core k).scratch)) ∧
    (∀ (ls : List GridLevel) (bs : Bytes) (g : GridLevel), issued (.hscat f) s = some (c, s0) → acquiring s0 c.u = false →
      let lw := sval s0 c (f.b + 1)
      readGrid c (sval s0 c f.b).toNat s0 = (.ok ls bs, s1) → ls[bits lw 0 4]? = some g → bits lw 4 60 = 0 → f.a.toNat ≤ 253 →
      f.d.toNat + g.feat ≤ 256 → f.d.toNat + g.feat ≤ c.launch.budget.vregs → c.us.isEmpty f.d.toNat g.feat = false → c.rep.steps = [] →
      let pol := c.launch.nfpol
      let n := 8 * g.feat
      let lanes := c.lanes.filter fun l => posFinite (position c f.a.toNat l)
      let groups : Nat → List (RedGroup Unit) := fun k => scatterGroups c g f.a.toNat f.d.toNat pol k lanes
      ((∃ k, k < n ∧ ∃ r ∈ groups k, redTraps pol (featTy g.fmt) r.v = true) → exec (.hscat f) s = .next (raiseHere c 0x10 0 0 s1)) ∧
      ((∀ k, k < n → ∀ r ∈ groups k, redTraps pol (featTy g.fmt) r.v = false) → lanes ≠ [] →
        ∃ a : Access, a.id = s1.nextId ∧ a.u = c.u ∧ a.kind = .scatter (g.fmt = .bf16) g.home1 ∧ a.pol = pol ∧ a.dst = none ∧
          a.lanes.map (fun x => (x.lane, (x.va : Int), x.data, x.st)) = lanes.flatMap (fun l => (List.range n).map fun k =>
            let q := scatterReq c g f.a.toNat f.d.toNat pol k l
            (l + 64 * k, q.va, q.data, .waiting)) ∧
          UnitStep (.hscat f) s { s1 with nextId := s1.nextId + 1, inflight := s1.inflight ++ [a] } c (AtNext c 1)) ∧
      (lanes = [] → UnitStep (.hscat f) s s1.fresh.2 c (AtNext c 1)))) ∧
  (∀ (s : State) (u : UnitRef) (r : EngineRead) (a n : Nat), r.addr < a + n → a < r.addr + r.len →
    (∀ x, r ∈ s.order.reads → s.access? r.access = some x → x.u ≠ u → (writeMark s (.unit u) a n).isRaced r.access r.lane r.part = true) ∧
    (∀ w, (a, n, w) ∈ s.order.mem → w ∉ s.known (.unit u) → (noteRead s u r).isRaced r.access r.lane r.part = true)) ∧
  (∀ (s : State) (a : Access) (f : RForm) (u : UnitState) (l : LaneAcc) (w : List W32) (d : Nat), s.access? a.id = some a → s.unit? a.u = some u →
    a.kind = .unit → a.rep.instr = some (.trace f) → a.dst = some d → d < 0x100 → a.uni = false → a.regs = 7 → a.lanes = [l] → l.st = .done w →
    u.exited = false → u.live.getLsbD l.lane = true → l.lane < 64 → s.isRaced a.id l.lane 0 = true →
    ∃ x v, exec (.longLatencyWriteback a.id) s = .next x ∧ x.unit? a.u = some v ∧ v.sregs = u.sregs ∧
      let free := words32 7 (s.draw 224).1.toNat
      ∀ r k, k < 64 → v.vreg r k = if k = l.lane ∧ d ≤ r ∧ r < d + 7 then
        ((free.headD 0 &&& 0xFF07) :: free.drop 1).getD (r - d) 0 else u.vreg r k) ∧
  ∀ (s s1 : State) (a : Access) (c : Ctx) (bf16 home1 : Bool) (k lane : Nat) (ls : List LaneAcc) (r : RedGroup Unit) (l : LaneAcc),
    s.access? a.id = some a → a.kind = .scatter bf16 home1 → engineCtx s a = some c → scatterNow a = some (k, ls) →
    let g : GridLevel := { (default : GridLevel) with fmt := if bf16 then .bf16 else .f16, home1 := home1 }
    redGroups 0 a.pol (featTy g.fmt) (ls.map fun x => ((⟨x.lane % 64, (x.va : Int), x.data, []⟩ : LaneReq), ())) = [r] →
    a.lane? (r.lane + 64 * k) = some l → l.st ≠ .parked → replayTurn s a.id l.lane (pageOf l.ia) = true →
    let ans := scatterCheck c g a.id r.va (replayDone s a.id l.lane)
    (ans = (.ok, s1) → exec (.translationAccess a.id lane) s =
      .next (scatterDrop (scatterRed c g a.pol r.va r.v s1) a.id fun x => x.lane / 64 = k && r.mask.getLsbD (x.lane % 64))) ∧
    ∀ w, ans = (.held (some w), s1) → exec (.translationAccess a.id lane) s =
      .next ((parkLane s1 w a.id (r.lane + 64 * k)).modAccess a.id fun x => x.setLane (r.lane + 64 * k) .parked)

/-! ## Matrix, copy and ring instructions (classes T and E) -/

/-- R205, R211, R393, R398, R401 to R404: an instruction that hands the matrix unit an operation raises the cause of the check
that fails; with room in the queue its operation is the last of it, at a slot that its team holds; without, the caller is parked
with it. Each marks its team affine (R94). R94, R169, R212, R396, R399, R400, R404: TDESC writes an operand word; MOPF orders
what happens before it, and where that is every write to the stores, a product depends on none that is unordered; MWAIT passes when no operation it covers is queued, as an acquire at scope 0, and waits
otherwise; MSTAT reads a slot's status word and clears LOST. How the model follows what happens before what is its reading (log 74). -/
def Obligations.MatrixInstructions : Prop :=
  (∀ (f : RForm) (s s0 : State) (c : Ctx) (i : Instr) (check : Except (Byte × W64 × Nat) MatOp),
    (i, check) ∈ [(.mma f, checkMma false f c s0), (.mmasp f, checkMma true f c s0), (.mzero f, checkSlot (sval s0 c f.a) c s0 .zero),
      (.epi f, checkEpi f c s0), (.msave f, checkImage f .write (fun va => .save va (f.mod.getLsbD 6) false) c s0),
      (.mrest f, checkImage f .read (fun va => .rest va) c s0)] →
    issued i s = some (c, s0) →
    let park := (c.us.thread c.slot).park
    let marked := s0.modTeam c.u.team fun t => { t with affine := true }
    (park = .done → UnitStep i s s0 c fun u => u.unplaced = c.us.unplaced) ∧
    (∀ op, park = .matrix op → UnitStep i s s0 c (ParkedAs c (.matrix op))) ∧
    ((∀ op, park ≠ .matrix op) → park ≠ .done →
      (∀ k info a, check = .error (k, info, a) → exec i s = .next (raiseHere c k info (BitVec.ofNat 64 a) s0)) ∧
      (∀ op, check = .ok op →
        let q := (s0.core c.core).matq
        let room := q.length < 32 ∧ (q.filter fun m => m.team = op.team).length < 2 ∧
          ((s0.reel c.core op.slot).holder = none ∨ (s0.reel c.core op.slot).holder = some op.team)
        (acquiring s0 c.u = true → UnitStep i s marked c (ParkedAs c .retry)) ∧
        (acquiring s0 c.u = false → ¬room → UnitStep i s marked c (ParkedAs c (.matrix op))) ∧
        (acquiring s0 c.u = false → room → UnitStep i s (acceptOp marked c.core op) c (AtNext c 1) ∧ op.team = c.u.team ∧
          ((acceptOp marked c.core op).core c.core).matq.map (fun m => (m.team, m.slot)) =
            q.map (fun m => (m.team, m.slot)) ++ [(c.u.team, op.slot)] ∧
          ((acceptOp marked c.core op).reel c.core op.slot).holder = some c.u.team ∧
          ((∀ p ∈ (s0.core c.core).stamps, ∀ w ∈ p.2, w ∈ s0.known (.mopf c.u.team)) →
            ((acceptOp marked c.core op).core c.core).matq.getLast?.map (fun m => (m.taintR, m.taintC)) = some (0, 0)))))) ∧
  (∀ (s s0 : State) (c : Ctx),
    let marked := s0.modTeam c.u.team fun t => { t with affine := true }
    (∀ f : IForm, issued (.tdesc f) s = some (c, s0) →
      let x := sval s0 c f.a + immS f
      let fmt := bits f.mod 0 6
      let bad := 2 ^ 57 ≤ x.toNat ∨ (f.mod.getLsbD 6 = false ∧ 2 ^ 22 ≤ x.toNat)
      (slabElems fmt = none → exec (.tdesc f) s = .next (raiseHere c 0x01 0 0 s0)) ∧
      (slabElems fmt ≠ none → x.toNat % 512 ≠ 0 → exec (.tdesc f) s = .next (raiseHere c 0x05 0 x s0)) ∧
      (slabElems fmt ≠ none → x.toNat % 512 = 0 → bad → exec (.tdesc f) s = .next (raiseHere c 0x07 0 x s0)) ∧
      (slabElems fmt ≠ none → x.toNat % 512 = 0 → ¬bad →
        UnitStep (.tdesc f) s marked c (SclWritten c.us (f.d.toNat - 0x100) (x ||| BitVec.ofNat 64 (bits f.mod 0 7))))) ∧
    (∀ f : RForm, issued (.mopf f) s = some (c, s0) →
      (acquiring s0 c.u = true → UnitStep (.mopf f) s s0 c (ParkedAs c .retry)) ∧
      (acquiring s0 c.u = false → UnitStep (.mopf f) s ((writebackAll marked c.core).pass (.unit c.u) (.mopf c.u.team)) c (AtNext c 1))) ∧
    (∀ f : RForm, issued (.mwait f) s = some (c, s0) →
      let slot := (sval s0 c f.a).toNat
      let all := f.mod = 1
      let slots := if all then List.range 32 else [slot]
      let queued := ∃ m ∈ (s0.core c.core).matq, m.team = c.u.team ∧ m.slot ∈ slots
      let stopped := ∃ m ∈ (s0.core c.core).matq, m.team = c.u.team ∧ m.slot ∈ slots ∧ m.stop ≠ none
      let noted := ∃ n ∈ c.team.epiNotes, all ∨ n = slot
      (¬all → 32 ≤ slot → exec (.mwait f) s = .next (raiseHere c 0x01 0 0 s0)) ∧
      (all ∨ slot < 32 → (∀ m ∈ (s0.core c.core).matq, m.slot < 32) → ¬stopped → queued →
        UnitStep (.mwait f) s marked c (ParkedAs c .retry)) ∧
      (all ∨ slot < 32 → (∀ m ∈ (s0.core c.core).matq, m.slot < 32) → ¬queued → ¬noted →
        let s1 := slots.foldl (fun s n =>
          let r := s.reel c.core n
          (if r.holder = some c.u.team then s.setReel c.core n { r with early := false } else s).pass (.epi c.u.team n) (.unit c.u)) marked
        UnitStep (.mwait f) s (acquirePart s1 c 0) c (AtNext c 1))) ∧
    ∀ f : RForm, issued (.mstat f) s = some (c, s0) →
      let n := (sval s0 c f.a).toNat
      let r := s0.reel c.core n
      let s1 := if r.holder = some c.u.team then s0.setReel c.core n { r with lost := false } else s0
      (32 ≤ n → exec (.mstat f) s = .next (raiseHere c 0x01 0 0 s0)) ∧
      (n < 32 → UnitStep (.mstat f) s (s1.modTeam c.u.team fun t => { t with affine := true }) c
        (SclWritten c.us (f.d.toNat - 0x100) (statusWord s0 c.core c.u.team n))))

/-- R192, R204, R406, R407: XCOPY and XCOPYY start a chain on the lowest idle channel of their pool, after a write-back of the
core's dirty bytes, unless 32 chains of the team run or another issuer waits before them; then they wait, in issue order. XCOPYY
then stands at its continuation, parked until the ring is ready. R198, R199, R408 to R410: RINIT holds a ring with R, W and RES
0; RAWAIT waits for a filled slot and gives R, as an acquire; RREL releases the slot. A misuse raises cause 0x11. -/
def Obligations.CopyInstructions : Prop :=
  (∀ (s s0 : State) (c : Ctx) (i : Instr) (a : BitVec 9) (n : Nat),
    let va := (sval s0 c a).toNat
    let me := (c.u, c.slot)
    let first := s0.copyWait.find? fun w => chainReady s0 c.core w
    let free := teamChains s0 c.u.team < 32 ∧ (first = none ∨ first = some me)
    let s1 := ((writebackAll s0 c.core).forget fun p => p = .chain n).pass (.unit c.u) (.chain n)
    let started : State := startChain { s1 with copyWait := s1.copyWait.erase me } n va c.core
      (c.team.placeOn c.core) c.u.team c.team.ctx c.launch.nfpol c.team.wins
    ((∃ f, i = .xcopy f ∧ f.a = a) ∨ ∃ f, i = .xcopyy f ∧ f.a = a ∧ ringHeld s0 c.core (bits f.mod 0 6) c.u.team = true) →
    issued i s = some (c, s0) → recordCheck c va 64 .read 64 = none → orderWait s0 c true = false →
    (¬free ∨ idleChannel s0 c.core = none →
      UnitStep i s (if me ∈ s0.copyWait then s0 else { s0 with copyWait := s0.copyWait ++ [me] }) c (ParkedAs c .channel)) ∧
    (free → idleChannel s0 c.core = some n →
      ((started.channel n).st = .reading ∧ (started.channel n).cur = va ∧ (started.channel n).team = c.u.team) ∧
      (∀ f, i = .xcopy f → UnitStep i s started c (AtNext c 1)) ∧
      (∀ f, i = .xcopyy f →
        let target := (((c.rep.pc : Int) + 8 * f.imm.toInt) % 2 ^ 64).toNat
        UnitStep i s started c fun u => u.unplaced = c.us.unplaced ∧ (c.again → u.override = none) ∧
          (c.us.hasStream c.slot → u.thread c.slot =
            { Thread.at target (c.us.thread c.slot).lastIssue with park := .ring (bits f.mod 0 6) target })))) ∧
  (∀ (f : RForm) (s s0 : State) (c : Ctx),
    let k := (sval s0 c f.a).toNat
    let r := s0.ring c.core k
    let mine := ringHeld s0 c.core k c.u.team = true
    (issued (.rinit f) s = some (c, s0) →
      let w := sval s0 c f.b
      let logn := bits w 0 4
      let base := bits w 6 51 * 64
      let bad := 63 < k ∨ bits w 4 2 ≠ 0 ∨ bits w 57 7 ≠ 0 ∨ logn = 0 ∨ 12 < logn ∨ base % (32 * 2 ^ logn) ≠ 0 ∨
        (rgHeld r = true ∧ ¬mine) ∨ (mine ∧ rgRes r ≠ rgR r)
      (bad → exec (.rinit f) s = .next (raiseHere c 0x11 0 0 s0)) ∧
      (¬bad → rangeCheck c.team.wins c.secure .write base (32 * 2 ^ logn) = none →
        let v := setBits (setBits (setBit (setBits (0 : BitVec 256) 0 57 base) 224 true) 64 4 logn) 225 4 (c.team.placeOn c.core)
        UnitStep (.rinit f) s (s0.setRing c.core k v) c (AtNext c 1))) ∧
    (issued (.rawait f) s = some (c, s0) →
      (63 < k ∨ ¬mine → exec (.rawait f) s = .next (raiseHere c 0x11 0 0 s0)) ∧
      (k ≤ 63 → mine → (ringReady r = false ∨ acquireOpen s0 c.u = true) → UnitStep (.rawait f) s s0 c (ParkedAs c .retry)) ∧
      (k ≤ 63 → mine → ringReady r = true → acquireOpen s0 c.u = false →
        UnitStep (.rawait f) s ((acquireL1 s0 c.core).pass (.slot c.core k (rgR r)) (.unit c.u)) c
          (SclWritten c.us (f.d.toNat - 0x100) (BitVec.ofNat 64 (rgR r))))) ∧
    (issued (.rrel f) s = some (c, s0) →
      (63 < k ∨ ¬mine ∨ (loadsReturned s0 c.u = true ∧ ringReady r = false) → exec (.rrel f) s = .next (raiseHere c 0x11 0 0 s0)) ∧
      (k ≤ 63 → mine → loadsReturned s0 c.u = false → UnitStep (.rrel f) s s0 c (ParkedAs c .retry)) ∧
      (k ≤ 63 → mine → loadsReturned s0 c.u = true → ringReady r = true →
        UnitStep (.rrel f) s (s0.setRing c.core k (setBits r 128 32 (rgR r + 1))) c (AtNext c 1))))

/-- R218 to R228, R412: COPEN binds the record's streams at their starts; CFORM queues the batch it has filled and its status,
and the group's batch registers are empty until write-back; CSAVE stores the cursor; CREST restores one, or unbinds. Which COPEN
a trap return issues again is the model's reading (log 75). -/
def Obligations.CoordinateInstructions : Prop :=
  ∀ (f : RForm) (s s0 : State) (c : Ctx),
    (issued (.copen f) s = some (c, s0) → coordWait s0 c = false →
      let va := if f.a.toNat < 0x100 then pairOf c.us f.a.toNat (c.lanes.headD 0) else (sval s0 c f.a).toNat
      ∀ (bs : Bytes) (s1 : State) (a b : CStream) (op : Nat), readAtIssue c va 64 s0 = (.ok bs, s1) →
        bindingRecord (BitVec.ofNat 512 (natOf bs)) = some (a, b, op) →
        UnitStep (.copen f) s (noteCopen c (setBinding (coordAcquire s1 c) c (some
          { fault := false, fside := false, byCaller := c.caller, op := op, brec := va, opGrp := c.u.grp.getD 0, emit := false
            fcause := 0, sa := a, sb := b, stopAddr := 0, stopInfo := 0, copen := copenRep c }))) c (AtNext c 1)) ∧
    (issued (.cform f) s = some (c, s0) → ∀ (b : Binding) (gu : UnitState) (els : List (List W32)) (e : CEnd) (p : CPair) (s1 : State),
      let g := (sval s0 c f.a).toNat
      let lim := (sval s0 c f.b).toNat
      bindingOf s0 c = some b → b.fault = false → s0.unit? ⟨c.u.team, some g⟩ = some gu → gu.exited = false → gu.isEmpty 0 3 = false →
      gu.isEmpty 0x101 1 = false → gu.isEmpty 0x102 1 = false → c.again = false → formAhead s0 c.team.home = none →
      fillBatch c.team.home c.team.wins b.op (if lim = 0 ∨ c.launch.width < lim then c.launch.width else lim) [] ⟨b.sa, b.sb⟩ s0 =
        (els, e, p, s1) → (e = .cont ∨ e = .done ∨ e = .wait) →
      ∃ t u a, exec (.cform f) s = .next t ∧ t.inflight = s1.inflight ++ [a] ∧ a.u = c.u ∧ a.dst = some f.d.toNat ∧
        (e ≠ .wait → a.kind = .batch g (lowMask els.length) (cformStatus els.length (decide (e = .cont))
            (!b.emit && decide (els ≠ [])) false (decide (e = .done))) ∧
          a.lanes.map (fun x => (x.lane, x.st)) = (List.range els.length).map (fun l => (l, .done (els.getD l [])))) ∧
        (e = .wait → ∃ k, a.kind = .form g k els ∧ a.lanes.map (·.st) = [.waiting]) ∧
        bindingOf t c = some { b with sa := p.a, sb := p.b, emit := b.emit || (decide (e ≠ .wait) && decide (els ≠ [])) } ∧
        t.mem = s1.mem ∧ t.unit? c.u = some u ∧ UnitKept c.us u ∧ u.isEmpty f.d.toNat 1 = true ∧
        (∀ w, t.unit? ⟨c.u.team, some g⟩ = some w → UnitKept gu w ∧ w.isEmpty 0 1 ∧ w.isEmpty 1 1 ∧ w.isEmpty 2 1 ∧
          w.isEmpty 0x101 1 ∧ w.isEmpty 0x102 1) ∧
        (∀ q, q ≠ c.u → q ≠ ⟨c.u.team, some g⟩ → t.unit? q = s1.unit? q)) ∧
    (issued (.cform f) s = some (c, s0) → ∀ (b : Binding) (gu : UnitState),
      let g := (sval s0 c f.a).toNat
      bindingOf s0 c = some b → s0.unit? ⟨c.u.team, some g⟩ = some gu → c.again = false →
      (gu.exited = true → exec (.cform f) s = .next (raiseHere c 0x07 0 0 s0)) ∧
      (gu.exited = false → (gu.isEmpty 0 3 || gu.isEmpty 0x101 1 || gu.isEmpty 0x102 1) = true →
        UnitStep (.cform f) s s0 c (ParkedAs c .retry)) ∧
      (gu.exited = false → (gu.isEmpty 0 3 || gu.isEmpty 0x101 1 || gu.isEmpty 0x102 1) = false → formAhead s0 c.team.home ≠ none →
        ∃ t a k, exec (.cform f) s = .next t ∧ t.inflight = s0.inflight ++ [a] ∧ a.u = c.u ∧ a.dst = some f.d.toNat ∧
          a.kind = .form g k [] ∧ t.mem = s0.mem)) ∧
    (issued (.cform f) s = some (c, s0) → c.again = false →
      bindingOf s0 c = none ∨ s0.unit? ⟨c.u.team, some (sval s0 c f.a).toNat⟩ = none →
      exec (.cform f) s = .next (raiseHere c 0x07 0 0 s0)) ∧
    (issued (.csave f) s = some (c, s0) → coordWait s0 c = false → ∀ (ia : Nat) (s1 : State),
      translate c.team.wins c.secure .write (sval s0 c f.a).toNat 32 = .ok ia → homeSlice ia ≠ none →
      overlaps s0 c.u true [(ia, 32)] = false → scalarHome c true ia (sval s0 c f.a).toNat 32 s0 = .ok s1 →
      UnitStep (.csave f) s (coreWrite s1 c.core ia 0 (bytesOf 32 (match bindingOf s1 c with | some b => cursorOf b | none => 0))) c
        (AtNext c 1)) ∧
    (issued (.crest f) s = some (c, s0) → coordWait s0 c = false →
      ∀ (bs rs : Bytes) (s1 s2 s3 s4 : State) (a b : CStream) (op : Nat),
      let v : BitVec 256 := BitVec.ofNat 256 (natOf bs)
      readAtIssue c (sval s0 c f.a).toNat 32 (crestAcquire c (sval s0 c f.a).toNat s0) = (.ok bs, s1) →
      (v.getLsbD 0 = false → UnitStep (.crest f) s (setBinding s1 c none) c (AtNext c 1)) ∧
      (v.getLsbD 0 = true → bits v 4 2 ≠ 3 → bits v 100 4 ≤ 6 → bits v 195 5 = 0 →
        readAtIssue c (bits v 6 51 * 64) 64 s1 = (.ok rs, s2) →
        bindingRecord (BitVec.ofNat 512 (natOf rs)) = some (a, b, op) →
        cursorStream s2 c (streamAt a (v.extractLsb' 64 96)) = (.ok true, s3) →
        cursorStream s3 c (streamAt b (v.extractLsb' 160 96)) = (.ok true, s4) →
        let x : Binding :=
          { fault := false, fside := false, byCaller := v.getLsbD 3, op := bits v 4 2, brec := bits v 6 51 * 64, opGrp := bits v 57 7
            emit := v.getLsbD 99, fcause := 0, sa := streamAt a (v.extractLsb' 64 96), sb := streamAt b (v.extractLsb' 160 96)
            stopAddr := 0, stopInfo := 0, copen := tget { copenRep c with instr := none } c.team.copens (bits v 57 7) }
        ∀ (y : Binding) (s5 : State),
          (freshHeads s4 c x = (none, s5) → UnitStep (.crest f) s s5 c (ParkedAs c .retry)) ∧
          (freshHeads s4 c x = (some (y, none), s5) → UnitStep (.crest f) s (setBinding s5 c (some y)) c (AtNext c 1)) ∧
          (∀ e, freshHeads s4 c x = (some (y, some e), s5) → byCallerNow c.team y = true →
            UnitStep (.crest f) s (setBinding s5 c (some y)) c (AtNext c 1)) ∧
          (∀ e, freshHeads s4 c x = (some (y, some e), s5) → byCallerNow c.team y = false →
            exec (.crest f) s = .next (advance c 1 (raiseStop (setBinding s5 c (some y)) c.u.team y e)) ∧
            (setBinding s5 c (some y)).mem = s5.mem)))

/-- R256 to R259, R266, R267, R269, R418 to R420: COLL hands its record to the collective engine of the die, after a write-back
of the core's dirty bytes, and goes on though its start waits for a moving page; PCNT gives a tile's status word, of an operation that
the engine holds or from its work area, as an acquire at scope 3, and its unit goes on while a page keeps it waiting; the failure of
an operation is reported once. CCANCEL of an operation that the engine of the die does not hold, and a cancellation with nothing to
stop, do nothing; the others give their message to the engine, and do not wait for it to be sent. -/
def Obligations.CollectiveInstructions : Prop :=
  ∀ (f : RForm) (s s0 : State) (c : Ctx),
    let va := (sval s0 c f.a).toNat
    (issued (.coll f) s = some (c, s0) → ∀ (bs : Bytes) (r : TexRun) (op : CollOp) (s2 : State),
      let x : BitVec 512 := BitVec.ofNat 512 (natOf bs)
      recordCheck c va 64 .read 64 = none → readPieces c va 64 { s := s0, stop := none, addr := 0 } = (bs, r) → r.stop = none →
      let seen : State → State := fun t => t.modTeam c.u.team fun t => { t with collSeen := t.collSeen.erase (va, coOpid x) }
      ((collBad x = true ∨ (heldOp r.s c.team.ctx va).isSome) → exec (.coll f) s = .next (raiseHere c 0x07 0 0 r.s)) ∧
      (collBad x = false → heldOp r.s c.team.ctx va = none → (dieOps r.s (c.core / 32)).length < 16 → orderWait r.s c true = false →
        let s1 := ((writebackAll r.s c.core).forget fun p => p = .coll c.team.ctx va).pass (.unit c.u) (.coll c.team.ctx va)
        let first : CollOp := { (default : CollOp) with
          ctx := c.team.ctx, opid := coOpid x, recAddr := va, record := x, team := c.u.team, core := c.core
          pos := corePos c.team c.core, failRank := coRank x, pol := c.launch.nfpol, wins := c.team.wins }
        let held : CollOp → State := fun op => { s1 with collOps := s1.collOps ++ [op], collDone := s1.collDone.filter fun d => !sameOp d.op op }
        let starts := coRingen x = false ∨ ringHeld s1 c.core (coRing x) c.u.team = true
        (¬starts → UnitStep (.coll f) s (seen (held { first with finish := some 0x0A })) c (AtNext c 1)) ∧
        (starts → startColl (held first) first = none → UnitStep (.coll f) s (seen (held first)) c (AtNext c 1)) ∧
        (starts → startColl (held first) first = some (op, s2) →
          let op1 := { op with begun := true }
          UnitStep (.coll f) s (seen (takeAborts (s2.putColl op1) op1)) c (AtNext c 1)))) ∧
    (issued (.pcnt f) s = some (c, s0) → acquiring s0 c.u = false → ∀ op, heldOp s0 c.team.ctx va = some op →
      let t := (sval s0 c f.b).toNat
      (op.nt ≤ t → exec (.pcnt f) s = .next (raiseHere c 0x07 0 0 s0)) ∧
      (t < op.nt → unreported s0 c va = none →
        Queues (.pcnt f) s (acquireL1 s0 c.core) c f.d 1 fun y a =>
          a.lanes.map (·.st) = [.done (words32 2 (op.word t).toNat)] ∧ y.mem = s0.mem)) ∧
    (issued (.pcnt f) s = some (c, s0) → acquiring s0 c.u = false → ∀ s1,
      let run := pcntRun c s0.nextId va (sval s0 c f.b).toNat s0
      (∀ w, run = (.word w, s1) → Queues (.pcnt f) s (acquireL1 s1 c.core) c f.d 1 fun y a =>
        a.lanes.map (·.st) = [.done (words32 2 w.toNat)] ∧ y.mem = s1.mem) ∧
      (∀ h, run = (.wait h, s1) → Queues (.pcnt f) s s1 c f.d 1 fun _ a =>
        a.kind = .request ∧ a.lanes.map (fun x => (x.ia, x.st)) = [(h.ia, h.status)]) ∧
      (run = (.tile, s1) → exec (.pcnt f) s = .next (raiseHere c 0x07 0 0 s1)) ∧
      (∀ opid, run = (.failed opid, s1) →
        let told := tellFailure s1 c.u.team va opid
        exec (.pcnt f) s = .next (raiseHere c 0x12 told.1 0 told.2) ∧ told.1.getLsbD 16 = true)) ∧
    (∀ (a : Access) (l : LaneAcc) (w : W64) (s1 : State), s.access? a.id = some a → a.kind = .request →
      a.rep.instr = some (.pcnt f) → a.lanes = [l] → l.lane = 0 → l.st = .waiting → engineCtx s a = some c → replayTurn s a.id 0 (pageOf l.ia) = true →
      redAhead s a.core l.ia a.id = false → olderOpen s a.u a.id l.ia l.size = false →
      pcntRun c a.id (a.heldS.getD 0 0).toNat (a.heldS.getD 1 0).toNat (replayDone s a.id 0) = (.word w, s1) →
      exec (.translationAccess a.id 0) s = .next ((pcntAcquire s1 a.u c.team.ctx (a.heldS.getD 0 0).toNat w).modAccess a.id fun x =>
        x.setLane 0 (.done (words32 2 w.toNat)))) ∧
    (∀ i : Instr, i = .ccancel f ∨ (i = .ccancelCut f ∧ 1 ≤ (sval s0 c f.b).toNat ∧ (sval s0 c f.b).toNat ≤ 32) →
      issued i s = some (c, s0) → cancelledOp s0 c va = none →
      UnitStep i s s0 c (AtNext c 1)) ∧
    (∀ op, cancelledOp s0 c va = some op →
      let b := sval s0 c f.b
      (issued (.ccancel f) s = some (c, s0) →
        let p := bits b 0 10
        (coP op.record ≤ p → exec (.ccancel f) s = .next (raiseHere c 0x07 0 0 s0)) ∧
        (p < coP op.record → (coEnc op.record = 0 ∨ p = op.rank ∨ op.cutK.isSome ∨ op.finish.isSome ∨ p ∈ op.scut) →
          UnitStep (.ccancel f) s s0 c (AtNext c 1)) ∧
        (p < coP op.record → coEnc op.record ≠ 0 → p ≠ op.rank → op.cutK = none → op.finish = none → p ∉ op.scut →
          let r := sendOrQueue s0 { op with scut := op.scut ++ [p] } p .streamStop
          let tiles := applyTiles r.2 r.1 (List.range r.1.nt)
          (op.begun = false ∨ tiles = none → UnitStep (.ccancel f) s (r.2.putColl { r.1 with due := true }) c (AtNext c 1)) ∧
          (∀ (op' : CollOp) (s2 : State), op.begun = true → tiles = some (op', s2) →
            UnitStep (.ccancel f) s (s2.putColl op') c (AtNext c 1)))) ∧
      (issued (.ccancelCut f) s = some (c, s0) →
        (b.toNat = 0 ∨ 32 < b.toNat → exec (.ccancelCut f) s = .next (raiseHere c 0x07 0 0 s0)) ∧
        (1 ≤ b.toNat → b.toNat ≤ 32 → coEnc op.record ≠ 0 → op.finish = none →
          let r := sendOrQueue s0 op 0 (.cutRequest b.toNat)
          UnitStep (.ccancelCut f) s (r.2.putColl r.1) c (AtNext c 1))) ∧
      (∀ (r : Nat) (m : CollBody) (s1 : State), (op.begun = false ∨ op.outbox ≠ [] ∨ sendBody s0 op r m = (.wait, s1) →
          sendOrQueue s0 op r m = ({ op with outbox := op.outbox ++ [(r, m)] }, s0)) ∧
        (op.begun = true → op.outbox = [] → sendBody s0 op r m = (.ok, s1) → sendOrQueue s0 op r m = (op, s1))))

/-- R51, R52, R422 to R425: once the peer's entry has been read, NSTORE posts one RDMA WRITE for each run of lanes with
contiguous remote addresses, NFETCH one READ for each run or one atomic for each lane, whose destinations wait for the
responses, and NSIG one FETCH_ADD. An NSIG whose group has a network status raises cause 0x12; one to a misaligned address or to one
from 2^57 on faults with 0x05 or 0x07, and waits for the faulted lanes of the network instructions before it. The reading of the
peer's entry in one step, and that it waits for those to any peer, are the model's choice (logs 46, 114). -/
def Obligations.NetworkInstructions : Prop :=
  ∀ (f : RForm) (s s0 s1 : State) (c : Ctx) (id : BitVec 10) (p : Peer) (good : List (Nat × Nat)),
    withPeer c f.b s0 = .ok id p s1 →
    (issued (.nstore f) s = some (c, s0) → acquiring s0 c.u = false → remoteLanes s1 c f.a (netBytes f) = (good, []) →
      UnitStep (.nstore f) s ((netRuns c (netBytes f) good).foldl (fun s r =>
        post s p.port p.conn (.write r.2 p.rkey
          (r.1.flatMap fun l => bytesOf (netBytes f) (ofWords32 (dataWords s1 c f.d (netRegs f) l))) none) (.store c.u id)) s1).fresh.2 c
        fun u => u.vregs = c.us.vregs ∧ u.sregs = c.us.sregs ∧ u.x = c.us.x) ∧
    (∀ i : Instr, (i = .nfetchRd f ∨ i = .nfetchAdd f ∨ i = .nfetchCas f) → issued i s = some (c, s0) → acquiring s0 c.u = false →
      remoteLanes s1 c f.a (netBytes f) = (good, []) → good ≠ [] → (s1.conn (connKey p.port p.conn)).err = false →
      Queues i s s1 c f.d (netRegs f) fun t a => a.kind = .fetch ∧
        a.lanes.map (fun x => (x.lane, x.va, x.st)) = good.map (fun q => (q.1, q.2, .waiting)) ∧ t.mem = s1.mem) ∧
    (∀ k, c.us.net = some k → issued (.nsig f) s = some (c, s0) → exec (.nsig f) s = .next (raiseHere c 0x12
      (BitVec.ofNat 64 (k.2.toNat * 2 ^ 42 + k.1.toNat * 2 ^ 45)) 0 s0)) ∧
    (issued (.nsig f) s = some (c, s0) → c.us.net = none → (acquiring s0 c.u = true ∨ netFaulted s0 c.u = true) →
      UnitStep (.nsig f) s s0 c (ParkedAs c .retry)) ∧
    (issued (.nsig f) s = some (c, s0) → c.us.net = none → acquiring s0 c.u = false → netFaulted s0 c.u = false →
      let va := (sval s1 c f.a).toNat
      (va % 8 ≠ 0 → exec (.nsig f) s = .next (raiseUniform c 0x05 atIssue va 1 s1)) ∧
      (va % 8 = 0 → 2 ^ 57 ≤ va → exec (.nsig f) s = .next (raiseUniform c 0x07 atIssue va 1 s1))) ∧
    (issued (.nsig f) s = some (c, s0) → c.us.net = none → acquiring s0 c.u = false → netFaulted s0 c.u = false →
      let va := (sval s1 c f.a).toNat
      va % 8 = 0 → va < 2 ^ 57 →
      UnitStep (.nsig f) s (post s1 p.port p.conn (.fetchAdd va p.rkey (sval s1 c f.d)) (.signal c.u id)) c
        fun u => u.vregs = c.us.vregs ∧ u.sregs = c.us.sregs ∧ u.x = c.us.x)

/-- R170 to R172, R254, R255: the version instructions act on the record at once, at its home: VPUB opens the inactive buffer or
publishes it, VPIN adds a pin and gives word 0, VUNPIN takes one away. A record that does not allow it raises cause 0x13 and is
not written. A VPIN whose page keeps it waiting stays in flight while its unit goes on, and acts when the page lets it. R338 to R340: PMAP and MIGR check the address, the frame and the page's context, hand the change to the coordinator
and park; once it is complete, its answer is written into D. That the version instructions act in one step is the model's
reading (log 25). -/
def Obligations.VersionsAndPages : Prop :=
  (∀ (f : RForm) (s s0 s1 : State) (c : Ctx) (i : Instr) (rel acq pin : Bool) (new : VRec → Option VRec) (ia : Nat),
    let va := (sval s0 c f.a).toNat
    let n := bits (sval s0 c f.b) 0 1
    (i, rel, acq, pin, new) ∈
      [(.vpubOpen f, false, false, false, fun r => if r.wopen || r.rd (1 - r.act) ≠ 0 then none else some { r with w2 := 1 }),
       (.vpubPub f, true, false, false, fun r =>
         if !r.wopen then none else some { r with w2 := 0, w0 := setBits (r.w0 + 2) 0 1 (1 - r.act) }),
       (.vpin f, false, true, true, fun r => if r.rd r.act = 2 ^ 32 - 1 then none else some (r.setRd r.act (r.rd r.act + 1))),
       (.vunpin f, true, false, false, fun r => if r.rd n = 0 then none else some (r.setRd n (r.rd n - 1)))] →
    issued i s = some (c, s0) → recordCheck c va 64 .rw 64 = none → translate c.team.wins c.secure .rw va 64 = .ok ia →
    orderWait s0 c rel = false → (c.again = true ∨ overlaps s0 c.u true [(ia, 24)] = false) → redAhead s0 c.core ia s0.nextId = false →
    (homeSlice ia).isSome → (pin = false → scalarHome c true ia va 24 s0 = .ok s1) →
    (pin = true → homeCheck s0 c.u c.secure true ia = (.ok, s1)) → (∀ j, j < 24 → homeBad s1 (ia + j) = false) →
    let s2 := flushSector (if rel then releaseAll s1 c else s1) c.core ia
    let sr := recallLine (promoteFor s2 (lineOf ia) (ctxScope s1 c 3) none) (lineOf ia) none
    let s3 := mscFill (sr.countHome ia (sr.coreTag c.core) 0x05) ia 0 (sr.coreTag c.core)
    let w : Nat → W64 := fun k => BitVec.ofNat 64
      (natOf ((List.range 8).map fun j => readOf s3 (ia + 8 * k + j) (homeByte s3 (ia + 8 * k + j))))
    let r : VRec := ⟨w 0, bits (w 1) 0 32, bits (w 1) 32 32, w 2⟩
    (bits r.w2 1 63 ≠ 0 ∨ new r = none → exec i s = .next (raiseHere c 0x13 0 0 s3)) ∧
    (∀ x, bits r.w2 1 63 = 0 → new r = some x →
      let published := if x.act = r.act then s3 else (s3.forget fun p => p = .version ia).pass (.unit c.u) (.version ia)
      let s4 := mscWrite published ia (s3.coreTag c.core)
        (bytesOf 8 x.w0.toNat ++ bytesOf 4 x.rd0 ++ bytesOf 4 x.rd1 ++ bytesOf 8 x.w2.toNat)
      (pin = false → acq = false ∧ UnitStep i s s4 c (AtNext c 1)) ∧
      (pin = true → acq = true ∧ Queues i s (acquireL1 s4 c.core) c f.d 1 fun t a =>
        a.lanes.map (·.st) = [.done (words32 2 r.w0.toNat)] ∧ t.mem = s4.mem))) ∧
  (∀ (f : RForm) (s s0 s1 : State) (c : Ctx) (ia : Nat) (w : ParkPlace),
    let va := (sval s0 c f.a).toNat
    issued (.vpin f) s = some (c, s0) → recordCheck c va 64 .rw 64 = none → translate c.team.wins c.secure .rw va 64 = .ok ia →
    orderWait s0 c false = false → (c.again = true ∨ overlaps s0 c.u true [(ia, 24)] = false) → redAhead s0 c.core ia s0.nextId = false →
    (homeSlice ia).isSome → homeCheck s0 c.u c.secure true ia = (.park w, s1) →
    Queues (.vpin f) s s1 c f.d 1 fun _ a => a.kind = .request ∧ a.lanes.map (fun x => (x.ia, x.st)) = [(ia, .parked)]) ∧
  (∀ (s s1 s2 : State) (a : Access) (l : LaneAcc) (c : Ctx) (f : RForm) (r : VRec), s.access? a.id = some a → a.kind = .request →
    a.rep.instr = some (.vpin f) → a.lanes = [l] → l.lane = 0 → l.st = .waiting → engineCtx s a = some c → replayTurn s a.id 0 (pageOf l.ia) = true →
    redAhead s a.core l.ia a.id = false → olderOpen s a.u a.id l.ia l.size = false →
    homeCheck (replayDone s a.id 0) a.u c.secure true l.ia = (.ok, s1) → (∀ j, j < 24 → homeBad s1 (l.ia + j) = false) →
    versionAct s1 a.u a.core l.ia (ctxScope s1 c 3) pinned = (some r, s2) →
    exec (.translationAccess a.id 0) s = .next ((s2.pass (.version l.ia) (.unit a.u)).modAccess a.id fun x =>
      x.setLane 0 (.done (words32 2 r.w0.toNat)))) ∧
  (∀ (f : RForm) (s s0 : State) (c : Ctx) (i : Instr) (ro : Bool) (who : ChangeFor) (ia : Nat),
    (i, ro, who) ∈ [(.pmap f, f.mod.getLsbD 0, .pmap c.u c.slot), (.migr f, false, .migr (some (c.u, c.slot)))] →
    issued i s = some (c, s0) →
    let va := (sval s0 c f.a).toNat
    let b := sval s0 c f.b
    let frame := b.toNat % 2 ^ 24
    let park := (c.us.thread c.slot).park
    (∀ v, park = .page (some v) → UnitStep i s s0 c (SclWritten c.us (f.d.toNat - 0x100) v)) ∧
    ((∀ a, park ≠ .page a) → translate c.team.wins c.secure .none va 1 = .ok ia → (homeSlice ia).isSome →
      (secureAddr s0 ia = true → c.secure = true) →
      let bad := frame < (s0.ctxReg c.team.ctx 0x87).toNat ∨ (s0.ctxReg c.team.ctx 0x88).toNat < frame ∨ bits b 24 40 ≠ 0 ∨
        bits (pte s0 (pageOf ia)) 8 12 ≠ c.team.ctx
      (bad → exec i s = .next (raiseHere c 0x07 0 0 s0)) ∧
      (¬bad → UnitStep i s { s0 with mem := { s0.mem with changes := s0.mem.changes ++
        [⟨pageOf ia, presentEntry frame c.team.ctx ro, who⟩] } } c (ParkedAs c (.page none)))))

/-- R171, R184, R234, R236, R242, R428 to R431: VEMIT writes vertex slots; PEMIT gives each lane's primitive the next sequence of its
team, and does not wait for the page of a spill record, which is written when its turn comes (log 61); FOUT keeps an output of each lane for its target, and under
policy 2 a non-finite one raises cause 0x10 later (log 60); RFENCE waits until every write up to a sequence has been performed.
Outside their kind of kernel the first three raise cause 0x15. -/
def Obligations.GraphicsInstructions : Prop :=
  ∀ (f : RForm) (s s0 : State) (c : Ctx),
    (∀ i : Instr, i = .vemit f ∨ i = .pemit f → issued i s = some (c, s0) → geometryOf s0 c = none →
      exec i s = .next (raiseHere c 0x15 0 0 s0)) ∧
    (∀ (k draw nattr : Nat) (st : Stream), geometryOf s0 c = some (k, st, draw, nattr) →
      (issued (.vemit f) s = some (c, s0) → coordGate c f.a f.fea (4 + nattr) = .go →
        let slot : Nat → Nat := fun l => if f.b.toNat < 0x100 then (c.us.vreg f.b.toNat l).toNat else (sval s0 c f.b).toNat + l
        ((∃ l ∈ c.lanes, 255 < slot l) → exec (.vemit f) s = .next (raiseHere c 0x15 0 0 s0)) ∧
        let stored : Table (List W32) → Table (List W32) :=
          c.lanes.foldl fun v l => tset [] v (slot l) (dataWords s0 c f.a (4 + nattr) l)
        ((∀ l ∈ c.lanes, slot l ≤ 255) →
          UnitStep (.vemit f) s (s0.modTeam c.u.team fun t => { t with verts := stored t.verts }) c (AtNext c 1))) ∧
      (issued (.pemit f) s = some (c, s0) →
        let word : Nat → W32 := fun l => c.us.vreg f.a.toNat l
        let mask : Nat → BitVec 128 := fun l =>
          BitVec.ofNat 128 (if f.b.toNat < 0x100 then ofWords32 (dataWords s0 c f.b 4 l) else (sval s0 c f.b).toNat)
        let vert : Nat → List W32 := fun n => (List.range (4 + nattr)).map fun j => (tget [] c.team.verts n).getD j 0
        (4096 < c.team.emits + c.lanes.length ∨ (∃ l ∈ c.lanes, bits (word l) 24 8 ≠ 0) →
          exec (.pemit f) s = .next (raiseHere c 0x15 0 0 s0)) ∧
        (c.team.emits + c.lanes.length ≤ 4096 → (∀ l ∈ c.lanes, bits (word l) 24 8 = 0) →
          UnitStep (.pemit f) s ((c.lanes.zip (List.range c.lanes.length)).foldl (fun s p =>
            acceptEmit s k (c.core / 32) c.u.team
              { seq := draw * 2 ^ 32 + c.team.index * 4096 + (c.team.emits + p.2), mask := mask p.1, nattr := nattr
                verts := [vert (bits (word p.1) 0 8), vert (bits (word p.1) 8 8), vert (bits (word p.1) 16 8)] }) s0) c
            (AtNext c 1))) ∧
      (∀ m : Emit, forwards st (c.core / 32) c.u.team = false → s0.stream? k = some st →
        let at' : Emit := { m with record := some (spillAddr st (c.core / 32)) }
        acceptEmit s0 k (c.core / 32) c.u.team m =
          match rasterWrite s0 k st (spillAddr st (c.core / 32)) (spillBytes m) with
          | some s1 => queueEmit s1 k (c.core / 32) c.u.team 1 at'
          | none => queueEmit s0 k (c.core / 32) c.u.team 1 { at' with late := true })) ∧
    (issued (.fout f) s = some (c, s0) →
      (∀ k d, c.launch.role ≠ .fragment k d) → exec (.fout f) s = .next (raiseHere c 0x15 0 0 s0)) ∧
    (∀ k d, issued (.fout f) s = some (c, s0) → c.launch.role = .fragment k d →
      let rtn := match s0.stream? k with | some st => rsRtn st | none => 0
      let target := (sval s0 c f.a).toNat
      let w := match s0.stream? k with | some st => targetWord st target | none => 0
      let g := c.u.grp.getD 0
      let value : Nat → List W32 := fun l => dataWords s0 c f.d 4 l
      let bad := c.lanes.filter fun l => sendsNonFinite w (value l)
      (target = 0 ∨ rtn < target → exec (.fout f) s = .next (raiseHere c 0x15 0 0 s0)) ∧
      let kept : List Fout → List Fout := c.lanes.foldl fun o l =>
        (o.filter fun x => !(x.unit = g && x.lane = l && x.target = target)) ++ [⟨g, l, target, value l⟩]
      (target ≠ 0 → target ≤ rtn → (c.launch.nfpol = 2 → bad = []) →
        UnitStep (.fout f) s (s0.modTeam c.u.team fun t => { t with outs := kept t.outs }) c (AtNext c 1)) ∧
      (target ≠ 0 → target ≤ rtn → c.launch.nfpol = 2 → bad ≠ [] → c.us.handler = none → c.us.exited = false →
        ∃ t u, exec (.fout f) s = .next t ∧ t.unit? c.u = some u ∧ UnitKept c.us u ∧
          (t.team? c.u.team).map (·.outs) = some (kept c.team.outs) ∧ t.mem = s0.mem ∧
          ∃ p ∈ u.pending, p.cause = 0x10 ∧ p.level = 1 ∧ p.f &&& maskOf bad = maskOf bad)) ∧
    (issued (.rfence f) s = some (c, s0) →
      let waits := (∃ p ∈ s0.streams, p.2.ctx = c.team.ctx ∧ p.2.rsdesc = (sval s0 c f.a).toNat ∧
        performedUpTo p.2 (sval s0 c f.b).toNat = false) ∨ acquiring s0 c.u = true
      (waits → UnitStep (.rfence f) s s0 c (ParkedAs c .retry)) ∧
      (¬waits → UnitStep (.rfence f) s (acquireL1 s0 c.core) c (AtNext c 1)))

/-! ## The package (R14 to R32) -/

/-- R14, R15, R16, R20: what the input supply, the power cap and the junction sensors do. A loss of power leaves what the flash
and the fuses hold; a low input or a hot die slows the dies, with the alert set; a step change sets CLKSTAT.CHG. At 110 °C every
queue with a running entry is told, with a free error status, and the module is off. How far a cap lowers the steps, and the
free status, are the model's (log 55), and so is what a loss of power leaves (log 77). It says where each of
inputOvervoltageDisconnect, inputDropoutExpiry, inputPowerReturn, inputVoltageHighBand, inputVoltageLowBand, inputDropout,
inputVoltageRestored, powerCapCheck, thermalThresholdCrossed, thermalDropTimer, aclkClimbTimer and thermalHalt completes. -/
def Obligations.PowerAndClocks : Prop :=
  ∀ (s : State) (d : Nat), s.pkg.dies.length = 4 → d < 4 →
    let x := s.die d
    let steps : Die → Nat → Die := fun x n => { x with step := n, chg := x.chg || decide (n ≠ x.step) }
    let slower := min 3 (x.step + 1)
    (∀ i ∈ [Instr.inputOvervoltageDisconnect, .inputDropoutExpiry], ∃ t, exec i s = .next t ∧ PowerLost s .off .inReset false t) ∧
    (∃ t, exec .inputPowerReturn s = .next t ∧ if s.pkg.power = .off then PowerLost s .active .inReset false t else t = s) ∧
    (∃ t, exec .inputVoltageHighBand s = .next t ∧ { t with pkg := s.pkg } = s ∧
      t.pkg = { s.pkg with inputHold := false, inputHigh := true, alerts := { s.pkg.alerts with voltage := true } }) ∧
    (∀ i ∈ [Instr.inputVoltageLowBand, .inputDropout], ∃ t, exec i s = .next t ∧ { t with pkg := s.pkg } = s ∧
      t.pkg = { s.pkg with inputHold := true, inputHigh := false, alerts := { s.pkg.alerts with voltage := true }
                           dies := s.pkg.dies.map fun y => steps y 3 }) ∧
    exec .inputVoltageRestored s = .next { s with pkg := { s.pkg with inputHold := false, inputHigh := false } } ∧
    (∀ w, exec (.powerCapCheck w d) s = .next (s.setDie d (if s.pkg.cap < w then steps { x with capFloor := slower } slower
      else { x with capFloor := 0 }))) ∧
    (∀ k temp, k < 8 → ∃ t, exec (.thermalThresholdCrossed (8 * d + k) temp) s = .next t ∧ { t with pkg := s.pkg } = s ∧
      let y := { x with temps := x.temps.set k temp }
      (hottest y < 95 → t.pkg = (s.setDie d { y with hot := false }).pkg) ∧
      (95 ≤ hottest y → x.hot = true → t.pkg = (s.setDie d { y with hot := true }).pkg) ∧
      (95 ≤ hottest y → x.hot = false →
        t.pkg = { (s.setDie d (steps { y with hot := true } slower)).pkg with alerts := { s.pkg.alerts with thermal := true } })) ∧
    (∃ t, exec (.thermalDropTimer d) s = .next t ∧
      if x.hot = true ∧ 95 ≤ hottest x then
        t = { s with pkg := { (s.setDie d (steps x slower)).pkg with alerts := { s.pkg.alerts with thermal := true } } }
      else t = s) ∧
    exec (.aclkClimbTimer d) s = .next (if s.pkg.inputHold = true ∨ 90 ≤ hottest x then s
      else s.setDie d (steps x (max x.capFloor (x.step - 1)))) ∧
    ∀ k temp, k < 8 → ∃ t, exec (.thermalHalt (8 * d + k) temp) s = .next t ∧
      if temp < 110 ∨ s.pkg.power = .off then t = s
      else t.pkg.power = .off ∧ t.pkg.boot = .halted ∧ t.pkg.alerts.thermal = true ∧ t.pkg.i3c = s.pkg.i3c ∧ t.teams = [] ∧
        t.contexts = [] ∧ t.mem.hbm = [] ∧
        ∀ q x, (q, x) ∈ s.queues → (∃ e ∈ x.window, e.st = .started) → s.queues.Pairwise (fun a b => a.1 ≠ b.1) → x.halt = false →
          ∀ c, s.conn (connKey (bits x.desc 192 3) (bits x.desc 196 12)) = c → c.valid = true → c.err = false →
            ∃ st psn, 1 ≤ st ∧ st < 256 ∧ Packet.request (bits x.desc 192 3) (bits x.desc 196 12) psn (.write (bits x.desc 128 64) (x.desc.extractLsb' 224 32)
              (bytesOf 8 (x.ridx.toNat + st * 2 ^ 32 + (if x.cont then 2 ^ 40 else 0))) none) ∈ t.wire

/-- R21, R22, R32: a reset runs slot A, or slot B where A is rejected, or the recovery state; an image is run in the recovery
state only, and only with both keys, both signatures and its security version right. The sideband answers once the module has an
address, and stores a cap within its limits. The signature checks are opaque constants (log 11); what outlives a loss of power,
and that requests without an address are ignored, are the model's choice (log 77). It says where each of moduleReset,
dynamicAddressAssignment, deliverImage, readBootState, setPowerCap, readJunctionSensors, readAlertCauses and clearAlertCauses
completes. -/
def Obligations.BootAndSideband : Prop :=
  ∀ (s : State),
    let accepted : Image → Prop := fun img => img.keyRsa = s.pkg.fusedRsa ∧ img.keySlh = s.pkg.fusedSlh ∧
      Config.verifyRsa img.keyRsa (Config.headerBytes img ++ img.bytes) img.sigRsa = true ∧
      Config.verifySlh img.keySlh (Config.headerBytes img ++ img.bytes) img.sigSlh = true ∧ s.pkg.fusedSvn.toNat ≤ img.svn.toNat
    let runs : Image → Bool → State → Prop := fun img recov t =>
      t.pkg.boot = .running ∧ t.pkg.mroot = Config.sha384 img.bytes ∧ t.pkg.bootRecov = recov ∧ t.pkg.boots = s.pkg.boots + 1 ∧
      t.pkg.worldLock = true ∧ t.pkg.worldSets = img.cfg.worldSets ∧ t.pkg.worldPorts = img.cfg.worldPorts ∧
      t.mgmt.key = img.cfg.mgmtKey ∧ t.mgmt.nbase = img.cfg.nbase ∧ t.mgmt.qtab = img.cfg.qtab ∧
      ∀ p, p < 8 → (t.conn (connKey p 0)).valid = true ∧ (t.conn (connKey p 0)).entry.getLsbD 2 = true
    let reset : State → Prop := fun t => t.pkg.power = .active ∧ t.pkg.retired = s.pkg.retired ∧ t.pkg.alerts = s.pkg.alerts ∧ t.teams = [] ∧ t.launches = [] ∧
      t.queues = [] ∧ t.cores = [] ∧ t.mem.hbm = [] ∧ t.mem.msc = [] ∧ t.ports = []
    let asks : Instr → (State → Prop) → Prop := fun i p => ∃ t, exec i s = .next t ∧ (s.pkg.i3c = none → t = s) ∧ (s.pkg.i3c ≠ none → p t)
    (∃ t, exec .moduleReset s = .next t ∧ (s.pkg.power = .off → t = s) ∧
      (s.pkg.power ≠ .off → reset t ∧ (accepted s.pkg.flashA → runs s.pkg.flashA false t) ∧
        (¬accepted s.pkg.flashA → accepted s.pkg.flashB → runs s.pkg.flashB false t) ∧
        (¬accepted s.pkg.flashA → ¬accepted s.pkg.flashB → t.pkg.boot = .recovery))) ∧
    (∀ a, exec (.dynamicAddressAssignment a) s = .next { s with pkg := { s.pkg with i3c := some a } }) ∧
    asks .readBootState (fun t => t = { s with pkg := { s.pkg with sideband := s.pkg.sideband ++ [.boot s.pkg.boot] } }) ∧
    asks .readJunctionSensors (fun t => t = { s with pkg := { s.pkg with sideband := s.pkg.sideband ++
      [.sensors (s.pkg.dies.map (·.temps)) (s.pkg.dies.map (·.step))] } }) ∧
    asks .readAlertCauses (fun t => t = { s with pkg := { s.pkg with sideband := s.pkg.sideband ++ [.alerts s.pkg.alerts] } }) ∧
    (∀ w, asks (.setPowerCap w) (fun t =>
      let v := if w < 1500 then 1500 else if 3000 < w then 3000 else w
      t = { s with pkg := { s.pkg with cap := v, sideband := s.pkg.sideband ++ [.cap v] } })) ∧
    (∀ m, asks (.clearAlertCauses m) (fun t => { t with pkg := { t.pkg with alerts := s.pkg.alerts } } = s ∧
      t.pkg.alerts.lasting = (s.pkg.alerts.lasting && !m.getLsbD 0) ∧ t.pkg.alerts.contain = (s.pkg.alerts.contain && !m.getLsbD 1) ∧
      t.pkg.alerts.thermal = (s.pkg.alerts.thermal && !m.getLsbD 2) ∧ t.pkg.alerts.voltage = (s.pkg.alerts.voltage && (!m.getLsbD 3 || s.pkg.inputHigh)))) ∧
    ∀ img, asks (.deliverImage img) (fun t =>
      (s.pkg.boot = .recovery → accepted img → runs img true t) ∧ (s.pkg.boot ≠ .recovery ∨ ¬accepted img → t = s))

/-- R27 to R29, R268: a correction counts in its unit's window, and a count that reaches T is to be retired; a bank takes a
spare and a way is switched off, which counts in RETIRED and raises the alert; a page with data in a faulty row moves to a frame
of the reserve. A die-to-die link that fails ends the collective operations that span its two dies. What a row or a bank holds
is opaque (log 56), and the alert for a bank without a spare is the model's choice (log 78). It says where each of
correctableError, trackingWindowExpiry, bankRetirement, mscWayRetirement, hbmPageRetirement and dieLinkFailure completes. -/
def Obligations.ErrorsAndRetirement : Prop :=
  ∀ (s : State),
    (∀ u a now, let x := s.ceu u
      let open_ := x.track.filter fun t => decide (now < t.start + 2 ^ bits x.cfg 8 6)
      let n := match open_.find? fun t => t.addr = a with | some t => t.count + 1 | none => 1
      ∃ t, exec (.correctableError u a now) s = .next t ∧
        { t with pkg := { t.pkg with ceus := s.pkg.ceus, retire := s.pkg.retire } } = s ∧
        bits (t.ceu u).cfg 32 32 = (bits x.cfg 32 32 + 1) % 2 ^ 32 ∧ bits (t.ceu u).cfg 0 32 = bits x.cfg 0 32 ∧
        (bits x.cfg 0 8 ≠ 0 ∧ bits x.cfg 0 8 ≤ n → (u, a) ∈ t.pkg.retire ∧ ∀ y ∈ (t.ceu u).track, y.addr ≠ a) ∧
        (bits x.cfg 0 8 = 0 ∨ n < bits x.cfg 0 8 → t.pkg.retire = s.pkg.retire ∧
          (∃ y ∈ (t.ceu u).track, y.addr = a ∧ y.count = n) ∧
          ((∀ y ∈ open_, y.addr ≠ a) → (t.ceu u).track = (if 8 ≤ open_.length then open_.drop 1 else open_) ++ [⟨a, 1, now⟩]))) ∧
    (∀ u a, ∃ t, exec (.trackingWindowExpiry u a) s = .next t ∧ { t with pkg := { t.pkg with ceus := s.pkg.ceus } } = s ∧
      (t.ceu u).cfg = (s.ceu u).cfg ∧ (t.ceu u).track = (s.ceu u).track.filter fun y => y.addr ≠ a) ∧
    (∀ u a, (u, a) ∉ s.pkg.retire ∨ 6 < ceuKind u → exec (.bankRetirement u a) s = .next s) ∧
    (∀ u a, (u, a) ∈ s.pkg.retire → ceuKind u ≤ 6 → ∃ t, exec (.bankRetirement u a) s = .next t ∧ { t with pkg := s.pkg } = s ∧
      t.pkg.retire = s.pkg.retire.erase (u, a) ∧ t.pkg.alerts = { s.pkg.alerts with lasting := true } ∧
      let used := tget 0 s.pkg.spares (spareKey u a)
      if used < (if ceuKind u = 0 then 2 else 4) then
        tget 0 t.pkg.spares (spareKey u a) = used + 1 ∧ t.pkg.retired = s.pkg.retired + 1 ∧ t.pkg.noPlace = s.pkg.noPlace
      else ceuBlock u ∈ t.pkg.noPlace ∧ t.pkg.retired = s.pkg.retired) ∧
    (∀ slice way p, s.pkg.retire.find? (fun p => ceuKind p.1 = 7 && ceuBlock p.1 = slice) = some p →
      let here := s.mem.msc.filter fun l => homeSlice (128 * l.1) = some slice && l.2.way = way
      (here.any (fun l => decide (l.2.pins ≠ 0 || l.2.landing ≠ 0)) = true → exec (.mscWayRetirement slice way) s = .next s) ∧
      (here.any (fun l => decide (l.2.pins ≠ 0 || l.2.landing ≠ 0)) = false → ∃ t, exec (.mscWayRetirement slice way) s = .next t ∧
        t.pkg.retired = s.pkg.retired + 1 ∧ t.pkg.alerts.lasting = true ∧ t.pkg.retire = s.pkg.retire.erase p ∧
        tget 0 t.mem.waysOff slice = tget 0 s.mem.waysOff slice ||| 2 ^ way ∧ (∀ l ∈ here, tfind t.mem.msc l.1 = none) ∧
        t.teams = s.teams ∧ t.inflight = s.inflight ∧ t.cores = s.cores)) ∧
    (∀ u page,
      let due := ceuKind u = 8 ∧ (∃ a, (u, a) ∈ s.pkg.retire ∧ page ∈ rowPages s (u, a)) ∧ pageState s page = 1 ∧
        ∀ x ∈ s.mem.changes, x.page = page → x.who ≠ .migr none
      (¬due → exec (.hbmPageRetirement u page) s = .next s) ∧
      (due → exec (.hbmPageRetirement u page) s = .next (match s.pkg.reserve with
        | [] => { s with pkg := { s.pkg with alerts := { s.pkg.alerts with lasting := true } } }
        | f :: rest => { s with pkg := { s.pkg with reserve := rest }
                                mem := { s.mem with changes := s.mem.changes ++ [⟨page, presentEntry f 0 false, .migr none⟩] } }))) ∧
    ∀ n, n < 6 → ∃ t, exec (.dieLinkFailure n) s = .next t ∧ t.pkg = { s.pkg with links := setBit s.pkg.links n false } ∧
      t.teams = s.teams ∧ t.mem = s.mem ∧ t.collOps.length = s.collOps.length ∧
      ∀ (k : Nat) (x y : CollOp), s.collOps[k]? = some x → t.collOps[k]? = some y →
        (y = x ∨ (x.finish = none ∧ y.finish = some 8 ∧ y.failRank < coP x.record)) ∧
        ∀ r, r < coP x.record → x.finish = none → x.ranks ≠ [] → r ≠ x.rank → entryLocal (x.ranks.getD (2 * r) 0) = true →
          (x.die, entryDie (x.ranks.getD (2 * r) 0)) ∈ [linkEnds n, ((linkEnds n).2, (linkEnds n).1)] → sendsDone x r = false →
          y.finish = some 8

/-! ## Ethernet (R33 to R53) -/

/-- R34, R37, R39: a link that comes up or is lost sets LINK; a link lost for 2 ms takes every connection of its port into the
error state and counts in DOWNS, which saturates. A notification cuts the rate by 2^-CUTSH, to at least 1 Gb/s; time raises it
by RSTEP, up to line rate; a pause is obeyed with PFCEN, for RPRI. When time passes is left to the events (log 20), and rates
are exact numbers of Mb/s (log 81). It says where each of linkUp, linkLoss, linkHoldExpiry, mediaChange,
congestionNotificationReceived, rateRecoveryTimer and pauseFrameReceived completes. -/
def Obligations.LinksAndRates : Prop :=
  ∀ (s : State) (p n : Nat), n < 4096 →
    let x := s.port p
    let put : Port → State := fun y => s.setPort p y
    (s.pkg.boot = .running → exec (.linkUp p) s = .next (put { x with status := setBit x.status 0 true, holding := false })) ∧
    (s.pkg.boot ≠ .running → exec (.linkUp p) s = .next s) ∧
    (x.status.getLsbD 0 = true → exec (.linkLoss p) s = .next (put { x with status := setBit x.status 0 false, holding := true })) ∧
    (x.status.getLsbD 0 = false → exec (.linkLoss p) s = .next s) ∧
    (x.holding = false → exec (.linkHoldExpiry p) s = .next s) ∧
    (x.holding = true → ∃ t, exec (.linkHoldExpiry p) s = .next t ∧ (t.port p).holding = false ∧
      bits (t.port p).status 16 16 = min 0xFFFF (bits x.status 16 16 + 1) ∧
      (∀ c ∈ s.conns, c.1 / 4096 = p → c.2.valid = true → c.2.err = false → s.conn c.1 = c.2 →
        (t.conn c.1).err = true ∧ (t.conn c.1).outstanding = [] ∧ (t.conn c.1).waiting = []) ∧
      ∀ c, c / 4096 ≠ p → t.conn c = s.conn c) ∧
    (∀ m : BitVec 2, exec (.mediaChange p m) s = .next (put { x with status := setBits x.status 1 2 m.toNat })) ∧
    (∃ t, exec (.congestionNotificationReceived p n) s = .next t ∧ { t with conns := s.conns } = s ∧
      let c := s.conn (connKey p n)
      t.conn (connKey p n) = { c with rate := max 1000 (c.rate - c.rate / 2 ^ bits x.cong 9 3) } ∧
      ∀ k, k ≠ connKey p n → t.conn k = s.conn k) ∧
    (∃ t, exec (.rateRecoveryTimer p n) s = .next t ∧ { t with conns := s.conns } = s ∧
      let c := s.conn (connKey p n)
      t.conn (connKey p n) = { c with rate := min 800000 (c.rate + 1000 * bits x.cong 24 7) } ∧
      ∀ k, k ≠ connKey p n → t.conn k = s.conn k) ∧
    (∀ (prio : BitVec 3) (quanta : BitVec 16), exec (.pauseFrameReceived p prio quanta) s =
      .next (if x.status.getLsbD 3 = true ∧ bits x.status 4 3 = prio.toNat then
        (if quanta = 0 then unpause s p else put { x with paused := true }) else s)) ∧
    (unpause s p).wire = x.held.reverse ++ s.wire ∧ (unpause s p).port p = { x with paused := false, held := [] } ∧
    (unpause s p).conns = s.conns ∧ (unpause s p).mem = s.mem

/-- R35, R36, R38, R40, R41, R47, R48: a request in sequence on a live connection is checked against the region table and
performed, held behind those before it or for a moving page, or refused with a NAK that ends the connection; one too long, or a
seventeenth READ or atomic, is refused; one out of sequence is answered from the cache, acknowledged again, or gets one
sequence-error NAK. What marks and pauses a packet brings first (`noteMarked`, `relieve`) is free (log 20); that a request over
2^31 bytes gets the invalid-request NAK is the model's reading (log 113); that requests are
lost with the clocks stopped, and writes to read-only places of the management region ignored, is the model's choice (log 82).
It says where each of inboundRdmaWrite, inboundRdmaRead, inboundSend, inboundAtomic, inboundInvalidRequest and
outOfSequencePacket completes. -/
def Obligations.InboundRequests : Prop :=
  ∀ (s : State) (p : InPacket),
    let key := connKey p.port p.conn
    let c := s.conn key
    let live := c.valid = true ∧ c.err = false ∧ (s.port p.port).status.getLsbD 0 = true
    let base := relieve (noteMarked s p.port p.conn p.marked) p.port
    let taken : InReq → State := fun r =>
      base.modConn key fun y => { y with expect := y.expect + BitVec.ofNat 24 (r.packets c), nakSent := false }
    let ended : NakKind → State → State → Prop := fun k b t => (t.conn key).err = true ∧ (t.conn key).outstanding = [] ∧
      (t.conn key).waiting = [] ∧ (t.conn key).parked = [] ∧ t.wire = (b.send (.nak p.port p.conn p.psn k)).wire ∧ t.mem.hbm = b.mem.hbm
    let size := max 1 (ceilDiv p.data.length c.mtu)
    let acked : State → State := fun t => t.send (.ack p.port p.conn (p.psn + BitVec.ofNat 24 (size - 1)))
    (∀ (i : Instr) (r : InReq), ((i = .inboundRdmaWrite p ∧ r = .write p) ∨ (∃ len, i = .inboundRdmaRead p len ∧ r = .read p len) ∨
        (i = .inboundSend p ∧ r = .send p) ∨ (∃ b x y, i = .inboundAtomic p b x y ∧ r = .atomic p b x y)) →
      let runs := s.pkg.power = .active ∨ forMgmt s r = true
      let tooMany := 2 ^ 31 < r.bytes ∨ (r.limited = true ∧ 16 ≤ (c.parked.filter fun q => q.2.limited).length)
      (¬live ∨ ¬runs → exec i s = .next s) ∧
      (live → runs → p.psn ≠ c.expect → exec i s = .next (outOfSequence base p.port p.conn p.psn)) ∧
      (live → runs → p.psn = c.expect → tooMany → ∃ t, exec i s = .next t ∧ ended .invalidRequest base t) ∧
      (live → runs → p.psn = c.expect → ¬tooMany → c.parked ≠ [] ∨ perform (taken r) r = none →
        ∃ t id, exec i s = .next t ∧ (t.conn key).parked = c.parked ++ [(id, r)] ∧ t.wire = base.wire ∧
          t.mem.hbm = base.mem.hbm ∧ t.mem.msc = base.mem.msc) ∧
      (live → runs → p.psn = c.expect → ¬tooMany → c.parked = [] → ∀ t, perform (taken r) r = some t → exec i s = .next t)) ∧
    (live → s.pkg.power = .active → p.psn = c.expect → c.parked = [] → c.mgmt = false →
      (∀ k, p.data.length ≤ 2 ^ 31 → inCheck (taken (.write p)) p.port p.rkey p.va p.data.length .write = .refuse k →
        ∃ t, exec (.inboundRdmaWrite p) s = .next t ∧ ended k base t) ∧
      (∀ r ia, p.data.length ≤ 2 ^ 31 → inCheck (taken (.write p)) p.port p.rkey p.va p.data.length .write = .ok r ia → p.imm = none →
        exec (.inboundRdmaWrite p) s =
          .next (acked (if rgKind r = 2 then notifyVisible (taken (.write p)) ia p.data else iaWrite (taken (.write p)) ia p.data))) ∧
      (∀ len r ia bs s2, len ≤ 2 ^ 31 → inCheck (taken (.read p len)) p.port p.rkey p.va len .read = .ok r ia →
        iaRead (taken (.read p len)) ia len = (false, bs, s2) →
        ∃ t, exec (.inboundRdmaRead p len) s = .next t ∧ t.wire = (s2.send (.response p.port p.conn p.psn bs)).wire ∧ t.mem = s2.mem ∧
          (p.psn, bs) ∈ (t.conn key).cache ∧ (t.conn key).cache.length ≤ 16) ∧
      (∀ cas x y r ia old s2, p.va % 8 = 0 → inCheck (taken (.atomic p cas x y)) p.port p.rkey p.va 8 .atomic = .ok r ia →
        aluRead (countXlat (taken (.atomic p cas x y)) ia 0) ia 8 0 = (old, s2) → ((List.range 8).any fun i => homeBad s2 (ia + i)) = false →
        let v : W64 := BitVec.ofNat 64 (natOf old)
        let u := mscWrite s2 ia 0 (bytesOf 8 (if cas then (if v = y then x else v) else v + x).toNat)
        ∃ t, exec (.inboundAtomic p cas x y) s = .next t ∧ t.wire = (u.send (.response p.port p.conn p.psn old)).wire ∧ t.mem = u.mem) ∧
      (∀ cas x y, p.va % 8 ≠ 0 → ∃ t, exec (.inboundAtomic p cas x y) s = .next t ∧ ended .invalidRequest base t) ∧
      (p.data.length ≤ 2 ^ 31 → (Config.collDecode p.data).bind (fun l => msgOfNats (p.port / 2) c.ctx l) = none →
        ∃ t, exec (.inboundSend p) s = .next t ∧ ended .invalidRequest base t) ∧
      (∀ m, p.data.length ≤ 2 ^ 31 → (Config.collDecode p.data).bind (fun l => msgOfNats (p.port / 2) c.ctx l) = some m →
        exec (.inboundSend p) s = .next (acked (if m.body = .abort then abortParty (taken (.send p)) m
          else { taken (.send p) with collMsgs := (taken (.send p)).collMsgs ++ [m] })))) ∧
    (live → p.psn = c.expect → c.parked = [] → c.mgmt = true → p.rkey = s.mgmt.key →
      (p.data.length ≤ 2 ^ 31 → p.va + p.data.length ≤ 0x200000 →
        exec (.inboundRdmaWrite p) s = .next (acked (mgmtWrite (taken (.write p)) p))) ∧
      (∀ len, len ≤ 2 ^ 31 → p.va + len ≤ 0x200000 → ∃ t, exec (.inboundRdmaRead p len) s = .next t ∧ t.mem = s.mem ∧
        t.wire = (base.send (.response p.port p.conn p.psn ((List.range len).map fun j => mgmtByte s (p.va + j)))).wire)) ∧
    (∃ t, exec (.inboundInvalidRequest p.port p.conn p.psn) s = .next t ∧ (¬live → t = s) ∧ (live → ended .invalidRequest (freeMark s p.port p.conn) t)) ∧
    (
      let d := (c.expect - p.psn).toNat
      let m := freeMark s p.port p.conn
      let held := ∃ q ∈ c.parked, (p.psn - q.2.packet.psn).toNat < q.2.packets c
      (c.valid = false ∨ c.err = true ∨ d = 0 → exec (.outOfSequencePacket p.port p.conn p.psn) s = .next s) ∧
      (c.valid = true → c.err = false → 0 < d → d ≤ 2 ^ 23 → held → exec (.outOfSequencePacket p.port p.conn p.psn) s = .next m) ∧
      (c.valid = true → c.err = false → 0 < d → d ≤ 2 ^ 23 → ¬held → exec (.outOfSequencePacket p.port p.conn p.psn) s =
        .next (m.send (match c.cache.find? fun e => decide ((p.psn - e.1).toNat < max 1 (ceilDiv e.2.length c.mtu)) with
          | some e => .response p.port p.conn p.psn (e.2.drop ((p.psn - e.1).toNat * c.mtu))
          | none => .ack p.port p.conn p.psn))) ∧
      (c.valid = true → c.err = false → 2 ^ 23 < d → exec (.outOfSequencePacket p.port p.conn p.psn) s =
        .next (if c.nakSent then m else (m.setConn key { m.conn key with nakSent := true }).send (.nak p.port p.conn p.psn .sequence))))

/-- R36, R38, R39, R52: networkAckReceived ends the requests that it covers and completes each, and notes what it covers of a
request in part; nakReceived of a sequence error, and ackTimeout, send everything from the first unacknowledged packet on again
while retries are left; any other NAK, or no retry left, ends the connection; pendingRequestSend sends what a pause has held back,
and a request that waits once the limit allows it. Whether an answer was marked is free (`freeMark`, log 20). That an acknowledgement gives the connection its retries again is the model's choice (log 83). It says
where each of networkAckReceived, nakReceived, ackTimeout and pendingRequestSend completes. -/
def Obligations.Requester : Prop :=
  ∀ (s : State) (port n : Nat) (psn : BitVec 24),
    let key := connKey port n
    let c := s.conn key
    let live := c.valid = true ∧ c.err = false ∧ (s.port port).status.getLsbD 0 = true
    let names := ∃ q ∈ c.outstanding, (psn - q.psn).toNat < q.npkt
    let waits := c.valid = true ∧ c.err = false ∧ (s.port port).holding = false ∧ c.outstanding ≠ []
    let x := s.port port
    let packets := c.outstanding.map fun q => Packet.request port n (q.psn + BitVec.ofNat 24 q.acked) (q.op.rest c.mtu q.acked)
    let again : State → State → Prop := fun b t => t.conn key = { b.conn key with retries := c.retries + 1 } ∧
      (if x.paused = true then t.wire = b.wire ∧ (t.port port).held = (b.port port).held ++ packets
        else t.wire = packets.reverse ++ b.wire ∧ t.port port = b.port port) ∧
      t.mem = s.mem ∧ t.teams = s.teams
    let failed : State → Prop := fun t => (t.conn key).err = true ∧ (t.conn key).outstanding = [] ∧ (t.conn key).waiting = []
    let marks : State → State := fun t => freeMark t port n
    let left : List Request → State := fun l => s.setConn key { c with outstanding := l, retries := 0 }
    (∀ data, (¬live → exec (.networkAckReceived port n psn data) s = .next s) ∧
      (live → c.outstanding = [] → exec (.networkAckReceived port n psn data) s = .next (marks (s.setConn key c))) ∧
      ∀ q rest, live → c.outstanding = q :: rest →
        let k := (psn - q.psn).toNat
        k < q.npkt → q.acked < q.npkt →
        (q.op.limited = true → k = q.acked → (q.got ++ data).length = q.op.answer →
          exec (.networkAckReceived port n psn data) s = .next (marks (completeOwner (left rest) q.owner (q.got ++ data)))) ∧
        (q.op.limited = true → k = q.acked → data ≠ [] → data.length % c.mtu = 0 → (q.got ++ data).length < q.op.answer →
          exec (.networkAckReceived port n psn data) s =
            .next (marks (left ({ q with acked := q.acked + data.length / c.mtu, got := q.got ++ data } :: rest)))) ∧
        (q.op.limited = false → data = [] → k + 1 = q.npkt →
          exec (.networkAckReceived port n psn data) s = .next (marks (completeOwner (left rest) q.owner q.got))) ∧
        (q.op.limited = false → data = [] → q.acked ≤ k → k + 1 < q.npkt →
          exec (.networkAckReceived port n psn data) s = .next (marks (left ({ q with acked := k + 1 } :: rest))))) ∧
    (∀ kind,
      (¬live ∨ ¬names → exec (.nakReceived port n psn kind) s = .next s) ∧
      (live → names → kind = .sequence → c.retries < bits c.entry 11 3 → ∃ t, exec (.nakReceived port n psn kind) s = .next t ∧ again (marks s) t) ∧
      (live → names → (kind = .sequence → bits c.entry 11 3 ≤ c.retries) →
        ∃ t, exec (.nakReceived port n psn kind) s = .next t ∧ failed t)) ∧
    (¬waits → exec (.ackTimeout port n) s = .next s) ∧
    (waits → c.retries < bits c.entry 11 3 → ∃ t, exec (.ackTimeout port n) s = .next t ∧ again s t) ∧
    (waits → bits c.entry 11 3 ≤ c.retries → ∃ t, exec (.ackTimeout port n) s = .next t ∧ failed t) ∧
    (c.waiting = [] → ∃ t, exec (.pendingRequestSend port n) s = .next t ∧ t.conn key = c ∧ t.wire = x.held.reverse ++ s.wire) ∧
    ∀ op o rest, c.waiting = (op, o) :: rest → c.err = false →
      let room := op.limited = false ∨ (c.outstanding.filter fun q => q.op.limited).length < 16
      let k := op.packets c.mtu
      ∃ t, exec (.pendingRequestSend port n) s = .next t ∧ (¬room → t.conn key = c ∧ t.wire = x.held.reverse ++ s.wire) ∧
        (room → t.wire = .request port n c.psn op :: (x.held.reverse ++ s.wire) ∧
          t.conn key = { c with
            waiting := rest, psn := c.psn + BitVec.ofNat 24 k
            outstanding := c.outstanding ++ [{ psn := c.psn, npkt := k, op := op, owner := o, acked := 0, got := [] }] })

/-! ## The management processor (R41, R42) -/

/-- R34, R41 to R45: the requests on connections, regions and ports. Each serves the request that is next if its OPC is the
operation's: the header with GO cleared, then BADOP for a reserved bit, BADARG for a short body or an INDEX out of range,
another status where the rule names one, or OK with the answer as the response's body. What R41 and R42 leave open is the
model's reading (logs 47, 79, 84). It says where each of connWrite, connRead, connReset, regionWrite, regionRead, portWrite,
portRead, paddrWrite, paddrRead, congWrite and congRead completes. -/
def Obligations.ManagementOfNetwork : Prop :=
  ∀ (s : State) (r : MgmtReq), nextReq s = some r →
    let s1 := takeReq s r
    let ok : Bytes → State → Byte × Bytes × State := fun bs t => (0, bs, t)
    let refused : Byte → Byte × Bytes × State := fun st => (st, [], s1)
    let i := r.index
    let port := i % 8
    let key := 4096 * port + i / 65536 % 4096
    let placed := i = port + i / 65536 % 4096 * 65536
    let c := s1.conn key
    let e : BitVec 512 := BitVec.ofNat 512 (natOf r.body)
    let g : BitVec 256 := BitVec.ofNat 256 (natOf r.body)
    let x := s1.port i
    let w := r.word 0
    (∀ (op : Instr) (opc len : Nat) (ans : Byte × Bytes × State),
      (op, opc, len, ans) ∈
        [(Instr.connWrite, 1, 64, if ¬placed then refused 2 else if e.getLsbD 15 ∨ bits e 300 212 ≠ 0 then refused 1
          else if 2 < bits e 3 3 ∨ bits e 6 5 = 0 then refused 2 else if c.valid ∧ ¬c.err then refused 4
          else if e.getLsbD 0 ∧ c.err then ok [] (s1.setConn key { c with entry := setBit e 1 true })
          else ok [] (s1.setConn key { c with
            entry := setBit e 1 false, psn := BitVec.ofNat 24 (bits e 40 24), expect := BitVec.ofNat 24 (bits e 64 24), retries := 0
            rate := 800000, nakSent := false, outstanding := [], waiting := [], cache := [], parked := [] })),
         (.connRead, 2, 0, if ¬placed then refused 2 else ok (bytesOf 64 c.entry.toNat) s1),
         (.regionWrite, 4, 32, if ¬placed then refused 2 else match regionEntryBad s1 g with
          | some st => refused st
          | none => ok [] { s1 with regions := tset 0 s1.regions key g }),
         (.regionRead, 5, 0, if ¬placed then refused 2 else ok (bytesOf 32 (tget 0 s1.regions key).toNat) s1),
         (.portWrite, 6, 8, if 7 < i then refused 2 else ok [] (s1.setPort i { x with status :=
          (x.status &&& ~~~0xFF78#64) ||| (w &&& 0x3F78#64) })),
         (.portRead, 7, 0, if 7 < i then refused 2
          else ok (bytesOf 8 x.status.toNat) (s1.setPort i { x with status := setBits x.status 16 16 0 })),
         (.paddrWrite, 8, 32, if 7 < i ∨ ∃ b ∈ (r.body.take 32).drop 20, b ≠ 0 then refused 2
          else ok [] (s1.setPort i { x with addr := g })),
         (.paddrRead, 9, 0, if 7 < i then refused 2
          else ok (bytesOf 32 (setBits x.addr 192 48 (s1.pkg.macs.getD i 0).toNat).toNat) s1),
         (.congWrite, 10, 8, if 7 < i ∨ ¬(1 ≤ bits w 0 9 ∧ bits w 0 9 ≤ 256 ∧ 1 ≤ bits w 9 3 ∧ bits w 9 3 ≤ 4 ∧ 1 ≤ bits w 16 7 ∧
            bits w 16 7 ≤ 100 ∧ 1 ≤ bits w 24 7 ∧ bits w 24 7 ≤ 100) then refused 2
          else ok [] (s1.setPort i { x with cong := (x.cong &&& ~~~0x7F7F0FFF#64) ||| (w &&& 0x7F7F0FFF#64) })),
         (.congRead, 11, 0, if 7 < i then refused 2 else ok (bytesOf 8 x.cong.toNat) s1)] →
      Serves op opc len s r ans) ∧
    (r.opc = 3 → r.reserved = false → r.len ≤ 4032 → ∃ t u, exec .connReset s = .next t ∧
      (¬placed → t = answerReq s1 r 2 []) ∧ (placed → c.valid = false → t = answerReq s1 r 4 []) ∧
      (placed → c.valid = true → t = answerReq u r 0 [] ∧ (u.conn key).err = false ∧ (u.conn key).outstanding = [] ∧
        (u.conn key).waiting = [] ∧ (u.conn key).rate = 800000 ∧ (u.conn key).psn = BitVec.ofNat 24 (bits c.entry 40 24) ∧
        u.mem.hbm = s1.mem.hbm ∧ ∀ k, k ≠ key → u.conn k = s1.conn k))

/-- R15, R26, R28, R42, R46, R54, R69, R99, R101: the requests on queues, contexts, devices, pages, reports, counters and power,
as the last statement has them. Nothing is left to answer once the module is off. What the rules leave open is the model's
reading (logs 47, 49, 70, 80, 84, 92). It says where each of qdescWrite, queueHaltClear, qdescRead, ctxregWrite, contextPreempt,
ctxregRead, devregWrite, devregRead, pteWrite, pteRead, attest, faultRead, pmcRead, pmcWrite, ctxHalt, powerActive,
powerRetention, powerOff, ceuInfo and badopRequest completes. -/
def Obligations.ManagementOfMachine : Prop :=
  ∀ (s : State) (r : MgmtReq), nextReq s = some r →
    let s1 := takeReq s r
    let ok : Bytes → State → Byte × Bytes × State := fun bs t => (0, bs, t)
    let refused : Byte → Byte × Bytes × State := fun st => (st, [], s1)
    let i := r.index
    let w := r.word 0
    let d : BitVec 512 := BitVec.ofNat 512 (natOf r.body)
    let q := s1.queue i
    let sameDesc := d &&& (qdescRw &&& ~~~2) = q.desc &&& (qdescRw &&& ~~~2)
    let descBusy := (q.slot.isSome ∨ q.desc.getLsbD 1) ∧ ¬sameDesc
    let stored := s1.modQueue i fun x => { x with desc := d &&& (qdescRw ||| qdescReserved), clost := x.clost && !d.getLsbD 353 }
    let counter := i % 128
    let n := i / 256 % 8
    let counts := i = counter + n * 256
    let k := s1.core counter
    let errs := s1.ceu (i - 0x1000)
    let unit := 0x1000 ≤ i ∧ i - 0x1000 < Config.ceuCount
    let live := r.reserved = false ∧ r.len ≤ 4032
    (∀ (op : Instr) (opc len : Nat) (ans : Byte × Bytes × State),
      (op, opc, len, ans) ∈
        [(Instr.qdescRead, 13, 0, if 4095 < i then refused 2 else ok (bytesOf 64 (readQdesc s1 i).toNat) s1),
         (.ctxregRead, 15, 0, if ¬ctxRegOk i then refused 2 else ok (bytesOf 8 (if i = 0x85 then
            setBit (s1.ctxReg r.ctx i) 2 (s1.teams.any fun p => p.2.ctx = r.ctx && p.2.life = .saving) else s1.ctxReg r.ctx i).toNat) s1),
         (.devregWrite, 16, 8, if unit then if s1.pkg.worldLock then refused 3
            else ok [] (s1.setCeu (i - 0x1000) { errs with cfg := (errs.cfg &&& ~~~0x3FFF#64) ||| (w &&& 0x3FFF#64) })
          else if 0x25 < i ∨ devRegBad i w then refused 2
          else
            let put := settleSkips (s1.setDevReg i ((s1.devReg i &&& ~~~devRw i) ||| (w &&& devRw i)))
            ok [] (if i < 8 then (excessCores put i).foldl vacateCore put else put)),
         (.devregRead, 17, 0, if unit then ok (bytesOf 8 errs.cfg.toNat) (s1.setCeu (i - 0x1000) { errs with cfg := setBits errs.cfg 32 32 0 })
          else if 0x25 < i then refused 2 else ok (bytesOf 8 (s1.devReg i).toNat) s1),
         (.pteRead, 19, 0, if 2 ^ 52 ≤ i then refused 2 else ok (bytesOf 8 (pte s1 (i / 65536)).toNat) s1),
         (.attest, 20, 48,
          let b := reportBody s1 (r.body.take 48)
          ok (b ++ bytesOf 384 (Config.signRsa b).toNat ++ bytesOf 16224 (Config.signSlh b).toNat) s1),
         (.faultRead, 21, 0, ok (bytesOf 64 (s1.context r.ctx).fault.toNat) (s1.modContext r.ctx fun x => { x with fault := 0 })),
         (.pmcRead, 22, 0, if ¬counts then refused 2
          else
            let t := s1.passCycles counter
            ok (bytesOf 8 (tget 0 (t.core counter).pmc n).toNat ++ bytesOf 8 (tget 0 (t.core counter).pmcc n).toNat) t),
         (.pmcWrite, 23, 8, if ¬counts then refused 2
          else
            let v := ((tget 0 k.pmcc n &&& ~~~0x1FF#64) ||| (w &&& 0x1FF#64)) &&& ~~~(w &&& 0x200#64)
            ok [] (s1.setCore counter { k with pmcc := tset 0 k.pmcc n v })),
         (.ceuInfo, 26, 0, if Config.ceuCount ≤ i then refused 2
          else
            let block := (Config.ceuInfo i).2.toNat
            let kind := (Config.ceuInfo i).1.toNat
            let die := if kind = 7 then block / 16 else if kind = 8 then block / 3 else block / 32
            ok (bytesOf 8 (kind + block * 256 + die % 4 * 65536)) s1)] →
      Serves op opc len s r ans) ∧
    (∀ (op : Instr) (t : State), r.opc = 12 → live → 64 ≤ r.len →
      ((op = .qdescWrite ∧ d.getLsbD 352 = false ∧ t = stored) ∨ (op = .queueHaltClear ∧ d.getLsbD 352 = true ∧ t = clearHalt stored i)) →
      exec op s = .next (if 4095 < i then answerReq s1 r 2 [] else if descBusy then answerReq s1 r 4 [] else answerReq t r 0 [])) ∧
    (∀ (op : Instr) (t : State), r.opc = 14 → live → 8 ≤ r.len →
      let put := settleSkips (s1.modContext r.ctx fun x => x.setReg i ((x.reg i &&& ~~~ctxRw i) ||| (w &&& ctxRw i)))
      ((op = .ctxregWrite ∧ (i ≠ 0x85 ∨ w.getLsbD 1 = false) ∧ t = put) ∨
        (op = .contextPreempt ∧ i = 0x85 ∧ w.getLsbD 1 = true ∧ t = preemptContext put r.ctx)) →
      exec op s = .next (if ctxRegOk i = false ∨ ctxRegBad i w = true then answerReq s1 r 2 []
        else if i = 0x85 ∧ bits w 8 3 ≠ s1.partOf r.ctx ∧ hasTeams s1 r.ctx = true then answerReq s1 r 4 [] else answerReq t r 0 [])) ∧
    (r.opc = 18 → live → r.len % 16 = 0 → r.len ≤ 4016 → ∃ t, exec .pteWrite s = .next t ∧
      ((∃ j, j < r.body.length / 16 ∧ ((r.word (2 * j)).toNat % 65536 ≠ 0 ∨ 2 ^ 52 ≤ (r.word (2 * j)).toNat)) → t = answerReq s1 r 2 []) ∧
      (r.body.length = 16 → r.pos = 0 → w.toNat % 65536 = 0 → w.toNat < 2 ^ 52 →
        let page := w.toNat / 65536
        (tget 0 s1.mem.level1 (page / 16384) = 0 → s1.mem.l2Reserve = 0 → t = answerReq s1 r 6 []) ∧
        (tget 0 s1.mem.level1 (page / 16384) = 0 → s1.mem.l2Reserve ≠ 0 → ∃ u, t = answerReq u r 0 [] ∧
          pte u page = r.word 1 ∧ u.mem.l2Reserve = s1.mem.l2Reserve - 1 ∧ u.mem.hbm = s1.mem.hbm) ∧
        (tget 0 s1.mem.level1 (page / 16384) ≠ 0 → (∀ m ∈ s1.mem.migrations, m.page ≠ page) → ∃ u, t = answerReq u r 0 [] ∧
          pte u page = r.word 1))) ∧
    (r.opc = 24 → live → ∃ t u, exec .ctxHalt s = .next t ∧ u = haltContext s1 r.ctx ∧
      (t = if contextBusy u r.ctx then u else answerReq u r 0 []) ∧
      (∀ p ∈ s1.queues, s1.queue p.1 = p.2 → p.2.valid = true → p.2.ctx = r.ctx → (u.queue p.1).halt = true)) ∧
    (r.opc = 25 → live →
      (i = 0 → s1.pkg.power ≠ .retention →
        exec .powerActive s = .next (answerReq { s1 with pkg := { s1.pkg with power := .active } } r 0 [])) ∧
      (i = 0 → s1.pkg.power = .retention → ∃ u, exec .powerActive s = .next (answerReq u r 0 []) ∧ u.pkg.power = .active ∧
        u.mem.msc = [] ∧ u.teams = s1.teams) ∧
      (i ≠ 0 → i ≠ 2 → i ≠ 3 → exec .powerActive s = .next (answerReq s1 r 2 [])) ∧
      (i = 2 → s1.residents ≠ [] → exec .powerRetention s = .next (answerReq s1 r 4 [])) ∧
      (i = 2 → s1.residents = [] → ∃ u, exec .powerRetention s = .next (answerReq u r 0 []) ∧ u.pkg.power = .retention ∧
        u.mem.msc = [] ∧ u.teams = s1.teams ∧ u.mem.level1 = s1.mem.level1 ∧
        ((∀ k, (s1.core k).l1 = []) → s1.mem.dir = [] → (∀ l ∈ s1.mem.msc, l.2.dirty = 0) →
          u = { s1 with mem := { s1.mem with msc := [] }, pkg := { s1.pkg with power := .retention } })) ∧
      (i = 3 → ∃ t, exec .powerOff s = .next t ∧ PowerLost s1 .off .inReset true t)) ∧
    (live → r.opc = 0 ∨ 26 < r.opc → exec .badopRequest s = .next (answerReq s1 r 1 []))

/-! ## Queues, launches and teams (R54 to R84, R93, R124) -/

/-- R5, R24, R56 to R69, R103: a register takes a write by its access codes, a locked world register none, and a shared counter none; a
partition reads its own count of a slice, of which a management connection reads the total, and zero of the links, ports and quadrilles;
a notify word makes entries
valid or halts its queue with OVERFLOW, or with FORMAT or WORLD where its descriptor breaks R54; the mapper unmaps and maps; a slot decodes the next entry of its ring, a malformed one completes
at once and a barrier once its condition holds, and a launch
record that is well formed starts a launch, where a bad one completes with FORMAT, KERNEL or BUDGET and halts its queue. The
loop of the mapper, the status of a reserved DECL bit and that of a refused barrier are the model's readings (logs 57,
85, 86). It says where each of registerWrite, notifyWrite, mapperPass, entryDecode and launchStart completes. -/
def Obligations.QueuesAndLaunches : Prop :=
  ∀ (s : State) (q : Nat),
    let x := s.queue q
    let rest : List (Nat × W64) → State := fun l => { s with mem := { s.mem with notify := l } }
    let stopped : Byte → State → Prop := fun st t =>
      (t.queue q).halt = true ∧ (t.queue q).widx = x.widx ∧ (t.queue q).fidx = x.fidx ∧ (t.queue q).ridx = x.ridx ∧ t.mem.hbm = s.mem.hbm ∧
      let c := s.conn (connKey (bits x.desc 192 3) (bits x.desc 196 12))
      (x.halt = false → c.valid = true → c.err = false → c.waiting = [] → (s.port (bits x.desc 192 3)).paused = false →
        Packet.request (bits x.desc 192 3) (bits x.desc 196 12) c.psn (.write (bits x.desc 128 64) (x.desc.extractLsb' 224 32)
          (bytesOf 8 (x.ridx.toNat + st.toNat * 2 ^ 32 + (if x.cont then 2 ^ 40 else 0))) none) ∈ t.wire)
    (∀ (reg : RegId) (v : BitVec 64), ∃ t, exec (.registerWrite reg v) s = .next t ∧ match reg with
      | .portStatus p => t = s.setPort p { s.port p with status := ((s.port p).status &&& ~~~0xFF78#64) ||| (v &&& 0x3F78#64) }
      | .portCong p => congBad v = false → t = s.setPort p { s.port p with cong := ((s.port p).cong &&& ~~~0x7F7F0FFF#64) ||| (v &&& 0x7F7F0FFF#64) }
      | .device n => n ≤ 0x25 → devRegBad n v = false →
          let put := settleSkips (s.setDevReg n ((s.devReg n &&& ~~~devRw n) ||| (v &&& devRw n)))
          t = if n < 8 then (excessCores put n).foldl vacateCore put else put
      | .context ctx n => ctxRegOk n = true → ctxRegBad n v = false → partBusy s ctx n v = false →
          let put := settleSkips (s.modContext ctx fun c => c.setReg n ((c.reg n &&& ~~~ctxRw n) ||| (v &&& ctxRw n)))
          t = if n = 0x85 ∧ v.getLsbD 1 = true then preemptContext put ctx else put
      | .worldLock => (s.pkg.worldLock = true ∨ s.pkg.boot ≠ .running → t = s) ∧ (s.pkg.worldLock = false → s.pkg.boot = .running → t = { s with pkg := { s.pkg with worldLock := v.getLsbD 0 } })
      | .worldVector n => (s.pkg.worldLock = true ∨ s.pkg.boot ≠ .running → t = s) ∧ (s.pkg.worldLock = false → s.pkg.boot = .running →
          (n = 0 → t = { s with pkg := { s.pkg with worldSets := v.setWidth 16 } }) ∧
          (n = 1 → t = { s with pkg := { s.pkg with worldCopy := setBits s.pkg.worldCopy 0 64 v.toNat } }) ∧
          (n = 2 → t = { s with pkg := { s.pkg with worldCopy := setBits s.pkg.worldCopy 64 64 v.toNat } }) ∧
          (n = 3 → t = { s with pkg := { s.pkg with worldColl := v.setWidth 4 } }) ∧
          (n = 4 → t = { s with pkg := { s.pkg with worldPorts := v.setWidth 8 } }) ∧ (n = 5 → t = { s with pkg := { s.pkg with worldTu := v } }))
      | .region n => (s.pkg.worldLock = true ∨ s.pkg.boot ≠ .running → t = s) ∧ (s.pkg.worldLock = false → s.pkg.boot = .running → n < 64 →
          tget 0 t.pkg.regionDesc n = v &&& 0xC1F800007FFFFFFF#64 ∧ { t with pkg := { t.pkg with regionDesc := s.pkg.regionDesc } } = s)
      | .sliceControl k n => n < 4 → tget 0 t.mem.msccCtl (4 * k + n) = v &&& 0xFF#64 ∧
          { t with mem := { t.mem with msccCtl := s.mem.msccCtl } } = s
      | .coreControl k n =>
        let c := ((tget 0 (s.core k).pmcc n &&& ~~~0x1FF#64) ||| (v &&& 0x1FF#64)) &&& ~~~(v &&& 0x200#64)
        n < 8 → t = s.setCore k { s.core k with pmcc := tset 0 (s.core k).pmcc n c }
      | .shared _ _ => t = s) ∧
    (∀ (c : SharedCounter) (part : Nat), (s.readCounter c (some part)).2 = s ∧
      match c with
      | .slice k n => (s.readCounter c (some part)).1 = BitVec.ofNat 64 (tget 0 s.mem.mscc ((4 * k + n) * 8 + part)).toNat ∧
          (s.readCounter c none).1.toNat =
            ((List.range 8).map fun p => (s.readCounter c (some p)).1.toNat).foldl (· + ·) 0 % 2 ^ 48
      | _ => (s.readCounter c (some part)).1 = 0) ∧
    (s.mem.notify = [] → exec .notifyWrite s = .next s) ∧
    (∀ w l, s.mem.notify = (q, w) :: l → x.desc.getLsbD 0 = false → exec .notifyWrite s = .next (rest l)) ∧
    (∀ w l, s.mem.notify = (q, w) :: l → x.desc.getLsbD 0 = true → descBad s x = none →
      let widx : W32 := w.extractLsb' 0 32
      let tooFar := bits w 33 31 ≠ 0 ∨ 2 ^ bits x.desc 5 5 < (widx - x.ridx).toNat ∨ (widx - x.ridx).toNat < (widx - x.fidx).toNat
      (¬tooFar → exec .notifyWrite s = .next ((rest l).setQueue q { x with
        widx := widx, allow := if w.getLsbD 32 then bits x.desc 256 64 else x.allow
        refill := x.refill || (w.getLsbD 32 && x.slot.isNone) })) ∧
      (tooFar → ∃ t, exec .notifyWrite s = .next t ∧ stopped 6 t)) ∧
    (∀ w l st, s.mem.notify = (q, w) :: l → x.desc.getLsbD 0 = true → descBad s x = some st →
      (st = 1 ∨ (st = 7 ∧ (s.context x.ctx).secure = false)) ∧ ∃ t, exec .notifyWrite s = .next t ∧ stopped st t) ∧
    (∃ t, exec .mapperPass s = .next t ∧ (s.pkg.power ≠ .active → t = s) ∧
      (s.pkg.power = .active → t.mapPass = s.mapPass + 1 ∧ t.teams = s.teams ∧
        t.launches.map (fun p => (p.1, { p.2 with skips := 0 })) = s.launches.map (fun p => (p.1, { p.2 with skips := 0 })) ∧
        (s.queues = [(q, x)] →
          (x.slot.isSome → (x.desc.getLsbD 1 = false ∨ x.halt = true) → (t.queue q).slot = none) ∧
          (x.slot = none → x.desc.getLsbD 0 = true → x.desc.getLsbD 1 = true → x.halt = false → x.fidx ≠ x.widx → descBad s x = none →
            x.window = [] → (t.queue q).slot = some 0 ∧ (t.queue q).mapped = s.mapPass + 1 ∧ (t.queue q).wait = 0)))) ∧
    (s.pkg.power = .active → x.slot.isSome → x.desc.getLsbD 1 = true → x.halt = false → x.stopping = false → x.fidx ≠ x.widx →
      (x.window.filter fun e => !e.ended).length < 8 →
      (∀ s1, readRingEntry s x (x.rbase + 128 * (x.fidx.toNat % 2 ^ bits x.desc 5 5)) = (none, s1) → exec (.entryDecode q) s = .next s1) ∧
      (∀ ws fmt s1, readRingEntry s x (x.rbase + 128 * (x.fidx.toNat % 2 ^ bits x.desc 5 5)) = (some (ws, fmt), s1) → s1.queue q = x →
        x.arrivals = [] → ∃ t, exec (.entryDecode q) s = .next t ∧ (t.queue q).fidx = x.fidx + 1 ∧ t.arrivals = s1.arrivals + 1 ∧
          let e : Entry := ⟨x.fidx.toNat, ws, 0, .decoded, s1.arrivals⟩
          let poll := setEntry ({ s1 with arrivals := s1.arrivals + 1 }.modQueue q fun x =>
            { x with fidx := x.fidx + 1, window := [e], arrivals := [(e.idx, s1.arrivals)] }) q e.idx .started
          let passed : Byte → Prop := fun st => (t.queue q).ridx = x.ridx + 1 ∧ (t.queue q).window = [] ∧ (t.queue q).halt = halts st
          (fmt = 0 → bits (ws.getD 0 0) 11 53 = 0 ∧ (bits (ws.getD 0 0) 0 8 = 1 ∨ bits (ws.getD 0 0) 0 8 = 2 ∨ bits (ws.getD 0 0) 0 8 = 3)) ∧
          (x.window = [] → fmt = 0 → bits (ws.getD 0 0) 0 8 ≠ 3 → (t.queue q).window = [e]) ∧
          (x.window = [] → x.ridx = x.fidx → fmt ≠ 0 → passed fmt ∧ (fmt = 1 ∨ fmt = 7)) ∧
          (x.window = [] → x.ridx = x.fidx → fmt = 0 → bits (ws.getD 0 0) 0 8 = 3 →
            (∀ s2, pollBarrier poll x.ctx e = (none, s2) → t = s2) ∧
            (∀ st s2, pollBarrier poll x.ctx e = (some st, s2) → s2.queue q = poll.queue q → passed st)))) ∧
    (∀ e : Entry, x.window = [e] → mayStart x e = true → e.fmt = 0 → e.type = 1 → e.idx = x.ridx.toNat →
      let bad : Byte → State → Prop := fun st s1 => ∃ t, exec (.launchStart q e.idx) s = .next t ∧ t.launches = s.launches ∧
        (s1.queue q = x → (t.queue q).ridx = x.ridx + 1 ∧ (t.queue q).halt = true ∧ (t.queue q).window = [] ∧
          t = completeEntry (setEntry s1 q e.idx .started) q e.idx st)
      let w3 := e.word 3
      let lanes := shapeOf (bits w3 0 11) * shapeOf (bits w3 11 11) * shapeOf (bits w3 22 11)
      let width := 16 * 2 ^ bits w3 36 2
      (launchBad e = true → bad 1 s) ∧
      (launchBad e = false →
        (∀ s1, readCtx s x.ctx true (e.word 1).toNat 64 = (.wait, s1) → exec (.launchStart q e.idx) s = .next s1) ∧
        (∀ a s1, readCtx s x.ctx true (e.word 1).toNat 64 = (.bad a, s1) → s1.launches = s.launches → bad 2 s1) ∧
        (∀ kb s1, readCtx s x.ctx true (e.word 1).toNat 64 = (.ok kb, s1) → s1.launches = s.launches →
          let k := wordsOf kb
          (kernelBad k = true → bad 2 s1) ∧
          (kernelBad k = false → mergeBudget (e.word 4) (k.getD 3 0) = none → bad 3 s1) ∧
          (∀ b, kernelBad k = false → mergeBudget (e.word 4) (k.getD 3 0) = some b →
            (slotsFit s1 x.ctx (ceilDiv lanes width) width b = false → bad 3 s1) ∧
            (∀ args s2, slotsFit s1 x.ctx (ceilDiv lanes width) width b = true →
              readCtx s1 x.ctx false (e.word 7).toNat (e.word 8).toNat = (.ok args, s2) →
              ∃ t l, exec (.launchStart q e.idx) s = .next t ∧ tfind t.launches s2.nextId = some l ∧ l.queue = q ∧ l.entry = e.idx ∧
                l.ctx = x.ctx ∧ (l.tx, l.ty, l.tz) = (shapeOf (bits w3 0 11), shapeOf (bits w3 11 11), shapeOf (bits w3 22 11)) ∧
                l.pair = w3.getLsbD 33 ∧ l.setsz = 2 ^ bits w3 34 2 ∧ l.width = width ∧ l.nfpol = bits w3 38 2 ∧ l.budget = b ∧
                l.count = bits (e.word 2) 0 32 * bits (e.word 2) 32 16 * bits (e.word 2) 48 16 ∧ l.next = 0 ∧ l.ended = 0 ∧
                l.dkey = e.word 5 ∧ l.cbudget = (e.word 6).toNat ∧ (l.gentry, l.centry) = ((k.getD 0 0).toNat, (k.getD 1 0).toNat) ∧
                l.htab = (k.getD 2 0).toNat ∧ l.args = args)))))

/-- R71 to R84, R93, R98, R124, R331: a decision answers a GROW request and places the first ready launch that fits, or counts a
skip; an expired budget, a spent allowance and the grace period raise cause 0x0D or save the set; a team at its SLICE retires
for the governor, is saved, or continues; a save frees its places and re-queues the team, and an ended team frees what it holds.
Ties, the count of a quota and the flags of a save are the model's readings (logs 58, 62, 63), and how many cycles have passed is
free (log 20). It says where each of
distributorDecision, budgetCounterExpiry, graceExpiry, allowanceCharge, teamAtSlice, saveComplete and teamEnd completes. -/
def Obligations.Distribution : Prop :=
  ∀ (s : State) (id : Nat) (t : Team) (l : Launch), s.team? id = some t → s.launch? t.launch = some l →
    let members := (setOf s id).map (·.1)
    (s.pkg.power ≠ .active → exec .distributorDecision s = .next s) ∧
    (s.pkg.power = .active →
      let s1 := restartChains (answerGrow s)
      let s2 : State := { s1 with launches := s1.launches.map fun p => if isReady s1 p.1 p.2 then p else (p.1, { p.2 with skips := 0 }) }
      let order := (s2.launches.filter fun p => isReady s2 p.1 p.2).foldl (fun l x => insertLaunch s2 x l) []
      (order = [] → exec .distributorDecision s = .next s2) ∧
      (∀ lid l rest, order = (lid, l) :: rest → l.requeued = [] → l.setsz = 1 → l.role = .none →
        (∀ p ∈ s2.teams, p.2.launch ≠ lid ∨ p.2.index ≠ l.next) → s2.launch? lid = some l →
        (fitUnit s2 l [.fresh l.next] = none → 255 ≤ l.skips →
          exec .distributorDecision s = .next (s2.modLaunch lid fun l => { l with skips := l.skips + 1 })) ∧
        (∀ x, fitUnit s2 l [.fresh l.next] = some [x] → ∃ v n m, exec .distributorDecision s = .next v ∧ v.team? n = some m ∧
          s2.team? n = none ∧ m.launch = lid ∧ m.index = l.next ∧ m.life = .running ∧ m.ctx = l.ctx ∧ m.cores = x.cores ∧
          m.places = x.places ∧ m.budget = l.cbudget ∧ m.caller.main.pc = l.centry ∧ m.groups.length = x.groups.length ∧
          (∀ g ∈ m.groups, g.main.pc = l.gentry ∧ g.exited = false) ∧
          (v.launch? lid).map (fun l => (l.next, l.skips)) = some (l.next + 1, 0)))) ∧
    (∀ g rest, s.growReqs = g :: rest → g.u.team = id → ∀ u, s.unit? g.u = some u → u.hasStream g.slot = true →
      (u.thread g.slot).park = .grow none →
      ((answerGrow s).unit? g.u).map (fun u => (u.thread g.slot).park) = some (.grow (some (BitVec.ofNat 64 l.count))) ∧
      ((answerGrow s).launch? t.launch).map (·.count) = some (l.count + g.k) ∧ (answerGrow s).growReqs = rest) ∧
    (∃ v, exec (.budgetCounterExpiry id) s = .next v ∧
      (t.life ≠ .running ∨ l.cbudget = 0 ∨ (t.expired = false ∧ t.budget = 0) → v = s) ∧
      (t.life = .running → l.cbudget ≠ 0 → t.expired = true ∨ (t.budget ≠ 0 ∧ s.coreClocked t.home = true) →
        ∀ n m, n ∈ members → s.team? n = some m → m.life = .running →
          ∃ m', v.team? n = some m' ∧ (m'.raisedBudget = true ∨ m'.life = .ended))) ∧
    (∃ v, exec (.graceExpiry id) s = .next v ∧ (t.life ≠ .running ∨ t.grace = none → v = s) ∧
      (∀ g, t.life = .running → t.grace = some g → setAtSlice s id = true → v = s.elapse t.home g) ∧
      (∀ g, t.life = .running → t.grace = some g → setAtSlice s id = false → g = 0 ∨ s.coreClocked t.home = true →
        ∀ n m, n ∈ members → s.team? n = some m → m.life = .running →
          m.allExited = false → ∃ m', v.team? n = some m' ∧ m'.life = .saving ∧ m'.coop = false)) ∧
    (∃ v, exec (.allowanceCharge id) s = .next v ∧ let q := s.queue l.queue
      (t.life ≠ .running ∨ q.allowance = 0 → v = s) ∧
      (t.life = .running → q.allowance ≠ 0 → 1024 ≤ t.uncharged ∨ s.coreClocked t.home = true →
        (v.queue l.queue).allow = q.allow - 1024 ∧
        (0 < q.allow → q.allow ≤ 1024 → ∃ m', v.team? id = some m' ∧ (m'.raisedAllow = true ∨ m'.life = .ended)))) ∧
    (∃ v, exec (.teamAtSlice id) s = .next v ∧ (t.life ≠ .running ∨ t.atSlice = false ∨ t.allExited = true → v = s) ∧
      (t.life = .running → t.atSlice = true → t.allExited = false →
        (∀ w, marked s t = some w → (v.context t.ctx).swap = some { w with taken := some id } ∧
          ∀ r ∈ t.refs id, (v.unit? r).map (·.exited) = some true) ∧
        (marked s t = none → t.raised = true → setAtSlice s id = false → v = s) ∧
        (marked s t = none → t.raised = true → setAtSlice s id = true →
          ∃ m, v.team? id = some m ∧ m.life = .saving ∧ m.coop = true) ∧
        (marked s t = none → t.raised = false → v = s.modTeam id fun t => t.mapUnits afterSlice))) ∧
    (t.life = .saving → let s1 := saveSteps s id t
      ∀ t1, s1.team? id = some t1 →
        (saveWaits s1 id t1 = true → exec (.saveComplete id) s = .next s1) ∧
        (saveWaits s1 id t1 = false → slotCheck s1 t1 l true = .wait → exec (.saveComplete id) s = .next s1) ∧
        (saveWaits s1 id t1 = false → slotCheck s1 t1 l true = .ok → ∃ v m, exec (.saveComplete id) s = .next v ∧
          v.team? id = some m ∧ m.life = .pending ∧ m.places = [] ∧ m.raised = false ∧
          let saved : UnitState → UnitState := fun u => completeAnswers (if t1.coop then afterSlice u else u)
          m.groups.map (fun u => (u.vregs, u.sregs, u.x)) = t1.groups.map (fun u => ((saved u).vregs, (saved u).sregs, (saved u).x)) ∧
          m.caller.sregs = (saved t1.caller).sregs ∧ (v.launch? t.launch).map (·.requeued) = some (l.requeued ++ [id]) ∧
          ∀ r ∈ (v.core t.home).reel, r.2.holder ≠ some id)) ∧
    (∃ v, exec (.teamEnd id) s = .next v ∧ (t.resident = false ∨ t.life = .saving ∨ (t.life ≠ .ended ∧ t.allExited = false) → v = s) ∧
      (t.resident = true → t.life ≠ .saving → (t.life = .ended ∨ t.allExited = true) →
        (∀ m ∈ (s.core t.home).matq, m.team ≠ id) → (∀ a ∈ s.inflight, a.u.team ≠ id) → (∀ r ∈ t.refs id, netBusy s r = false) →
        (∀ m, v.team? id = some m → m.life = .ended ∧ m.places = []) ∧
        (∀ n, heldBy (s.barrier t.home n) (t.placeOn t.home) = true → v.barrier t.home n = 0) ∧
        (∀ r ∈ (v.core t.home).reel, r.2.holder ≠ some id) ∧
        ∀ l', v.launch? t.launch = some l' → l.role = .none → l'.ended = l.ended + 1))

/-- R84: at each period the governor completes a swap whose marked team has exited, withdraws one that has waited 16 periods, or
marks a team of the stage that can give one up for the stage that needs one. R101: a counter that wrapped with INTEN writes its
event word to the event address of the partition that owned the core then. What a swap does whose stage has no running launch
any more is the model's choice (log 90). It says where each of governorPeriod and pmcOverflow completes. -/
def Obligations.GovernorAndEvents : Prop :=
  ∀ (s : State) (ctx : Nat),
    let w := s.ctxReg ctx 0x83
    let swap : State → Option Swap → State := fun s w => s.modContext ctx fun c => { c with swap := w }
    ((w.getLsbD 0 = false ∨ bits w 16 16 = 0) → exec (.governorPeriod ctx) s = .next s) ∧
    (w.getLsbD 0 = true → bits w 16 16 ≠ 0 → ∀ (now : List StageNow) (s1 : State), readStages ctx (List.range 8) s = some (now, s1) →
      (∀ x, (s1.context ctx).swap = some x →
        let gone := ∃ id, x.taken = some id ∧ hasExited s1 id = true
        (gone → ∀ id l, runningStage s1 ctx x.a = some (id, l) →
          exec (.governorPeriod ctx) s = .next (swap (s1.modLaunch id fun l => { l with count := l.count + 1 }) none)) ∧
        (gone → runningStage s1 ctx x.a = none → exec (.governorPeriod ctx) s = .next (swap s1 none)) ∧
        (x.taken = none → 15 ≤ x.age → exec (.governorPeriod ctx) s = .next (swap s1 none)) ∧
        (¬gone → (x.taken ≠ none ∨ x.age < 15) → exec (.governorPeriod ctx) s = .next (swap s1 (some { x with age := x.age + 1 })))) ∧
      ((s1.context ctx).swap = none →
        let up : StageNow → Prop := fun x => x ∈ now ∧ x.st.high ≤ x.o ∧ x.t < x.st.max
        let down : StageNow → Prop := fun x => x ∈ now ∧ x.o ≤ x.st.low ∧ x.st.min < x.t
        (((∀ x, ¬up x) ∨ (∀ x, ¬down x)) → exec (.governorPeriod ctx) s = .next s1) ∧
        ((∃ x, up x) → (∃ x, down x) → ∃ a b, up a ∧ down b ∧
          (∀ x, up x → x.o - x.st.high < a.o - a.st.high ∨ (x.o - x.st.high = a.o - a.st.high ∧ a.n ≤ x.n)) ∧
          (∀ x, down x → b.o < x.o ∨ (b.o = x.o ∧ x.n ≤ b.n)) ∧
          exec (.governorPeriod ctx) s = .next (swap s1 (some ⟨b.n, a.n, 0, none⟩))))) ∧
    ∀ core n, core < 128 →
      let k := s.core core
      ((∀ o ∈ k.overflow, o.1 ≠ n) → exec (.pmcOverflow core n) s = .next s) ∧
      ∀ o, k.overflow.find? (fun o => o.1 = n) = some o →
        let s1 := s.modCore core fun c => { c with overflow := c.overflow.erase o }
        let p := o.2
        let x := s1.devReg (0x10 + p)
        ((s.conn (connKey (bits x 0 3) (bits x 16 12))).valid = false → exec (.pmcOverflow core n) s = .next s1) ∧
        ((s.conn (connKey (bits x 0 3) (bits x 16 12))).valid = true → exec (.pmcOverflow core n) s =
          .next (post s1 (bits x 0 3) (bits x 16 12)
            (.write (s1.devReg (8 + p)).toNat (x.extractLsb' 32 32) (bytesOf 8 (core + 256 * n)) none) (.event p)))

/-! ## Clauses and the delivery of causes (R85 to R87, R115, R119 to R121, R272 to R275, R333) -/

/-- R85, R86, R87, R120, R272, R274: an idle partition starts the ready group that issued least recently, and an idle caller
port the ready caller; a clause that arrives is checked and stands at its first word, or raises the cause of the check that
fails at its address; a cause that is due enters the handler its table names, with the saved registers written, or ends the
team. When a clause is fetched, F of a header cause, when a lane-level cause is due, and that a selection takes a cycle, are the
model's readings (logs 5, 6, 20, 68), and so is the word index of TPC (log 45). It says where each of clauseSelect, callerClauseSelect, clauseFetchComplete and
trapDelivery completes. -/
def Obligations.ClausesAndTraps : Prop :=
  ∀ (s : State) (r : UnitRef) (slot : Nat) (t : Team) (u : UnitState) (l : Launch),
    s.team? r.team = some t → s.unit? r = some u → s.launch? t.launch = some l →
    let th := u.thread slot
    let pc := th.pc
    let caller := r.grp.isNone
    let issues : Nat → State → UnitState → Prop := fun k x v => x.unit? r = some v ∧ v.vregs = u.vregs ∧ v.sregs = u.sregs ∧
      (v.thread k).run = true ∧ (v.thread k).met = true ∧ (v.thread k).lastIssue = ((s.elapse u.core 1).core u.core).cycles.toNat ∧
      v.lastIssue = ((s.elapse u.core 1).core u.core).cycles.toNat ∧ (v.thread k).words = (u.thread k).words ∧ (v.thread k).idx = (u.thread k).idx ∧
      OthersKept r s x ∧ x.mem = s.mem
    let fetches := u.streamLive slot = true ∧ mayIssue s r u = true ∧ (∀ k i, th.park = .ring k i → ringReady (s.ring u.core k) = true) ∧
      ∀ p ∈ u.pending, p.rep.instr.isNone = true → p.rep.slot = slot → p.level ≠ 0
    let fetching := fetches ∧ th.words = []
    let got := if th.ahead = [] then fetchClause s r t u.core slot pc else (.ok th.ahead, s)
    (∀ core part, let port := tget default (s.core core).parts part
      let ready := (partGroups s core part).filterMap fun r => (readyOf s r).map fun k => (r, k)
      (port.busy ≠ [] ∨ ready = [] → exec (.clauseSelect core part) s = .next s) ∧
      (∀ k, port.busy = [] → (∀ q ∈ ready, port.last ≠ some q.1) ∨ port.lastYield = true ∨ 4 ≤ port.chain → (r, k) ∈ ready →
        (∀ q ∈ ready, ∀ v, q ≠ (r, k) → s.unit? q.1 = some v → u.lastIssue < v.lastIssue) → slotPartner s ready (r, k) = none →
        (u.thread k).met = true ∨ ((u.thread k).header.barw = false ∧ (u.thread k).header.ringw = false) →
        ∃ x v, exec (.clauseSelect core part) s = .next x ∧ issues k x v ∧ (tget default (x.core core).parts part).busy = [(r, k)] ∧
          (tget default (x.core core).parts part).last = some r ∧ (tget default (x.core core).parts part).chain = 1)) ∧
    (∀ core, (s.core core).callerPort.busy ≠ [] → exec (.callerClauseSelect core) s = .next s) ∧
    (∀ core k, (s.core core).callerPort.busy = [] → caller = true → t.home = core → (r.team, t) ∈ s.onCore core → readyOf s r = some k →
      u.core = core →
      (∀ p ∈ s.onCore core, p ≠ (r.team, t) → (readyOf s ⟨p.1, none⟩).isSome → u.lastIssue < p.2.caller.lastIssue) →
      (u.thread k).met = true ∨ ((u.thread k).header.barw = false ∧ (u.thread k).header.ringw = false) →
      ∃ x v, exec (.callerClauseSelect core) s = .next x ∧ issues k x v ∧ (x.core core).callerPort.busy = [(r, k)]) ∧
    (¬fetches → exec (.clauseFetchComplete r slot) s = .next s) ∧
    (fetches → th.words ≠ [] → th.run = true → th.ahead = [] → th.nextPc % 8 = 0 →
      (∀ a s1, fetchClause s r t u.core slot th.nextPc = (.error a, s1) → exec (.clauseFetchComplete r slot) s = .next s) ∧
      (∀ ws s1, fetchClause s r t u.core slot th.nextPc = (.ok ws, s1) → s1.unit? r = some u → ∃ x v, exec (.clauseFetchComplete r slot) s = .next x ∧
        x.unit? r = some v ∧ v.unplaced = u.unplaced ∧ OthersKept r s1 x ∧ x.mem = s1.mem ∧ (u.hasStream slot → v.thread slot = { th with ahead := ws }))) ∧
    (fetching → pc % 8 = 0 → th.ahead = [] → fetchStirs s r slot pc = false → exec (.clauseFetchComplete r slot) s = .next s) ∧
    (fetching → pc % 8 ≠ 0 → exec (.clauseFetchComplete r slot) s = .next (clauseTrap s r slot pc 0x02)) ∧
    (fetching → pc % 8 = 0 → th.ahead ≠ [] ∨ fetchStirs s r slot pc = true →
      (∀ s1, got = (.error .wait, s1) → exec (.clauseFetchComplete r slot) s = .next s1) ∧
      (∀ k info a s1, got = (.error (.fault k info a), s1) → exec (.clauseFetchComplete r slot) s = .next (
        if caller then clauseTrap s1 r slot pc k info a
        else addPending s1 r { cause := k, level := 0, f := u.xOf slot, addr := BitVec.ofNat 64 a, info := info
                               rep := { instr := none, pc := pc, idx := 1, slot := slot, em := u.xOf slot, acc := none, dst := none, regs := 0 } })) ∧
      (∀ ws s0 s1, got = (.ok ws, s0) → s1 = endProbe s0 r (clauseRep slot pc 0) →
        let h := decodeHeader (ws.headD 0)
        (h.reserved ≠ 0 ∨ h.cls = 7 ∨ h.stream ≠ caller → exec (.clauseFetchComplete r slot) s = .next (clauseTrap s1 r slot pc 0x02)) ∧
        (∀ k, headerCause s1 r u.core l.budget h = some k → exec (.clauseFetchComplete r slot) s = .next (clauseTrap s1 r slot pc k)) ∧
        (headerCause s1 r u.core l.budget h = none →
          (wordsOk h.cls 16 (ws.drop 1) = false → exec (.clauseFetchComplete r slot) s = .next (clauseTrap s1 r slot pc 0x02)) ∧
          (wordsOk h.cls 16 (ws.drop 1) = true →
            (atJoin u slot pc = true → exec (.clauseFetchComplete r slot) s =
              .next (if h.joinpt then arrive s1 r slot else clauseTrap s1 r slot pc 0x02)) ∧
            (atJoin u slot pc = false → s1.unit? r = some u → ∃ x v, exec (.clauseFetchComplete r slot) s = .next x ∧
              x.unit? r = some v ∧ v.unplaced = u.unplaced ∧ OthersKept r s1 x ∧ x.mem = s1.mem ∧
              v.thread slot = { th with words := ws, ahead := [], idx := if th.met then th.idx else 1 }))))) ∧
    (firstDue s u = none → exec (.trapDelivery r) s = .next s) ∧
    (∀ p, firstDue s u = some p → t.life = .running →
      let k := trapSlot u p
      let s1 := s.modUnit r fun u =>
        { u.modThread k fun th => { th with park := if th.park = .trap then .none else th.park } with pending := u.pending.erase p }
      let rep := (atDelivery u k p).rep
      (∀ pc s2, readHtab s1 r p.cause = (.entry pc, s2) → ∃ x v, exec (.trapDelivery r) s = .next x ∧ x.unit? r = some v ∧
        v.pending = u.pending.erase p ∧ (v.handler.map fun h => (h.th.pc, h.trap.cause, h.slot)) = some (pc, p.cause, k) ∧
        v.tinfo = p.info ||| BitVec.ofNat 64 (p.cause.toNat + (if caller then 3 else p.level) * 256) ∧ v.taddr = p.addr ∧
        v.tpc.toNat = rep.pc % 2 ^ 57 + (rep.idx - 1) % 16 * 2 ^ 57 ∧
        (caller = false → p.level = 0 → v.tmask = p.f ∧ v.handler.map (·.x) = some p.f) ∧ (caller = true → v.tmask = 0) ∧
        v.vregs = u.vregs ∧ v.sregs = u.sregs ∧ OthersKept r s2 x ∧ x.mem = (dropProbes s2 fun q => q = r).mem) ∧
      (∀ s2, readHtab s1 r p.cause = (.zero, s2) → ∃ x, exec (.trapDelivery r) s = .next x ∧
        (x.team? r.team).map (fun t => (t.life, t.fatal)) = some (.ended, true)))

/-! ## The memory side (R117, R129 to R145, R480) -/

/-- R30, R117, R121, R134, R135, R139, R160 to R166, R371: a lane that reaches its home is performed where its page allows it,
is a fault of the lane where it does not, or is parked; once every lane has returned, the destinations are written and full
again, for the lanes that have not exited. It says where each of longLatencyWriteback and translationAccess completes. -/
def Obligations.AccessesAtHome : Prop :=
  ∀ (s : State) (a : Access) (l : LaneAcc) (u : UnitState), s.access? a.id = some a → s.unit? a.u = some u →
    let isLoad := match a.kind with | .load _ => true | _ => false
    let goes := (match a.kind with | .load _ => true | .store _ => true | .red _ _ => true | _ => false) = true
    let s1 := replayDone s a.id l.lane
    let ans := homeCheck s1 a.u (s.coreSecure a.core) (!isLoad) l.ia
    let laneOf : State → Option LaneStatus := fun x => ((x.access? a.id).bind fun y => y.lane? l.lane).map (·.st)
    (a.lane? l.lane = some l → goes →
      (l.st ≠ .waiting ∨ replayTurn s a.id l.lane (pageOf l.ia) = false ∨ (isLoad = true ∧ redAhead s a.core l.ia a.id = true) ∨
          olderOpen s a.u a.id l.ia l.size = true →
        exec (.translationAccess a.id l.lane) s = .next s) ∧
      (l.st = .waiting → replayTurn s a.id l.lane (pageOf l.ia) = true → (isLoad = true → redAhead s a.core l.ia a.id = false) →
        olderOpen s a.u a.id l.ia l.size = false →
        (∀ k st, ans.1 = .fault k st → a.u.grp.isSome → laneMask a l ≠ 0 → u.handler = none → u.exited = false → u.pending = [] →
          let f := laneMask a l &&& u.live
          ∃ x v, exec (.translationAccess a.id l.lane) s = .next x ∧ x.unit? a.u = some v ∧ v.vregs = u.vregs ∧ v.sregs = u.sregs ∧
            v.pending.map (fun p => (p.cause, p.level, p.f, p.addr, p.info)) =
              (if f = 0 then [] else [(k, 0, f, BitVec.ofNat 64 l.va, BitVec.ofNat 64 (st * 1024))]) ∧
            ((x.access? a.id).bind fun y => y.lane? l.lane) = none ∧ x.mem.hbm = s.mem.hbm ∧ x.mem.msc = s.mem.msc) ∧
        (∀ w, ans.1 = .park w → ∃ x, exec (.translationAccess a.id l.lane) s = .next x ∧ laneOf x = some .parked ∧
          x.teams = s.teams ∧ x.mem.hbm = s.mem.hbm ∧ match w with
          | .moving => x.mem.movePark = s.mem.movePark ++ [(a.id, l.lane)]
          | .full => x.mem.faultWait = s.mem.faultWait ++ [(a.id, l.lane)]
          | .entry page => ∀ e ∈ s.mem.faults, e.page = page → { e with parked := e.parked ++ [(a.id, l.lane)] } ∈ x.mem.faults) ∧
        (ans.1 = .ok → s.pkg.badLines = [] →
          let cs := accScope ans.2 a
          (∀ acq, a.kind = .load acq →
            (if acq && !scopeLocal cs a.core then acquireBad ans.2 a.core l.ia l.size else loadBad ans.2 a.core l.ia l.size) = false →
            let half := acq && decide (l.size = 16)
            let n := if half then 8 else l.size
            let r := if acq && !scopeLocal cs a.core then acquireRead ans.2 a.core l.ia n cs else coreRead ans.2 a.core l.ia n a.hint
            ∃ x, exec (.translationAccess a.id l.lane) s = .next x ∧ x.mem = r.2.mem ∧ x.teams = s.teams ∧
              if half then (x.access? a.id).bind (fun y => y.lane? l.lane) =
                some { l with va := l.va + 8, ia := l.ia + 8, size := 8, data := words32 2 (natOf r.1) }
              else laneOf x = some (.done (l.data ++ words32 (max (a.regs - l.data.length) 2) (natOf r.1)))) ∧
          (∀ rel, a.kind = .store rel → ∃ x, exec (.translationAccess a.id l.lane) s = .next x ∧
            let half := rel && decide (l.size = 16)
            let y := storeLane ans.2 a.core l.ia a.hint
              (if half then bytesOf 8 (ofWords32 (l.data.take 2)) else bytesOf l.size (ofWords32 l.data)) rel (scopeLocal cs a.core)
            x.mem = y.mem ∧ x.cores = y.cores ∧ x.teams = s.teams ∧
              if half then (x.access? a.id).bind (fun y => y.lane? l.lane) =
                some { l with va := l.va + 8, ia := l.ia + 8, size := 8, data := l.data.drop 2 }
              else laneOf x = none) ∧
          (∀ aop ty, a.kind = .red aop ty → (∀ i, i < l.size → homeBad ans.2 (l.ia + i) = false) →
            ∃ x, exec (.translationAccess a.id l.lane) s = .next x ∧ laneOf x = none ∧ x.teams = s.teams ∧
              x.mem = (redAt ans.2 l.ia aop ty a.pol (accCtx ans.2 a) (ans.2.coreTag a.core) (ofWords32 l.data)).mem)))) ∧
    (∀ aop ty loc, a.kind = .atom aop ty loc → a.lanes = [l] → l.st = .waiting → replayTurn s a.id l.lane (pageOf l.ia) = true →
      redAhead s a.core l.ia a.id = false → olderOpen s a.u a.id l.ia l.size = false → ans.1 = .ok →
      loadBad ans.2 a.core l.ia l.size = false →
      let r := atomAt ans.2 a.core l.ia aop ty a.pol (accCtx ans.2 a) loc (accScope ans.2 a) (ofWords32 l.data) (ofWords32 l.cmp)
      ∃ x, exec (.translationAccess a.id l.lane) s = .next x ∧ laneOf x = some (.done (words32 2 r.1)) ∧ x.mem = r.2.mem ∧ x.cores = r.2.cores) ∧
    ((a.kind.isLoad = false ∨ ∃ y ∈ a.lanes, y.open = true) → exec (.longLatencyWriteback a.id) s = .next s) ∧
    (∀ d, a.kind.isLoad = true → (∀ g m v, a.kind ≠ .batch g m v) → (∀ y ∈ a.lanes, y.open = false) → a.dst = some d → u.exited = false →
      (a.lanes.map (·.lane)).Nodup → (∀ y ∈ a.lanes, y.lane < 64) →
      ((∀ f, a.rep.instr ≠ some (.trace f)) ∨ ∀ y ∈ a.lanes, s.isRaced a.id y.lane 0 = false) →
      ∃ x v, exec (.longLatencyWriteback a.id) s = .next x ∧ x.inflight = s.inflight.filter (fun y => y.id ≠ a.id) ∧
        x.unit? a.u = some v ∧ v.x = u.x ∧ OthersKept a.u s x ∧ x.mem = s.mem ∧
        (0x100 ≤ d → v.vregs = u.vregs ∧ ∀ k, v.sreg k = match a.lanes.head? with
          | some { st := .done w, .. } => if k = d - 0x100 then BitVec.ofNat 64 (ofWords32 (w.take 2)) else u.sreg k
          | _ => u.sreg k) ∧
        (d < 0x100 → a.uni = false → v.sregs = u.sregs ∧ ∀ k n, n < 64 → v.vreg k n = match a.lanes.find? fun y => y.lane = n with
          | some { st := .done w, .. } =>
            if u.live.getLsbD n ∧ d ≤ k ∧ k < d + (w.take a.regs).length then (w.take a.regs).getD (k - d) 0 else u.vreg k n
          | _ => u.vreg k n) ∧
        (d < 0x100 → a.uni = true → ∀ y w, a.lanes = [y] → y.st = .done w → v.sregs = u.sregs ∧ ∀ k n, n < 64 → v.vreg k n =
          if a.rep.em.getLsbD n ∧ u.live.getLsbD n ∧ d ≤ k ∧ k < d + (w.take a.regs).length then (w.take a.regs).getD (k - d) 0
          else u.vreg k n) ∧
        ((∀ y ∈ s.inflight, y.id ≠ a.id → y.u = a.u → y.rep.acc ≠ a.rep.acc) → u.pending = [] → u.replays = [] → u.override = none →
          u.handler = none → ∀ k, k < 0x180 → v.isEmpty k 1 = (u.isEmpty k 1 && !(decide (d ≤ k) && decide (k < d + a.regs)))))

/-- R29, R31, R133, R136 to R140, R145, R338 to R340, R480: a core's dirty bytes reach the home, where every agent reads them
and the core reads what it read before, or are dropped with a containment event; a line that a release has marked or a local
atomic has written takes every dirty byte of its core with it (R157, R162); a page change takes effect and answers its PMAP
or MIGR; a migration ends with the page's bytes at the new frame (or back at the peer, log 71); a pin that waits is granted
below the limit. It says where each of l1Writeback, translationChangeComplete, migrationEnd and pinLandingAdmit completes. -/
def Obligations.PagesAndWritebacks : Prop :=
  ∀ (s : State),
    (∀ core line l, s.l1? core line = some l → l.lrel = true ∨ l.localAtom = true → ∃ t, exec (.l1Writeback core line) s = .next t ∧
      t.teams = s.teams ∧ ∀ k x, t.l1? core k = some x → x.dirty = 0 ∧ x.lrel = false) ∧
    (∀ core line l, s.l1? core line = some l → l.dirty ≠ 0 → l.lrel = false → l.localAtom = false → (core, line) ∉ s.pkg.badLines →
      ownerOf s line (some core) = none → (homeSlice (128 * line)).isSome →
      ∃ t, exec (.l1Writeback core line) s = .next t ∧ (t.l1? core line).map (·.dirty) = some 0 ∧ t.teams = s.teams ∧
        (pageState s (pageOf (128 * line)) = 1 → (∀ m ∈ s.mem.migrations, m.page ≠ pageOf (128 * line)) →
          (∀ i, i < 128 → l.dirty.getLsbD i = true → homeByte t (128 * line + i) = lineByte l.data i) ∧
          ((s.msc? line).isSome ∨ (∀ p ∈ s.mem.msc, p.2.dirty = 0) →
            ∀ i, i < 128 → coreByte t core (128 * line + i) = coreByte s core (128 * line + i))) ∧
        (pageState s (pageOf (128 * line)) ∉ [1, 3] → t.mem.hbm = s.mem.hbm ∧ t.mem.msc = s.mem.msc ∧ t.pkg.alerts.contain = true ∧
          (t.context (bits (pte s (pageOf (128 * line))) 8 12)).fault.getLsbD 200 = true)) ∧
    (∀ core line l, s.l1? core line = some l → l.dirty ≠ 0 → l.lrel = false → l.localAtom = false → (core, line) ∈ s.pkg.badLines →
      ownerOf s line (some core) = none → tget 0 s.mem.level1 (pageOf (128 * line) / 16384) ≠ 0 →
      ∃ t, exec (.l1Writeback core line) s = .next t ∧ t.l1? core line = none ∧ pageState t (pageOf (128 * line)) = 5 ∧
        t.mem.hbm = s.mem.hbm ∧ t.pkg.alerts.contain = true ∧ (core, line) ∉ t.pkg.badLines ∧ t.teams = s.teams) ∧
    (∀ page,
      ((∀ c ∈ s.mem.changes, c.page ≠ page) ∨ pageState s page = 3 → exec (.translationChangeComplete page) s = .next s) ∧
      (∀ c r slot, s.mem.changes.find? (fun c => c.page = page) = some c → c.who = .pmap r slot → pageState s page ≠ 3 →
        tget 0 s.mem.level1 (page / 16384) ≠ 0 → ∀ u, s.unit? r = some u → u.hasStream slot = true → (u.thread slot).park = .page none →
        let parked : State → Option Park := fun t => (t.unit? r).map fun u => (u.thread slot).park
        ∃ t, exec (.translationChangeComplete page) s = .next t ∧ t.mem.changes = s.mem.changes.erase c ∧
          (pageState s page = 1 → t.mem.ptes = s.mem.ptes ∧ t.mem.hbm = s.mem.hbm ∧
            parked t = some (.page (some (BitVec.ofNat 64 (bits (pte s page) 20 24 + 2 ^ 63))))) ∧
          (pageState s page ≠ 1 → pte t page = c.entry ∧ (∀ e ∈ t.mem.faults, e.page ≠ page) ∧
            parked t = some (.page (some (BitVec.ofNat 64 (bits c.entry 20 24)))) ∧
            (pageState s page = 2 → (∀ p ∈ s.mem.msc, p.1 / 512 ≠ page) → ∀ j, j < 65536 → hbmByte t (bits c.entry 20 24 * 65536 + j) = 0))) ∧
      (∀ c who, s.mem.changes.find? (fun c => c.page = page) = some c → c.who = .migr who → pageState s page = 1 →
        ∃ t, exec (.translationChangeComplete page) s = .next t ∧ bits (pte t page) 0 3 = 3 ∧ t.mem.hbm = s.mem.hbm ∧
          t.mem.migrations = s.mem.migrations ++ [⟨page, bits c.entry 20 24, false, bits (pte s page) 20 24, who, [], none, false⟩] ∧
          (∀ e ∈ t.mem.faults, e.page ≠ page)) ∧
      (∀ m bad, s.mem.migrations.find? (fun m => m.page = page) = some m →
        (m.fromPeer = true → m.fetched = none → m.failed = false → exec (.migrationEnd page bad) s = .next s) ∧
        (bits (pte s page) 0 3 ≠ 3 → (m.fromPeer = false ∨ m.fetched.isSome ∨ m.failed = true) → ∃ t, exec (.migrationEnd page bad) s = .next t ∧
          pte t page = pte s page ∧ t.mem.hbm = s.mem.hbm ∧ t.mem.migrations = s.mem.migrations.erase m) ∧
        (bits (pte s page) 0 3 = 3 → m.fromPeer = false → m.fetched = none → m.failed = false → bad = false → moveBad s page m.oldFrame = false → s.memOk →
          tget 0 s.mem.level1 (page / 16384) ≠ 0 → m.frame < 2 ^ 24 →
          ∃ t, exec (.migrationEnd page bad) s = .next t ∧ bits (pte t page) 0 3 = 1 ∧ bits (pte t page) 20 24 = m.frame ∧
            t.mem.migrations = s.mem.migrations.erase m ∧
            (m.who = none → t.pkg.retired = s.pkg.retired + 1 ∧ t.pkg.alerts.lasting = true ∧
              t.pkg.reserve = s.pkg.reserve ++ [m.oldFrame]) ∧
            (∀ j, j < 65536 → hbmByte t (m.frame * 65536 + j) =
              hbmByte s ((if j ∈ m.wrote then m.frame else m.oldFrame) * 65536 + j)) ∧
            ∀ p, p / 65536 ≠ m.frame → hbmByte t p = hbmByte s p) ∧
        (∀ bs, bits (pte s page) 0 3 = 3 → m.fromPeer = true → m.fetched = some bs → bs.length = 65536 → m.failed = false → bad = false →
          tget 0 s.mem.level1 (page / 16384) ≠ 0 → m.frame < 2 ^ 24 →
          ∃ t, exec (.migrationEnd page bad) s = .next t ∧ bits (pte t page) 0 3 = 1 ∧ bits (pte t page) 20 24 = m.frame ∧
            ∀ j, j < 65536 → j ∉ m.wrote → hbmByte t (m.frame * 65536 + j) = bs.getD j 0) ∧
        (bits (pte s page) 0 3 = 3 → m.failed = true → tget 0 s.mem.level1 (page / 16384) ≠ 0 → ∃ t, exec (.migrationEnd page bad) s = .next t ∧
          bits (pte t page) 0 3 = 4 ∧ t.mem.hbm = s.mem.hbm) ∧
        (bits (pte s page) 0 3 = 3 → m.fromPeer = false → m.failed = false → bad = true → tget 0 s.mem.level1 (page / 16384) ≠ 0 →
          ∃ t, exec (.migrationEnd page bad) s = .next t ∧ bits (pte t page) 0 3 = 5 ∧ t.mem.hbm = s.mem.hbm ∧
            t.pkg.alerts.contain = true))) ∧
    ∀ slice set,
      ((s.mem.pinWait.find? fun w => homeSlice (128 * w.1) = some slice && mscSetOf w.1 = set) = none →
        exec (.pinLandingAdmit slice set) s = .next s) ∧
      ∀ line landing tag who,
        (s.mem.pinWait.find? fun w => homeSlice (128 * w.1) = some slice && mscSetOf w.1 = set) = some (line, landing, tag, who) →
        (pinLimit s line tag ≤ pinsInSet s line → exec (.pinLandingAdmit slice set) s = .next s) ∧
        (pinsInSet s line < pinLimit s line tag → ∀ x, s.msc? line = some x → mscStale s line x = false → ∃ t y, exec (.pinLandingAdmit slice set) s = .next t ∧
          t.mem.pinWait = s.mem.pinWait.erase (line, landing, tag, who) ∧ t.msc? line = some y ∧ t.mem.hbm = s.mem.hbm ∧
          y.data = x.data ∧ y.dirty = x.dirty ∧ y.valid = x.valid ∧
          y.pins = x.pins + (if landing then 0 else 1) ∧ y.landing = x.landing + (if landing then 1 else 0))

/-! ## The copy engines and the matrix unit (R192 to R217) -/

/-- R192 to R194, R199 to R202: a channel reads its next record where the memory side lets it, ends its chain at a record it
does not own, reserves the ring slot RES or waits for one, and refuses a bad record with FORMAT or a foreign ring with RING; a
good one is planned, moved and completed. A move between two typed stores copies every byte; a quantising record writes each block's
elements and its scale; the plane modes put bit 32 - j of element e in bit e of plane j and back; a piece of a peer is requested
from it, or sent to it, and its bytes are the ones that came. A write that is refused ends the chain with the refusal's status. A
completed record advances SEQ and sets its status; the next record follows it, or the chain ends. That a record is planned at its
start, and that it reads its source in one step and then writes as pages and landings let it, is the model's choice (log 53). It
says where each of copyRecordStart and copyRecordEnd completes. -/
def Obligations.CopyRecords : Prop :=
  ∀ (s : State) (n : Nat),
    let ch := s.channel n
    let sec := s.coreSecure ch.core
    (ch.st ≠ .reading → exec (.copyRecordStart n) s = .next s) ∧
    (ch.st = .reading → ch.cur % 64 ≠ 0 → exec (.copyRecordStart n) s = .next (abandon s n 1)) ∧
    (∀ status, ((abandon s n status).channel n).st = .idle ∧ ((abandon s n status).channel n).last = BitVec.ofNat 8 status ∧
      ((abandon s n status).channel n).seq = ch.seq + 1 ∧ (abandon s n status).mem = s.mem) ∧
    (ch.st = .reading → ch.cur % 64 = 0 → ∀ k i a, engineCheck s ch.wins sec false ch.cur 64 = .stop k i a →
      ∃ t, exec (.copyRecordStart n) s = .next t ∧ (t.channel n).st = .idle ∧
        (t.channel n).last = BitVec.ofNat 8 (causeStatus k) ∧ (t.channel n).seq = ch.seq + 1 ∧ t.mem.hbm = s.mem.hbm ∧ t.mem.msc = s.mem.msc) ∧
    (ch.st = .reading → ch.cur % 64 = 0 → engineCheck s ch.wins sec false ch.cur 64 = .ok → engineCheck s ch.wins sec true ch.cur 8 = .ok →
      ∀ bs s1, engineRead s ch.wins sec ch.cur 64 (s.coreTag ch.core) = (false, bs, s1) →
        let r : BitVec 512 := BitVec.ofNat 512 (natOf bs)
        let ring := s1.ring ch.core (rRing r)
        let held := ringHeld s1 ch.core (rRing r) ch.team
        let reserve := rRingen r && held && ch.slot.isNone
        let s2 := s1.modChannel n fun c => { c with record := r }
        let s3 := if reserve then (s2.setRing ch.core (rRing r) (setBits ring 192 32 (rgRes ring + 1))).modChannel n fun c =>
          { c with slot := some (BitVec.ofNat 32 (rgRes ring)) } else s2
        (r.getLsbD 0 = false → exec (.copyRecordStart n) s = .next (sweepRings (s1.modChannel n fun c => { c with st := .idle }) ch.core)) ∧
        (r.getLsbD 0 = true → ((reserve = true ∧ ringFull ring = true) ∨ endWaits s3 (s3.channel n) r = true) →
          exec (.copyRecordStart n) s = .next s) ∧
        (r.getLsbD 0 = true → (reserve = true → ringFull ring = false) → endWaits s3 (s3.channel n) r = false →
          (recordBad r = true → exec (.copyRecordStart n) s = .next (endRecord s3 n 1 0 0 none 0)) ∧
          (recordBad r = false → rRingen r = true → held = false →
            exec (.copyRecordStart n) s = .next (endRecord (s3.modChannel n fun c => { c with slot := none }) n 0x0A 0 0 none 0)) ∧
          (recordBad r = false → (rRingen r = true → held = true) → scopeValid ch.wins (rScope r) = false →
            exec (.copyRecordStart n) s = .next (endRecord s3 n 6 0 0 none 0)) ∧
          (recordBad r = false → (rRingen r = true → held = true) → scopeValid ch.wins (rScope r) = true → ∀ pl s4,
            (if rMode r = 1 ∨ rMode r = 2 then planElems s3 (s3.channel n) r
              else if rMode r = 3 then (.ok { pieces := [], stop := none }, s3)
              else planRuns s3 (s3.channel n) r) = (.ok pl, s4) → startWaits s4 (s3.channel n) pl.pieces = false →
            exec (.copyRecordStart n) s = .next (if remoteBad r pl = true then endRecord s4 n 1 0 0 none 0
              else landNow n (postPieces n pl.pieces (s4.modChannel n fun c => { c with
                st := .moving, plan := pl.pieces, planEnd := pl.stop, total := pl.total, acked := [], got := [], got_n := 0, writes := none, wrote := [], err := none })))))) ∧
    (ch.st ≠ .moving ∨ ch.got_n ≠ 0 → exec (.copyRecordEnd n) s = .next s) ∧
    (ch.st = .moving → ch.got_n = 0 → ch.planEnd = none →
      let m := readSource ch ch.plan s
      let go : State → State := fun s1 =>
        if ((goOnWriting n s1).channel n).writes = some [] ∧ endWaits (goOnWriting n s1) ((goOnWriting n s1).channel n) ch.record = false
        then finishRecord n ch.plan (goOnWriting n s1) else goOnWriting n s1
      (ch.writes = none → m.wait = true → exec (.copyRecordEnd n) s = .next s) ∧
      (ch.writes = none → m.wait = false → exec (.copyRecordEnd n) s =
        .next (go (m.s.modChannel n fun c => { c with writes := some m.writes, err := m.err }))) ∧
      (ch.writes.isSome → exec (.copyRecordEnd n) s = .next (go s))) ∧
    (∀ k a j b len, locBad (.store k a) len = false → locBad (.store j b) len = false → k < 3 → j < 3 → k ≠ j →
      wordsBad s ch.core k a len = false → ch.err = none →
      let m := movePiece ch { writes := [], err := none, s := s } { pos := 0, len := len, src := .store k a, dst := .store j b }
      let t := (performWrites n m.writes s).2
      m.err = none ∧ m.wait = false ∧ m.s = s ∧ (performWrites n m.writes s).1 = [] ∧ t.mem = s.mem ∧ (t.channel n).err = none ∧
        ∀ x y, x < 3 → tget 0 ((t.core ch.core).store x) y =
          if x = j ∧ b ≤ y ∧ y < b + len then tget 0 ((s.core ch.core).store k) (a + (y - b)) else tget 0 ((s.core ch.core).store x) y) ∧
    (let r := ch.record
      let inB := if rQfmt r < 2 then 128 else 64
      let blocks := rLen r / inB
      let scl := locOf (if rDsp r = 1 ∨ rDsp r = 2 then 3 else 0) none (rAux r)
      rSsp r = 1 → locBad (.store 0 (rSrc r)) (rLen r) = false →
      locBad (locOf (rDsp r) none (rDst r)) ((if rQfmt r % 2 = 1 then 32 else 16) * blocks) = false → locBad scl blocks = false →
      wordsBad s ch.core 0 (rSrc r) (rLen r) = false →
      let m := moveQuantise ch r { writes := [], err := none, s := s }
      m.err = none ∧ m.wait = false ∧ ∀ b, b < blocks →
        let bs := storeRead s ch.core 0 (rSrc r + inB * b) inB
        let v : List W32 := (List.range 32).map fun i =>
          if rQfmt r < 2 then BitVec.ofNat 32 (natOf ((bs.drop (4 * i)).take 4)) else BitVec.ofNat 32 (natOf ((bs.drop (2 * i)).take 2) * 65536)
        ∃ sc es, quantise (if ch.pol = 2 then 0 else ch.pol) (rQfmt r % 2 = 1) v = some (sc, es) ∧
          ((m.writes.filter fun w => w.key = b && w.counts).flatMap (·.data)) =
            (if rQfmt r % 2 = 1 then es.map (BitVec.ofNat 8) else
              (List.range 16).map fun i => BitVec.ofNat 8 (es.getD (2 * i) 0 + es.getD (2 * i + 1) 0 * 16)) ∧
          ((m.writes.filter fun w => w.key = b && !w.counts).map fun w => (w.loc, w.data)) = [(scl.plus b, [BitVec.ofNat 8 sc])]) ∧
    (∀ tile : Bytes, tile.length = 1024 → ∀ e, e < 256 →
      (∀ j, 1 ≤ j → j ≤ 32 → ((planeEncode tile).getD (32 * (j - 1) + e / 8) 0).getLsbD (e % 8) =
        (natOf ((tile.drop (4 * e)).take 4)).testBit (32 - j)) ∧
      ∀ k i, k ≤ 32 → i < 32 → (natOf (((planeDecode k tile).drop (4 * e)).take 4)).testBit i =
        (decide (32 - k ≤ i) && (tile.getD (32 * (31 - i) + e / 8) 0).getLsbD (e % 8))) ∧
    (∀ p : Piece, ch.planEnd = none → ∀ id va, (p.src = .peer id va →
        (rMode ch.record = 1 → tfind ch.skip (p.pos / max 1 (rEsz ch.record)) = none) →
        (∀ x s1, cpPeer s ch id = (.ok x, s1) → postPieces n [p] s =
          post (s1.modChannel n fun c => { c with got_n := c.got_n + 1 }) x.port x.conn (.read va x.rkey p.len) (.copyRead n p.pos id)) ∧
        (∀ st s1, cpPeer s ch id = (.error (.bad st), s1) → ((postPieces n [p] s).channel n).planEnd = some (st, p.pos, id)) ∧
        (∀ g, (ch.got.find? fun g => g.1 = p.pos) = some g → g.2.length = p.len → p.pred = none → locBad p.dst p.len = false →
          let m := movePiece ch { writes := [], err := none, s := s } p
          m.err = none ∧ m.wait = false ∧ m.s = s ∧ m.writes.flatMap (·.data) = g.2)) ∧
      (p.dst = .peer id va → p.remoteSrc = false → locBad p.src p.len = false → ∀ x s1, cpPeer s ch id = (.ok x, s1) →
        ∀ bs s2, locRead s1 ch p.src p.pos 0 p.len = (.ok bs, s2) → postPieces n [p] s =
          post (s2.modChannel n fun c => { c with got_n := c.got_n + 1 }) x.port x.conn (.write va x.rkey bs none) (.copyWrite n p.pos id))) ∧
    (∀ w va k i a, ch.st = .moving → ch.got_n = 0 → ch.planEnd = none → ch.failed = none → ch.err = none → ch.writes = some [w] →
      w.loc = .mem va → engineCheck s ch.wins sec true va w.data.length = .stop k i a → rStaddr ch.record = 0 → ch.slot = none →
      ch.landing = [] → endWaits s ch ch.record = false → ∃ t, exec (.copyRecordEnd n) s = .next t ∧ (t.channel n).st = .idle ∧
        (t.channel n).last = BitVec.ofNat 8 (causeStatus k) ∧ (t.channel n).seq = ch.seq + 1) ∧
    ∀ status pos, rStaddr ch.record = 0 → ch.slot = none → ch.landing = [] →
      let s1 := cpRelease (dropLandings s n) n ch.cur (bytesOf 1 (bits ch.record 1 7 * 2))
      let t := endRecord s n status pos 0 none 0
      (t.channel n).seq = ch.seq + 1 ∧ (t.channel n).last = BitVec.ofNat 8 status ∧
      (status ≠ 0 → (t.channel n).st = .idle ∧ t.mem = s1.mem) ∧
      (status = 0 → ∀ bs s2, cpRead s1 ch (ch.cur + 8) 8 = (.ok bs, s2) →
        let next := bits (wordOfBytes bs) 0 57
        t.mem = s2.mem ∧ (next = 0 → (t.channel n).st = .idle) ∧
        (next ≠ 0 → (t.channel n).st = .reading ∧ (t.channel n).cur = next))

/-- R189, R205, R206, R209 to R211, R213 to R215, R217: an operation that waits is accepted once there is room, and takes a free
slot at +0.0, but not from a caller that a save has stopped or that has exited; an engine takes up one operation at a time; the sequencer sums one slab, exactly and with one rounding, into every
element, or zeroes the slot; a line of a direct-mode image is pinned and read; the epilogue writes one row; MSAVE and MREST
transfer one row; the watchdog empties the queue and the slots and raises cause 0x0E for the teams that hold one. The values
after hazards are free, and when an epilogue reads its parameters is the model's reading (logs 51, 52). It says where each of
matrixOpAccept, sequencerStep, tileFetchReturn, epilogueRow, msaveMrestTransfer and matrixWatchdogExpiry completes. -/
def Obligations.MatrixUnit : Prop :=
  ∀ (s : State) (core : Nat),
    let queue : State → List MatOp := fun t => (t.core core).matq
    let seq := runningOp (queue s) true
    let epi := runningOp (queue s) false
    let progressed : MatOp → State → Prop := fun op t => if op.row < 128 then op ∈ queue t else ∀ m ∈ queue t, m.tag ≠ op.tag
    (∀ u us, s.unit? u = some us →
      let slot := if us.handler.isSome then 5 else 0
      ((∀ op, (us.thread slot).park ≠ .matrix op) → exec (.matrixOpAccept u) s = .next s) ∧
      (∀ op, (us.thread slot).park = .matrix op →
        (matRoom s us.core op = false ∨ us.exited = true ∨ (∀ tm, s.team? u.team = some tm → tm.life ≠ .running) →
          exec (.matrixOpAccept u) s = .next s) ∧
        (∀ tm, s.team? u.team = some tm → tm.life = .running → us.exited = false → matRoom s us.core op = true → ∃ t v op', exec (.matrixOpAccept u) s = .next t ∧
          (t.core us.core).matq = (s.core us.core).matq ++ [op'] ∧ op'.team = op.team ∧ op'.slot = op.slot ∧ op'.tag = s.nextId ∧
          (t.reel us.core op.slot).holder = some op.team ∧ ((s.reel us.core op.slot).holder = none → (t.reel us.core op.slot).data = []) ∧
          t.unit? u = some v ∧ (v.thread slot).park = .done ∧ v.unplaced = us.unplaced ∧ OthersKept u s t ∧ t.mem = s.mem))) ∧
    (∀ op op1 s1, startOp s core op = (op1, s1) → op1.tag = op.tag ∧ op1.started = true ∧ op1.active = true ∧
      queue s1 = (if op.started && op.active then queue s else
        ((queue s).map fun m => if m.kind.isSeq = op.kind.isSeq then { m with active := false } else m).map fun m =>
          if m.tag = op.tag then op1 else m)) ∧
    (∀ op, seq = some op → (∃ m ∈ queue s, m.active = true ∧ m.kind.isSeq = true ∧ m.stop = none ∧
      ∀ x ∈ queue s, x.team = m.team → x.stop.isSome → m.tag ≤ x.tag) → op.active = true) ∧
    (seq = none → exec (.sequencerStep core) s = .next s ∧ exec (.tileFetchReturn core) s = .next s) ∧
    (∀ op, seq = some op → op.kind = .zero → ∃ t, exec (.sequencerStep core) s = .next t ∧ (t.reel core op.slot).data = [] ∧
      queue t = (queue (startOp s core op).2).filter fun m => m.tag ≠ op.tag) ∧
    (∀ op sparse cw aw bw exp0 here s1, seq = some op → op.kind = .mma sparse cw aw bw exp0 → startOp s core op = (here, s1) →
      let exp := if op.started then exp0 else execList s core sparse cw aw
      here.kind = .mma sparse cw aw bw exp ∧ here.step = op.step ∧
      (∀ slab a b, exp[op.step]? = some slab → op.taintR = 0 → op.taintC = 0 → slabData s1 core here aw false slab = some a →
        slabData s1 core here bw true slab = some b → ∃ t, exec (.sequencerStep core) s = .next t ∧
          (∀ i j, i < 128 → j < 128 →
            let products := ((slabRow s1 core (owFmt aw) (cwSca cw) slab a i).zip (slabRow s1 core (owFmt bw) (cwScb cw) slab b j)).map
              fun p => p.1.mul p.2
            tget 0 (t.reel core op.slot).data (128 * i + j) =
              f32Round (numSum (f32Val ((tlist 0 0 16384 (s1.reel core op.slot).data).getD (128 * i + j) 0) :: products))) ∧
          queue t = if op.step + 1 < exp.length then (queue s1).map fun m => if m.tag = op.tag then { here with step := op.step + 1 } else m
            else (queue s1).filter fun m => m.tag ≠ op.tag) ∧
      (∀ slab, exp[op.step]? = some slab → slabData s1 core here aw false slab = none ∨ slabData s1 core here bw true slab = none →
        exec (.sequencerStep core) s = .next s1)) ∧
    (∀ op op1 s1, seq = some op → startOp s core op = (op1, s1) →
      (nextLine s1 core op1 = none → exec (.tileFetchReturn core) s = .next s1) ∧
      ∀ isB idx va, nextLine s1 core op1 = some (isB, idx, va) →
        let ans := engineCheck s1 (opWins s1 op1) (s1.coreSecure core) false va 128
        let ia := engineIa (opWins s1 op1) (s1.coreSecure core) false va
        let s2 := if (s1.core core).tileWait = some (lineOf ia) then s1
          else (requestPin s1 (lineOf ia) false (s1.coreTag core) core).modCore core fun c => { c with tileWait := some (lineOf ia) }
        (ans = .wait → exec (.tileFetchReturn core) s = .next s1) ∧
        (∀ k i a, ans = .stop k i a → exec (.tileFetchReturn core) s =
          .next (stopOp (engineNote s1 (opWins s1 op1) false (.stop k i a) (s1.coreTag core)) core op1 k i a)) ∧
        (ans = .ok → (∃ w ∈ s2.mem.pinWait, w.2.2.2 = core) → exec (.tileFetchReturn core) s = .next s2) ∧
        (ans = .ok → (∀ w ∈ s2.mem.pinWait, w.2.2.2 ≠ core) → ∀ bs s3, agentRead s2 ia 128 (s2.coreTag core) = (false, bs, s3) →
          ∃ t, exec (.tileFetchReturn core) s = .next t ∧ (t.core core).tiles = (s3.core core).tiles ++ [⟨op1.tag, isB, idx, lineOf ia, bs⟩] ∧
            t.mem = s3.mem)) ∧
    ((∀ op mod conv a b d, epi = some op → op.kind ≠ .epi mod conv a b d) → exec (.epilogueRow core) s = .next s) ∧
    (∀ op op1 s1 mod conv a b d bs note, epi = some op → op.kind = .epi mod conv a b d → startOp s core op = (op1, s1) →
      convertRow conv op.pol (epiRow s1 core op1 mod a) = (bs, [], note) → ewMem b = false →
      ∃ t, exec (.epilogueRow core) s = .next t ∧ t.mem.hbm = s.mem.hbm ∧
        (∀ i, i < bs.length → tget 0 (t.core core).act (ewAddr b + op.row * bits a 20 20 + i) = bs.getD i 0) ∧
        progressed { op1 with row := op.row + 1, nonfin := op.nonfin || note } t) ∧
    (∀ op op1 s1 va rel, epi = some op → op.kind = .save va rel false → (queue s).find? (fun m => m.tag = op.tag) = some op →
      startOp s core op = (op1, s1) → op.row < 127 → engineCheck s1 (opWins s1 op1) (s1.coreSecure core) true (va + 512 * op.row) 512 = .ok →
      ∃ t, exec (.msaveMrestTransfer core) s = .next t ∧ progressed { op1 with row := op.row + 1 } t ∧
        t.mem = (engineCoreWrite s1 core (opWins s1 op1) (s1.coreSecure core) (va + 512 * op.row) (rowBytes (s1.reel core op.slot) op.row)).mem) ∧
    (∀ op op1 s1 va bs s2, (∀ x va rel e, epi = some x → x.kind ≠ .save va rel e) → seq = some op → op.kind = .rest va →
      (queue s).find? (fun m => m.tag = op.tag) = some op → startOp s core op = (op1, s1) →
      engineCoreCheck s1 core (opWins s1 op1) (s1.coreSecure core) (va + 512 * op.row) 512 = .ok →
      engineCoreRead s1 core (opWins s1 op1) (s1.coreSecure core) (va + 512 * op.row) 512 = (false, bs, s2) →
      ∃ t, exec (.msaveMrestTransfer core) s = .next t ∧ progressed { op1 with row := op.row + 1, step := op.step + 1 } t ∧
        ∀ e, tget 0 (t.reel core op.slot).data e = if e / 128 = op.row then BitVec.ofNat 32 (natOf ((bs.drop (4 * (e % 128))).take 4))
          else tget 0 (s1.reel core op.slot).data e) ∧
    ((∀ m, seq = some m ∨ epi = some m → m.started = false) ∨ s.coreClocked core = false →
      exec (.matrixWatchdogExpiry core) s = .next s) ∧
    ((∃ m, (seq = some m ∨ epi = some m) ∧ m.started = true) → s.coreClocked core = true → ∃ t, exec (.matrixWatchdogExpiry core) s = .next t ∧ queue t = [] ∧
      (∀ n, (t.reel core n).data = [] ∧ (t.reel core n).holder = (s.reel core n).holder ∧
        ((s.reel core n).holder.isSome → (t.reel core n).lost = true)) ∧
      ∀ id x, s.team? id = some x → (id, x) ∈ s.residents → heldSlots s core id ≠ [] → (∀ q v, q.team = id → s.unit? q = some v → v.handler = none) →
        ∀ q v, q.team = id → s.unit? q = some v → v.exited = false →
          ∃ w, t.unit? q = some w ∧ ∃ p ∈ w.pending, p.cause = 0x0E ∧ p.level = 2)

/-! ## Raster streams (R230 to R243) -/

/-- R236, R237, R239, R241 to R243: the oldest live geometry team of a die forwards its PEMITs in order, one that was spilled from
its record, which holds all of it at places that the model leaves open (log 37), and its die's watermark rises; an owner merges the lowest (sequence, view) once every silent source is past it, writes its record and makes its
fragments, pixel by pixel in row-major order; up to 256 of the oldest fragment's (view, tile) become a team; a fragment is
performed once none of a lower sequence is outstanding at its pixel and view, and writes nothing where its depth test fails.
What R235 to R243 leave open is the model's choice (log 61). It says where each of primitiveForward, rasterMerge,
fragmentTeamFormation and renderOutputPerform completes. -/
def Obligations.RasterStreams : Prop :=
  ∀ (s : State) (k die : Nat) (st : Stream), s.stream? k = some st →
    let o := tget default st.owners die
    let head : Nat → Option Prim := fun i => (tget [] o.inbound i).head?
    (tget [] st.live die = [] → exec (.primitiveForward k die) s = .next (settleStream (raiseWatermark k die s) k)) ∧
    (∃ x, (raiseWatermark k die s).stream? k = some x ∧ (tget default x.sources die).w = watermark s st die ∧ x.owners = st.owners) ∧
    (∀ id rest, tget [] st.live die = id :: rest →
      let next := (tget default st.sources die).emits.find? fun e => e.1 = id
      (∀ e, next = some e →
        let done : State → Prop := fun s1 => ∀ x, s1.stream? k = some x → ∃ t y, exec (.primitiveForward k die) s = .next t ∧
          t.stream? k = some y ∧ y.owners = x.owners ∧ y.live = x.live ∧ t.mem = s1.mem ∧
          (tget default y.sources die).emits = (tget default x.sources die).emits.erase e
        (spilledEmit s k st e.2 = none → exec (.primitiveForward k die) s = .next s) ∧
        (∀ s1, spilledEmit s k st e.2 = some (none, s1) → done s1) ∧
        (∀ m s0, spilledEmit s k st e.2 = some (some m, s0) →
          (e.2.record = none → m = e.2 ∧ s0 = s) ∧
          (∀ s1, forwardEmit k die m s0 = (.wait, s1) → exec (.primitiveForward k die) s = .next s) ∧
          (∀ s1, forwardEmit k die m s0 = (.format, s1) → exec (.primitiveForward k die) s = .next (stopStream s1 k 1)) ∧
          (∀ s1, forwardEmit k die m s0 = (.ok, s1) → done s1))) ∧
      (next = none → geometryEnded s id = true → exec (.primitiveForward k die) s =
        .next (settleStream (raiseWatermark k die (s.modStream k fun st => { st with live := tput st.live die rest })) k)) ∧
      (next = none → geometryEnded s id = false → exec (.primitiveForward k die) s = .next (raiseWatermark k die s))) ∧
    (∀ m : Emit, m.seq < 2 ^ 64 → m.nattr ≤ 16 → m.verts.length = 3 → (∀ v ∈ m.verts, v.length = 4 + m.nattr) →
      (spillBytes m).length = 512 ∧ emitOf (spillBytes m) = { m with record := none, late := false }) ∧
    (mergeHead o = none → exec (.rasterMerge k die) s = .next (settleStream s k)) ∧
    (∀ j p, mergeHead o = some (j, p) →
      (j < 4 ∧ head j = some p ∧ ∀ i q, i < 4 → head i = some q → p.seq < q.seq ∨ (p.seq = q.seq ∧ p.view ≤ q.view)) ∧
      let silent := ∃ i w, i < 4 ∧ tget [] o.inbound i = [] ∧ (tget default st.sources i).w = some w ∧ w ≤ p.seq
      let rcd := ringRecord st die o.wptr
      (silent → exec (.rasterMerge k die) s = .next s) ∧
      (¬silent → o.last ≠ some (p.seq, p.view, p.part) →
        (ringBusy st die o = true ∨ rasterWrite s k st rcd (primRecord p) = none → exec (.rasterMerge k die) s = .next s) ∧
        (∀ s1 fs s2, ringBusy st die o = false → rasterWrite s k st rcd (primRecord p) = some s1 → rasterise st p rcd s1 = (fs, s2) →
          ∃ t x, exec (.rasterMerge k die) s = .next t ∧ t.stream? k = some x ∧ t.mem = s1.mem ∧
            let y := tget default x.owners die
            tget [] y.inbound j = (tget [] o.inbound j).drop 1 ∧ y.wptr = o.wptr + 1 ∧ y.last = some (p.seq, p.view, p.part) ∧
            y.frags = o.frags ++ fs ∧ y.live = o.live ++ fs.map (fun f => (f.seq, f.view, f.px, f.py)) ∧
            (∀ f ∈ fs, f.seq = p.seq ∧ f.view = p.view ∧ f.tile = p.tile ∧ f.back = p.back ∧ f.rcd = rcd) ∧
            fs.map (fun f => (f.px, f.py)) = (((List.range 64).flatMap fun y => (List.range 64).map fun x =>
                (64 * (p.tile % rsTw st) + x, 64 * (p.tile / rsTw st) + y)).filter fun q =>
              decide (q.1 < rsWidth st) && decide (q.2 < rsHeight st) && covered p.xs (256 * (q.1 : Int) + 128, 256 * (q.2 : Int) + 128))))) ∧
    ((o.frags = [] ∨ ∀ p ∈ s.launches, p.2.role ≠ .fragment k die) →
      exec (.fragmentTeamFormation k die) s = .next (settleStream s k)) ∧
    (∀ f fs lid l, o.frags = f :: fs → s.launches.find? (fun p => p.2.role = .fragment k die) = some (lid, l) → s.launch? lid = some l →
      let mine := (o.frags.filter fun x => x.view = f.view && x.tile = f.tile).take 256
      ∃ t x y, exec (.fragmentTeamFormation k die) s = .next t ∧ t.team? s.nextId = some x ∧ x.launch = lid ∧ x.index = l.count ∧
        x.life = .pending ∧ x.ctx = st.ctx ∧ x.fragList.map (·.w) = mine ∧
        (∀ n q, x.fragList[n]? = some q → q.unit = n / 32 ∧ q.lane = n % 32) ∧ (t.launch? lid).map (·.count) = some (l.count + 1) ∧
        t.stream? k = some y ∧ (tget default y.owners die).frags = mine.foldl (fun l x => l.erase x) o.frags ∧ t.mem = s.mem) ∧
    (∀ f, itsTurn o f = true ↔ ∀ x ∈ o.live, x.2 = (f.view, f.px, f.py) → f.seq ≤ x.1) ∧
    (o.ready.find? (fun r => itsTurn o r.1.w) = none → exec (.renderOutputPerform k die) s = .next (settleStream s k)) ∧
    (∀ r a s1, o.ready.find? (fun r => itsTurn o r.1.w) = some r → performFragment s k die st r.1.w r.2 = (a, s1) →
      exec (.renderOutputPerform k die) s = .next (if a = .wait then s else settleStream (s1.modStream k fun st =>
        let o := tget default st.owners die
        let y : Owner := { o with ready := o.ready.erase r, live := o.live.erase (r.1.w.seq, r.1.w.view, r.1.w.px, r.1.w.py) }
        { st with owners := tput st.owners die y }) k)) ∧
    ∀ f outs bs s1,
      let w := targetWord st 0
      let fmt := bits w 0 4
      let slot := bits (tget 0 st.omap (f.view * (rsTh st * rsTw st) + f.tile)) 8 24
      fmt ≠ 0 → targetRead s st (pixelAddr st 0 die slot f.px f.py (pixelSize true fmt)) (pixelSize true fmt) = (.ok bs, s1) →
      depthTest fmt (bits w 4 4) (depthCode fmt f.depth) (natOf bs) = false → performFragment s k die st f outs = (.fail, s1)

/-- R239: of two triangles that share an edge, a sample strictly inside it is covered by exactly one. -/
def Obligations.SharedEdges : Prop :=
  ∀ a b c d p : Int × Int, 0 < edge a b c → edge a b d < 0 → edge a b p = 0 →
    let along := (p.1 - a.1) * (b.1 - a.1) + (p.2 - a.2) * (b.2 - a.2)
    0 < along → along < (b.1 - a.1) ^ 2 + (b.2 - a.2) ^ 2 → covered [a, b, c] p = !covered [b, a, d] p

/-! ## Collective operations (R259 to R269) -/

/-- R259 to R267: a message for an operation that has not begun is held and one for an operation that has ended has no effect;
otherwise it is taken: a join or a field that disagrees ends the operation with MISMATCH, exponents, planes and tiles are put in
and applied, rank 0 accepts the first cut request and freezes the contributors, the largest K that they reply goes to every
party, and each applies it. R261 to R269: a party sends its next step to a rank that has joined and has had the fewest; the planes of every
contributor bring a tile up to their count, with the OR of the top planes or the rounded sum of the top planes of the codes;
rank 0 sends the largest of the cut and the replies; an operation ends once every tile is final and everything has been sent.
The messages, one tile or plane at a time, and the paths of ROUTE are the model's (logs 36, 101). It says where each of collJoinWordArrival,
collExponentArrival, collPlaneBatchArrival, collStandardTransferArrival, cutRequestArrival, freezeArrival,
freezeRepliesCollected, cutKArrival, streamStopArrival, collDataSend and collOperationEnd completes. -/
def Obligations.Collectives : Prop :=
  (∀ (s : State) (n : Nat) (m : CollMsg), s.collMsgs[n]? = some m → behind s n m = false →
    let s1 := dropMsg s n
    let kinds : List (Instr × Bool) :=
      [(.collJoinWordArrival n, match m.body with | .join _ _ _ _ => true | _ => false),
       (.collExponentArrival n, match m.body with | .exponent _ _ _ _ _ _ => true | _ => false),
       (.collPlaneBatchArrival n, match m.body with | .planes _ _ _ _ _ _ _ _ => true | _ => false),
       (.collStandardTransferArrival n, match m.body with | .standard _ _ _ => true | _ => false),
       (.cutRequestArrival n, match m.body with | .cutRequest _ => true | _ => false),
       (.cutKArrival n, match m.body with | .cutK _ => true | _ => false),
       (.streamStopArrival n, match m.body with | .streamStop => true | _ => false)]
    (∀ i b, (i, b) ∈ kinds →
      (b = false → exec i s = .next s) ∧
      (b = true → opOf s m = none → (ended s m = none ∨ i = .collJoinWordArrival n) → exec i s = .next s) ∧
      (b = true → opOf s m = none → (ended s m).isSome → i ≠ .collJoinWordArrival n → exec i s = .next s1) ∧
      (b = true → ∀ op, opOf s m = some op → op.finish.isSome → exec i s = .next s1) ∧
      (b = true → ∀ op, opOf s m = some op → op.finish = none → op.begun = false → exec i s = .next s)) ∧
    (∀ op, opOf s m = some op → op.finish = none → op.begun = true →
      let applied : Instr → Option (CollOp × State) → Prop := fun i r =>
        (∀ y t, r = some (y, t) → exec i s = .next (t.putColl y)) ∧ (r = none → exec i s = .next s)
      (∀ p o enc len, m.body = .join p o enc len → exec (.collJoinWordArrival n) s = .next (s1.putColl (
        if agrees op p o enc len = true then { op with joined := op.joined ++ [m.sender] } else { op with finish := some 0x0B, failRank := m.sender }))) ∧
      (∀ t e np o enc len, m.body = .exponent t e np o enc len →
        (agrees op np o enc len = false →
          exec (.collExponentArrival n) s = .next (s1.putColl { op with finish := some 0x0B, failRank := m.sender })) ∧
        (agrees op np o enc len = true → applied (.collExponentArrival n)
          (applyTile s1 (op.setTile t { op.tile t with exps := tput (op.tile t).exps m.sender (1 + e.toNat) }) t))) ∧
      (∀ t p j data np o enc len, m.body = .planes t p j data np o enc len →
        (agrees op np o enc len = false →
          exec (.collPlaneBatchArrival n) s = .next (s1.putColl { op with finish := some 0x0B, failRank := m.sender })) ∧
        (agrees op np o enc len = true → p ∈ op.scut → exec (.collPlaneBatchArrival n) s = .next s1) ∧
        (agrees op np o enc len = true → p ∉ op.scut →
          let codes := (List.range (data.length / 32)).foldl (fun c i => withPlane c (j + i) ((data.drop (32 * i)).take 32)) (tget [] (op.tile t).parts p)
          applied (.collPlaneBatchArrival n) (applyTile s1 (op.setTile t { op.tile t with
            planes := tset 0 (op.tile t).planes p (max (tget 0 (op.tile t).planes p) (j + data.length / 32 - 1))
            parts := tput (op.tile t).parts p codes }) t))) ∧
      (∀ t p data, m.body = .standard t p data → p ∉ (op.tile t).order → applied (.collStandardTransferArrival n)
        (finishStd s1 (op.setTile t { op.tile t with
          parts := tput (op.tile t).parts p ((List.range 256).map fun e => BitVec.ofNat 32 (natOf ((data.drop (4 * e)).take 4)))
          order := (op.tile t).order ++ [p] }) t)) ∧
      (∀ k, m.body = .cutRequest k →
        (op.rank ≠ 0 ∨ op.cutAccepted.isSome → exec (.cutRequestArrival n) s = .next s1) ∧
        (op.rank = 0 → op.cutAccepted = none →
          applied (.cutRequestArrival n) (sendAll s1 { op with cutAccepted := some k } (.freeze k) (contributorsOf op)))) ∧
      (∀ k, m.body = .cutK k → applied (.cutKArrival n) (applyTiles s1 { op with cutK := some k } (List.range op.nt))) ∧
      (m.body = .streamStop → exec (.streamStopArrival n) s = .next (s1.putColl { op with stopped := op.stopped ++ [m.sender] }))) ∧
    (∀ k op s2, m.body = .freeze k → opOf s m = some op → op.begun = true → sendBody s1 op 0 (.freezeReply (planesBegun op)) = (.ok, s2) →
      exec (.freezeArrival n) s = .next (s2.putColl { op with freeze := some (max k (planesBegun op)) })) ∧
    (∀ k d s2, m.body = .freeze k → opOf s m = none → ended s m = some d → sendBody s1 d.op 0 (.freezeReply 32) = (.ok, s2) →
      exec (.freezeArrival n) s = .next s2)) ∧
  (∀ (s : State) (die n : Nat),
    ((dieOps s die)[n]? = none → exec (.collDataSend die n) s = .next s ∧ exec (.freezeRepliesCollected die n) s = .next s ∧
      exec (.collOperationEnd die n) s = .next s) ∧
    ∀ op, (dieOps s die)[n]? = some op →
      let parties := List.range (coP op.record)
      let step : Nat → SendStep := fun r => sendStep op r (tget 0 op.sent r)
      let ready : Nat → Prop := fun r => r ∈ parties ∧ r ∈ op.joined ∧ sendsDone op r = false ∧ stepReady op (step r) = true
      let runs := op.finish = none ∧ op.begun = true
      let idle := op.outbox = [] ∧ op.due = false
      let sent : Nat → State → State := fun r t => t.putColl { op with sent := tset 0 op.sent r (tget 0 op.sent r + 1) }
      (op.finish.isSome ∨ (runs ∧ idle ∧ ∀ r, ¬ready r) → exec (.collDataSend die n) s = .next s) ∧
      (op.finish = none → op.begun = false → exec (.collDataSend die n) s = .next (beginColl s op)) ∧
      (∀ r b rest s1, runs → op.outbox = (r, b) :: rest → sendBody s op r b = (.ok, s1) →
        exec (.collDataSend die n) s = .next (s1.putColl { op with outbox := rest })) ∧
      (∀ y s1, runs → op.outbox = [] → op.due = true → applyTiles s { op with due := false } (List.range op.nt) = some (y, s1) →
        exec (.collDataSend die n) s = .next (s1.putColl y)) ∧
      (∀ r, nextReceiver op = some r → ready r ∧ ∀ q, ready q → tget 0 op.sent r ≤ tget 0 op.sent q) ∧
      ((∃ r, ready r) → (nextReceiver op).isSome) ∧
      (∀ r, runs → idle → nextReceiver op = some r →
        (∀ t s1, step r = .exponent t →
          sendBody s op r (.exponent t (localExp (tget [] op.src t)) (coP op.record) (coOp op.record) (coEnc op.record) (coLen op.record)) = (.ok, s1) →
          exec (.collDataSend die n) s = .next (sent r s1)) ∧
        (∀ j t s1, step r = .plane j t → ¬(coEnc op.record = 2 ∧ agreed op t = some 0x7FFF) →
          let d := planeOf (ownCodes op t) j
          sendData s op r t op.rank (32 * (j - 1)) d d
            (.planes t op.rank j d (coP op.record) (coOp op.record) (coEnc op.record) (coLen op.record)) = (.ok, s1) →
          exec (.collDataSend die n) s = .next (sent r s1)) ∧
        (∀ p t s2, step r = .tile p t →
          let d := (if p = op.rank then ownCodes op t else tget [] (op.tile t).parts p).flatMap fun v => bytesOf 4 v.toNat
          let free := s.draw 8192
          sendData free.2 op r t p 0 d (bytesOf 1024 free.1.toNat) (.standard t p d) = (.ok, s2) →
          exec (.collDataSend die n) s = .next (sent r s2))) ∧
      (∀ t, failing op.finish = false → (op.tile t).status.getLsbD 7 = false → (op.tile t).status.getLsbD 8 = false →
        ¬(coEnc op.record = 2 ∧ agreed op t = some 0x7FFF) → ∀ s1, (writeSums s op t (planesReady op t)).bind (fun r =>
            writeTile r.2 r.1 t (coEnc op.record = 2) (tileValues op t (planesReady op t))) = some (op, s1) → (putStatus s1 op t).isSome →
        (stCount (op.tile t).status < planesReady op t → planesReady op t < 64 → ∃ x s2, applyTile s op t = some (x, s2) ∧
          stCount (x.tile t).status = planesReady op t ∧ ∀ i, i ≠ t → x.tile i = op.tile i)) ∧
      (∀ t k, coEnc op.record ≠ 2 → ∀ e, e < 256 → (tileValues op t k).getD e 0 = topPlanes k ((coContributors op.record t).foldl (fun (v : W32) p =>
        v ||| ((if p = op.rank then ownCodes op t else tget [] (op.tile t).parts p).getD e 0)) 0)) ∧
      (∀ t k x, coEnc op.record = 2 → 1 ≤ k → k ≤ 32 → agreed op t = some x → ∀ e, e < 256 →
        let sum : Int := (coContributors op.record t).foldl (fun n p =>
          n + ((if p = op.rank then ownCodes op t else tget [] (op.tile t).parts p).getD e 0).toInt / 2 ^ (32 - k) * 2 ^ (32 - k)) 0
        (tileValues op t k).getD e 0 = f32Round (Num.ofRat (mkRat sum 1 * pow2 (x.toInt - 30 + clog2 (coP op.record))))) ∧
      (op.cutAccepted = none ∨ op.cutK.isSome ∨ op.rank ≠ 0 → exec (.freezeRepliesCollected die n) s = .next s) ∧
      (∀ k, op.cutAccepted = some k → op.cutK = none → op.rank = 0 → failing op.finish = false → lostStream s op = none →
        let rs := freezeReplies s op
        ((∃ p ∈ contributorsOf op, ∀ r ∈ rs, r.1 ≠ p) → exec (.freezeRepliesCollected die n) s = .next s) ∧
        ((∀ p ∈ contributorsOf op, ∃ r ∈ rs, r.1 = p) → ∃ (K : Nat) (s1 : State), k ≤ K ∧ (∀ r ∈ rs, r.2 ≤ K) ∧ (K = k ∨ ∃ r ∈ rs, r.2 = K) ∧
          s1.teams = s.teams ∧ s1.mem = s.mem ∧ (∀ m ∈ s1.collMsgs, m ∈ s.collMsgs) ∧
          (∀ y t, sendAll s1 { op with replies := rs } (.cutK K) parties = some (y, t) →
            exec (.freezeRepliesCollected die n) s = .next (t.putColl y)) ∧
          (sendAll s1 { op with replies := rs } (.cutK K) parties = none → exec (.freezeRepliesCollected die n) s = .next s))) ∧
      (op.finish = none → lostStream s op = none →
        (op.begun = false ∨ op.allFinal = false ∨ ¬idle ∨ ∃ r ∈ parties, sendsDone op r = false ∨ (r ≠ op.rank ∧ r ∉ op.joined)) →
        exec (.collOperationEnd die n) s = .next s) ∧
      (runs → idle → lostStream s op = none → op.allFinal = true → (∀ r ∈ parties, sendsDone op r = true ∧ (r = op.rank ∨ r ∈ op.joined)) →
        (op.cutAccepted = none ∧ op.freeze = none ∨ op.cutK.isSome) → collFinish s op = some (op, if op.cutK.isSome then 0x0C else 0)) ∧
      (∀ r st, op.finish = none → lostStream s op = some (r, st) → collFinish s op = some ({ op with failRank := r }, st)) ∧
      (∀ x st, collFinish s op = some (x, st) → (op.cutAccepted.isSome ∧ op.cutK = none → exec (.collOperationEnd die n) s = .next s) ∧
        (¬(op.cutAccepted.isSome ∧ op.cutK = none) → putStatuses s (x.closed st) = none →
          exec (.collOperationEnd die n) s = .next s) ∧
        (¬(op.cutAccepted.isSome ∧ op.cutK = none) → engineCheck s op.wins (engineSecure s op) true (coStaddr op.record) 16 = .wait →
          exec (.collOperationEnd die n) s = .next s) ∧
        (¬(op.cutAccepted.isSome ∧ op.cutK = none) → coRingen op.record = false → engineCheck s op.wins (engineSecure s op) true (coStaddr op.record) 16 ≠ .wait →
          ∀ s1, putStatuses s (x.closed st) = some s1 →
          ∃ t d, exec (.collOperationEnd die n) s = .next t ∧ t.collOps = s.collOps.filter (fun z => !sameOp z op) ∧ d ∈ t.collDone ∧
            sameOp d.op op = true ∧ d.status = st ∧ t.teams = s.teams)))


end
end

