-- ==== Sys2Proof/Laws/State.lean ====
section
/-! SUPPORT. What each update of State leaves as it was: one law for each update, its parts true by `rfl`. -/

namespace Sys2Proof.Machine

@[simp] theorem setCore_fields (s : State) (c : Nat) (x : Core) :
    (s.setCore c x).pkg = s.pkg ∧ (s.setCore c x).ports = s.ports ∧ (s.setCore c x).conns = s.conns ∧
    (s.setCore c x).regions = s.regions ∧ (s.setCore c x).wire = s.wire ∧ (s.setCore c x).wireMarks = s.wireMarks ∧
    (s.setCore c x).mgmt = s.mgmt ∧
    (s.setCore c x).devRegs = s.devRegs ∧ (s.setCore c x).queues = s.queues ∧ (s.setCore c x).mapPass = s.mapPass ∧
    (s.setCore c x).arrivals = s.arrivals ∧ (s.setCore c x).launches = s.launches ∧ (s.setCore c x).growReqs = s.growReqs ∧
    (s.setCore c x).contexts = s.contexts ∧ (s.setCore c x).partPmc = s.partPmc ∧ (s.setCore c x).teams = s.teams ∧
    (s.setCore c x).inflight = s.inflight ∧ (s.setCore c x).mem = s.mem ∧ (s.setCore c x).channels = s.channels ∧
    (s.setCore c x).copyWait = s.copyWait ∧ (s.setCore c x).collOps = s.collOps ∧ (s.setCore c x).collDone = s.collDone ∧
    (s.setCore c x).collMsgs = s.collMsgs ∧ (s.setCore c x).streams = s.streams ∧ (s.setCore c x).agenda = s.agenda ∧
    (s.setCore c x).turn = s.turn ∧ (s.setCore c x).focus = s.focus ∧ (s.setCore c x).freeCtr = s.freeCtr ∧
    (s.setCore c x).nextId = s.nextId ∧ (s.setCore c x).order = s.order :=
  ⟨rfl, rfl, rfl, rfl, rfl, rfl, rfl, rfl, rfl, rfl, rfl, rfl, rfl, rfl, rfl, rfl, rfl, rfl, rfl, rfl, rfl, rfl, rfl, rfl, rfl, rfl, rfl, rfl, rfl, rfl⟩

@[simp] theorem setTeam_fields (s : State) (t : Nat) (x : Team) :
    (s.setTeam t x).pkg = s.pkg ∧ (s.setTeam t x).ports = s.ports ∧ (s.setTeam t x).conns = s.conns ∧
    (s.setTeam t x).regions = s.regions ∧ (s.setTeam t x).wire = s.wire ∧ (s.setTeam t x).wireMarks = s.wireMarks ∧
    (s.setTeam t x).mgmt = s.mgmt ∧
    (s.setTeam t x).devRegs = s.devRegs ∧ (s.setTeam t x).queues = s.queues ∧ (s.setTeam t x).mapPass = s.mapPass ∧
    (s.setTeam t x).arrivals = s.arrivals ∧ (s.setTeam t x).launches = s.launches ∧ (s.setTeam t x).growReqs = s.growReqs ∧
    (s.setTeam t x).contexts = s.contexts ∧ (s.setTeam t x).partPmc = s.partPmc ∧ (s.setTeam t x).inflight = s.inflight ∧
    (s.setTeam t x).cores = s.cores ∧ (s.setTeam t x).mem = s.mem ∧ (s.setTeam t x).channels = s.channels ∧
    (s.setTeam t x).copyWait = s.copyWait ∧ (s.setTeam t x).collOps = s.collOps ∧ (s.setTeam t x).collDone = s.collDone ∧
    (s.setTeam t x).collMsgs = s.collMsgs ∧ (s.setTeam t x).streams = s.streams ∧ (s.setTeam t x).agenda = s.agenda ∧
    (s.setTeam t x).turn = s.turn ∧ (s.setTeam t x).focus = s.focus ∧ (s.setTeam t x).freeCtr = s.freeCtr ∧
    (s.setTeam t x).nextId = s.nextId ∧ (s.setTeam t x).order = s.order :=
  ⟨rfl, rfl, rfl, rfl, rfl, rfl, rfl, rfl, rfl, rfl, rfl, rfl, rfl, rfl, rfl, rfl, rfl, rfl, rfl, rfl, rfl, rfl, rfl, rfl, rfl, rfl, rfl, rfl, rfl, rfl⟩

@[simp] theorem delTeam_fields (s : State) (t : Nat) :
    (s.delTeam t).pkg = s.pkg ∧ (s.delTeam t).ports = s.ports ∧ (s.delTeam t).conns = s.conns ∧
    (s.delTeam t).regions = s.regions ∧ (s.delTeam t).wire = s.wire ∧ (s.delTeam t).wireMarks = s.wireMarks ∧
    (s.delTeam t).mgmt = s.mgmt ∧
    (s.delTeam t).devRegs = s.devRegs ∧ (s.delTeam t).queues = s.queues ∧ (s.delTeam t).mapPass = s.mapPass ∧
    (s.delTeam t).arrivals = s.arrivals ∧ (s.delTeam t).launches = s.launches ∧ (s.delTeam t).growReqs = s.growReqs ∧
    (s.delTeam t).contexts = s.contexts ∧ (s.delTeam t).partPmc = s.partPmc ∧ (s.delTeam t).inflight = s.inflight ∧
    (s.delTeam t).cores = s.cores ∧ (s.delTeam t).mem = s.mem ∧ (s.delTeam t).channels = s.channels ∧
    (s.delTeam t).copyWait = s.copyWait ∧ (s.delTeam t).collOps = s.collOps ∧ (s.delTeam t).collDone = s.collDone ∧
    (s.delTeam t).collMsgs = s.collMsgs ∧ (s.delTeam t).streams = s.streams ∧ (s.delTeam t).agenda = s.agenda ∧
    (s.delTeam t).turn = s.turn ∧ (s.delTeam t).focus = s.focus ∧ (s.delTeam t).freeCtr = s.freeCtr ∧
    (s.delTeam t).nextId = s.nextId ∧ (s.delTeam t).order = s.order :=
  ⟨rfl, rfl, rfl, rfl, rfl, rfl, rfl, rfl, rfl, rfl, rfl, rfl, rfl, rfl, rfl, rfl, rfl, rfl, rfl, rfl, rfl, rfl, rfl, rfl, rfl, rfl, rfl, rfl, rfl, rfl⟩

@[simp] theorem setContext_fields (s : State) (c : Nat) (x : Context) :
    (s.setContext c x).pkg = s.pkg ∧ (s.setContext c x).ports = s.ports ∧ (s.setContext c x).conns = s.conns ∧
    (s.setContext c x).regions = s.regions ∧ (s.setContext c x).wire = s.wire ∧
    (s.setContext c x).wireMarks = s.wireMarks ∧ (s.setContext c x).mgmt = s.mgmt ∧
    (s.setContext c x).devRegs = s.devRegs ∧ (s.setContext c x).queues = s.queues ∧
    (s.setContext c x).mapPass = s.mapPass ∧ (s.setContext c x).arrivals = s.arrivals ∧
    (s.setContext c x).launches = s.launches ∧ (s.setContext c x).growReqs = s.growReqs ∧
    (s.setContext c x).partPmc = s.partPmc ∧ (s.setContext c x).teams = s.teams ∧
    (s.setContext c x).inflight = s.inflight ∧ (s.setContext c x).cores = s.cores ∧ (s.setContext c x).mem = s.mem ∧
    (s.setContext c x).channels = s.channels ∧ (s.setContext c x).copyWait = s.copyWait ∧
    (s.setContext c x).collOps = s.collOps ∧ (s.setContext c x).collDone = s.collDone ∧
    (s.setContext c x).collMsgs = s.collMsgs ∧ (s.setContext c x).streams = s.streams ∧
    (s.setContext c x).agenda = s.agenda ∧ (s.setContext c x).turn = s.turn ∧ (s.setContext c x).focus = s.focus ∧
    (s.setContext c x).freeCtr = s.freeCtr ∧ (s.setContext c x).nextId = s.nextId ∧ (s.setContext c x).order = s.order :=
  ⟨rfl, rfl, rfl, rfl, rfl, rfl, rfl, rfl, rfl, rfl, rfl, rfl, rfl, rfl, rfl, rfl, rfl, rfl, rfl, rfl, rfl, rfl, rfl, rfl, rfl, rfl, rfl, rfl, rfl, rfl⟩

@[simp] theorem modContext_fields (s : State) (c : Nat) (f : Context → Context) :
    (s.modContext c f).pkg = s.pkg ∧ (s.modContext c f).ports = s.ports ∧ (s.modContext c f).conns = s.conns ∧
    (s.modContext c f).regions = s.regions ∧ (s.modContext c f).wire = s.wire ∧
    (s.modContext c f).wireMarks = s.wireMarks ∧ (s.modContext c f).mgmt = s.mgmt ∧
    (s.modContext c f).devRegs = s.devRegs ∧ (s.modContext c f).queues = s.queues ∧
    (s.modContext c f).mapPass = s.mapPass ∧ (s.modContext c f).arrivals = s.arrivals ∧
    (s.modContext c f).launches = s.launches ∧ (s.modContext c f).growReqs = s.growReqs ∧
    (s.modContext c f).partPmc = s.partPmc ∧ (s.modContext c f).teams = s.teams ∧
    (s.modContext c f).inflight = s.inflight ∧ (s.modContext c f).cores = s.cores ∧ (s.modContext c f).mem = s.mem ∧
    (s.modContext c f).channels = s.channels ∧ (s.modContext c f).copyWait = s.copyWait ∧
    (s.modContext c f).collOps = s.collOps ∧ (s.modContext c f).collDone = s.collDone ∧
    (s.modContext c f).collMsgs = s.collMsgs ∧ (s.modContext c f).streams = s.streams ∧
    (s.modContext c f).agenda = s.agenda ∧ (s.modContext c f).turn = s.turn ∧ (s.modContext c f).focus = s.focus ∧
    (s.modContext c f).freeCtr = s.freeCtr ∧ (s.modContext c f).nextId = s.nextId ∧ (s.modContext c f).order = s.order :=
  ⟨rfl, rfl, rfl, rfl, rfl, rfl, rfl, rfl, rfl, rfl, rfl, rfl, rfl, rfl, rfl, rfl, rfl, rfl, rfl, rfl, rfl, rfl, rfl, rfl, rfl, rfl, rfl, rfl, rfl, rfl⟩

@[simp] theorem noteBit_fields (s : State) (c b : Nat) :
    (s.noteBit c b).pkg = s.pkg ∧ (s.noteBit c b).ports = s.ports ∧ (s.noteBit c b).conns = s.conns ∧
    (s.noteBit c b).regions = s.regions ∧ (s.noteBit c b).wire = s.wire ∧ (s.noteBit c b).wireMarks = s.wireMarks ∧
    (s.noteBit c b).mgmt = s.mgmt ∧
    (s.noteBit c b).devRegs = s.devRegs ∧ (s.noteBit c b).queues = s.queues ∧ (s.noteBit c b).mapPass = s.mapPass ∧
    (s.noteBit c b).arrivals = s.arrivals ∧ (s.noteBit c b).launches = s.launches ∧ (s.noteBit c b).growReqs = s.growReqs ∧
    (s.noteBit c b).partPmc = s.partPmc ∧ (s.noteBit c b).teams = s.teams ∧ (s.noteBit c b).inflight = s.inflight ∧
    (s.noteBit c b).cores = s.cores ∧ (s.noteBit c b).mem = s.mem ∧ (s.noteBit c b).channels = s.channels ∧
    (s.noteBit c b).copyWait = s.copyWait ∧ (s.noteBit c b).collOps = s.collOps ∧ (s.noteBit c b).collDone = s.collDone ∧
    (s.noteBit c b).collMsgs = s.collMsgs ∧ (s.noteBit c b).streams = s.streams ∧ (s.noteBit c b).agenda = s.agenda ∧
    (s.noteBit c b).turn = s.turn ∧ (s.noteBit c b).focus = s.focus ∧ (s.noteBit c b).freeCtr = s.freeCtr ∧
    (s.noteBit c b).nextId = s.nextId ∧ (s.noteBit c b).order = s.order :=
  ⟨rfl, rfl, rfl, rfl, rfl, rfl, rfl, rfl, rfl, rfl, rfl, rfl, rfl, rfl, rfl, rfl, rfl, rfl, rfl, rfl, rfl, rfl, rfl, rfl, rfl, rfl, rfl, rfl, rfl, rfl⟩

@[simp] theorem noteAddr_fields (s : State) (c a : Nat) :
    (s.noteAddr c a).pkg = s.pkg ∧ (s.noteAddr c a).ports = s.ports ∧ (s.noteAddr c a).conns = s.conns ∧
    (s.noteAddr c a).regions = s.regions ∧ (s.noteAddr c a).wire = s.wire ∧ (s.noteAddr c a).wireMarks = s.wireMarks ∧
    (s.noteAddr c a).mgmt = s.mgmt ∧
    (s.noteAddr c a).devRegs = s.devRegs ∧ (s.noteAddr c a).queues = s.queues ∧ (s.noteAddr c a).mapPass = s.mapPass ∧
    (s.noteAddr c a).arrivals = s.arrivals ∧ (s.noteAddr c a).launches = s.launches ∧
    (s.noteAddr c a).growReqs = s.growReqs ∧ (s.noteAddr c a).partPmc = s.partPmc ∧ (s.noteAddr c a).teams = s.teams ∧
    (s.noteAddr c a).inflight = s.inflight ∧ (s.noteAddr c a).cores = s.cores ∧ (s.noteAddr c a).mem = s.mem ∧
    (s.noteAddr c a).channels = s.channels ∧ (s.noteAddr c a).copyWait = s.copyWait ∧
    (s.noteAddr c a).collOps = s.collOps ∧ (s.noteAddr c a).collDone = s.collDone ∧
    (s.noteAddr c a).collMsgs = s.collMsgs ∧ (s.noteAddr c a).streams = s.streams ∧ (s.noteAddr c a).agenda = s.agenda ∧
    (s.noteAddr c a).turn = s.turn ∧ (s.noteAddr c a).focus = s.focus ∧ (s.noteAddr c a).freeCtr = s.freeCtr ∧
    (s.noteAddr c a).nextId = s.nextId ∧ (s.noteAddr c a).order = s.order :=
  ⟨rfl, rfl, rfl, rfl, rfl, rfl, rfl, rfl, rfl, rfl, rfl, rfl, rfl, rfl, rfl, rfl, rfl, rfl, rfl, rfl, rfl, rfl, rfl, rfl, rfl, rfl, rfl, rfl, rfl, rfl⟩

@[simp] theorem setDevReg_fields (s : State) (n : Nat) (v : W64) :
    (s.setDevReg n v).pkg = s.pkg ∧ (s.setDevReg n v).ports = s.ports ∧ (s.setDevReg n v).conns = s.conns ∧
    (s.setDevReg n v).regions = s.regions ∧ (s.setDevReg n v).wire = s.wire ∧ (s.setDevReg n v).wireMarks = s.wireMarks ∧
    (s.setDevReg n v).mgmt = s.mgmt ∧
    (s.setDevReg n v).queues = s.queues ∧ (s.setDevReg n v).mapPass = s.mapPass ∧ (s.setDevReg n v).arrivals = s.arrivals ∧
    (s.setDevReg n v).launches = s.launches ∧ (s.setDevReg n v).growReqs = s.growReqs ∧
    (s.setDevReg n v).contexts = s.contexts ∧ (s.setDevReg n v).partPmc = s.partPmc ∧ (s.setDevReg n v).teams = s.teams ∧
    (s.setDevReg n v).inflight = s.inflight ∧ (s.setDevReg n v).cores = s.cores ∧ (s.setDevReg n v).mem = s.mem ∧
    (s.setDevReg n v).channels = s.channels ∧ (s.setDevReg n v).copyWait = s.copyWait ∧
    (s.setDevReg n v).collOps = s.collOps ∧ (s.setDevReg n v).collDone = s.collDone ∧
    (s.setDevReg n v).collMsgs = s.collMsgs ∧ (s.setDevReg n v).streams = s.streams ∧ (s.setDevReg n v).agenda = s.agenda ∧
    (s.setDevReg n v).turn = s.turn ∧ (s.setDevReg n v).focus = s.focus ∧ (s.setDevReg n v).freeCtr = s.freeCtr ∧
    (s.setDevReg n v).nextId = s.nextId ∧ (s.setDevReg n v).order = s.order :=
  ⟨rfl, rfl, rfl, rfl, rfl, rfl, rfl, rfl, rfl, rfl, rfl, rfl, rfl, rfl, rfl, rfl, rfl, rfl, rfl, rfl, rfl, rfl, rfl, rfl, rfl, rfl, rfl, rfl, rfl, rfl⟩

@[simp] theorem setPort_fields (s : State) (n : Nat) (p : Port) :
    (s.setPort n p).pkg = s.pkg ∧ (s.setPort n p).conns = s.conns ∧ (s.setPort n p).regions = s.regions ∧
    (s.setPort n p).wire = s.wire ∧ (s.setPort n p).wireMarks = s.wireMarks ∧ (s.setPort n p).mgmt = s.mgmt ∧
    (s.setPort n p).devRegs = s.devRegs ∧
    (s.setPort n p).queues = s.queues ∧ (s.setPort n p).mapPass = s.mapPass ∧ (s.setPort n p).arrivals = s.arrivals ∧
    (s.setPort n p).launches = s.launches ∧ (s.setPort n p).growReqs = s.growReqs ∧ (s.setPort n p).contexts = s.contexts ∧
    (s.setPort n p).partPmc = s.partPmc ∧ (s.setPort n p).teams = s.teams ∧ (s.setPort n p).inflight = s.inflight ∧
    (s.setPort n p).cores = s.cores ∧ (s.setPort n p).mem = s.mem ∧ (s.setPort n p).channels = s.channels ∧
    (s.setPort n p).copyWait = s.copyWait ∧ (s.setPort n p).collOps = s.collOps ∧ (s.setPort n p).collDone = s.collDone ∧
    (s.setPort n p).collMsgs = s.collMsgs ∧ (s.setPort n p).streams = s.streams ∧ (s.setPort n p).agenda = s.agenda ∧
    (s.setPort n p).turn = s.turn ∧ (s.setPort n p).focus = s.focus ∧ (s.setPort n p).freeCtr = s.freeCtr ∧
    (s.setPort n p).nextId = s.nextId ∧ (s.setPort n p).order = s.order :=
  ⟨rfl, rfl, rfl, rfl, rfl, rfl, rfl, rfl, rfl, rfl, rfl, rfl, rfl, rfl, rfl, rfl, rfl, rfl, rfl, rfl, rfl, rfl, rfl, rfl, rfl, rfl, rfl, rfl, rfl, rfl⟩

@[simp] theorem setConn_fields (s : State) (n : Nat) (c : Conn) :
    (s.setConn n c).pkg = s.pkg ∧ (s.setConn n c).ports = s.ports ∧ (s.setConn n c).regions = s.regions ∧
    (s.setConn n c).wire = s.wire ∧ (s.setConn n c).wireMarks = s.wireMarks ∧ (s.setConn n c).mgmt = s.mgmt ∧
    (s.setConn n c).devRegs = s.devRegs ∧
    (s.setConn n c).queues = s.queues ∧ (s.setConn n c).mapPass = s.mapPass ∧ (s.setConn n c).arrivals = s.arrivals ∧
    (s.setConn n c).launches = s.launches ∧ (s.setConn n c).growReqs = s.growReqs ∧ (s.setConn n c).contexts = s.contexts ∧
    (s.setConn n c).partPmc = s.partPmc ∧ (s.setConn n c).teams = s.teams ∧ (s.setConn n c).inflight = s.inflight ∧
    (s.setConn n c).cores = s.cores ∧ (s.setConn n c).mem = s.mem ∧ (s.setConn n c).channels = s.channels ∧
    (s.setConn n c).copyWait = s.copyWait ∧ (s.setConn n c).collOps = s.collOps ∧ (s.setConn n c).collDone = s.collDone ∧
    (s.setConn n c).collMsgs = s.collMsgs ∧ (s.setConn n c).streams = s.streams ∧ (s.setConn n c).agenda = s.agenda ∧
    (s.setConn n c).turn = s.turn ∧ (s.setConn n c).focus = s.focus ∧ (s.setConn n c).freeCtr = s.freeCtr ∧
    (s.setConn n c).nextId = s.nextId ∧ (s.setConn n c).order = s.order :=
  ⟨rfl, rfl, rfl, rfl, rfl, rfl, rfl, rfl, rfl, rfl, rfl, rfl, rfl, rfl, rfl, rfl, rfl, rfl, rfl, rfl, rfl, rfl, rfl, rfl, rfl, rfl, rfl, rfl, rfl, rfl⟩

@[simp] theorem setQueue_fields (s : State) (n : Nat) (q : Queue) :
    (s.setQueue n q).pkg = s.pkg ∧ (s.setQueue n q).ports = s.ports ∧ (s.setQueue n q).conns = s.conns ∧
    (s.setQueue n q).regions = s.regions ∧ (s.setQueue n q).wire = s.wire ∧ (s.setQueue n q).wireMarks = s.wireMarks ∧
    (s.setQueue n q).mgmt = s.mgmt ∧
    (s.setQueue n q).devRegs = s.devRegs ∧ (s.setQueue n q).mapPass = s.mapPass ∧ (s.setQueue n q).arrivals = s.arrivals ∧
    (s.setQueue n q).launches = s.launches ∧ (s.setQueue n q).growReqs = s.growReqs ∧
    (s.setQueue n q).contexts = s.contexts ∧ (s.setQueue n q).partPmc = s.partPmc ∧ (s.setQueue n q).teams = s.teams ∧
    (s.setQueue n q).inflight = s.inflight ∧ (s.setQueue n q).cores = s.cores ∧ (s.setQueue n q).mem = s.mem ∧
    (s.setQueue n q).channels = s.channels ∧ (s.setQueue n q).copyWait = s.copyWait ∧
    (s.setQueue n q).collOps = s.collOps ∧ (s.setQueue n q).collDone = s.collDone ∧
    (s.setQueue n q).collMsgs = s.collMsgs ∧ (s.setQueue n q).streams = s.streams ∧ (s.setQueue n q).agenda = s.agenda ∧
    (s.setQueue n q).turn = s.turn ∧ (s.setQueue n q).focus = s.focus ∧ (s.setQueue n q).freeCtr = s.freeCtr ∧
    (s.setQueue n q).nextId = s.nextId ∧ (s.setQueue n q).order = s.order :=
  ⟨rfl, rfl, rfl, rfl, rfl, rfl, rfl, rfl, rfl, rfl, rfl, rfl, rfl, rfl, rfl, rfl, rfl, rfl, rfl, rfl, rfl, rfl, rfl, rfl, rfl, rfl, rfl, rfl, rfl, rfl⟩

@[simp] theorem alert_fields (s : State) (f : Alerts → Alerts) :
    (s.alert f).ports = s.ports ∧ (s.alert f).conns = s.conns ∧ (s.alert f).regions = s.regions ∧
    (s.alert f).wire = s.wire ∧ (s.alert f).wireMarks = s.wireMarks ∧ (s.alert f).mgmt = s.mgmt ∧
    (s.alert f).devRegs = s.devRegs ∧
    (s.alert f).queues = s.queues ∧ (s.alert f).mapPass = s.mapPass ∧ (s.alert f).arrivals = s.arrivals ∧
    (s.alert f).launches = s.launches ∧ (s.alert f).growReqs = s.growReqs ∧ (s.alert f).contexts = s.contexts ∧
    (s.alert f).partPmc = s.partPmc ∧ (s.alert f).teams = s.teams ∧ (s.alert f).inflight = s.inflight ∧
    (s.alert f).cores = s.cores ∧ (s.alert f).mem = s.mem ∧ (s.alert f).channels = s.channels ∧
    (s.alert f).copyWait = s.copyWait ∧ (s.alert f).collOps = s.collOps ∧ (s.alert f).collDone = s.collDone ∧
    (s.alert f).collMsgs = s.collMsgs ∧ (s.alert f).streams = s.streams ∧ (s.alert f).agenda = s.agenda ∧
    (s.alert f).turn = s.turn ∧ (s.alert f).focus = s.focus ∧ (s.alert f).freeCtr = s.freeCtr ∧
    (s.alert f).nextId = s.nextId ∧ (s.alert f).order = s.order :=
  ⟨rfl, rfl, rfl, rfl, rfl, rfl, rfl, rfl, rfl, rfl, rfl, rfl, rfl, rfl, rfl, rfl, rfl, rfl, rfl, rfl, rfl, rfl, rfl, rfl, rfl, rfl, rfl, rfl, rfl, rfl⟩

@[simp] theorem setDie_fields (s : State) (d : Nat) (x : Die) :
    (s.setDie d x).ports = s.ports ∧ (s.setDie d x).conns = s.conns ∧ (s.setDie d x).regions = s.regions ∧
    (s.setDie d x).wire = s.wire ∧ (s.setDie d x).wireMarks = s.wireMarks ∧ (s.setDie d x).mgmt = s.mgmt ∧
    (s.setDie d x).devRegs = s.devRegs ∧
    (s.setDie d x).queues = s.queues ∧ (s.setDie d x).mapPass = s.mapPass ∧ (s.setDie d x).arrivals = s.arrivals ∧
    (s.setDie d x).launches = s.launches ∧ (s.setDie d x).growReqs = s.growReqs ∧ (s.setDie d x).contexts = s.contexts ∧
    (s.setDie d x).partPmc = s.partPmc ∧ (s.setDie d x).teams = s.teams ∧ (s.setDie d x).inflight = s.inflight ∧
    (s.setDie d x).cores = s.cores ∧ (s.setDie d x).mem = s.mem ∧ (s.setDie d x).channels = s.channels ∧
    (s.setDie d x).copyWait = s.copyWait ∧ (s.setDie d x).collOps = s.collOps ∧ (s.setDie d x).collDone = s.collDone ∧
    (s.setDie d x).collMsgs = s.collMsgs ∧ (s.setDie d x).streams = s.streams ∧ (s.setDie d x).agenda = s.agenda ∧
    (s.setDie d x).turn = s.turn ∧ (s.setDie d x).focus = s.focus ∧ (s.setDie d x).freeCtr = s.freeCtr ∧
    (s.setDie d x).nextId = s.nextId ∧ (s.setDie d x).order = s.order :=
  ⟨rfl, rfl, rfl, rfl, rfl, rfl, rfl, rfl, rfl, rfl, rfl, rfl, rfl, rfl, rfl, rfl, rfl, rfl, rfl, rfl, rfl, rfl, rfl, rfl, rfl, rfl, rfl, rfl, rfl, rfl⟩

@[simp] theorem setStep_fields (s : State) (d n : Nat) :
    (s.setStep d n).ports = s.ports ∧ (s.setStep d n).conns = s.conns ∧ (s.setStep d n).regions = s.regions ∧
    (s.setStep d n).wire = s.wire ∧ (s.setStep d n).wireMarks = s.wireMarks ∧ (s.setStep d n).mgmt = s.mgmt ∧
    (s.setStep d n).devRegs = s.devRegs ∧
    (s.setStep d n).queues = s.queues ∧ (s.setStep d n).mapPass = s.mapPass ∧ (s.setStep d n).arrivals = s.arrivals ∧
    (s.setStep d n).launches = s.launches ∧ (s.setStep d n).growReqs = s.growReqs ∧ (s.setStep d n).contexts = s.contexts ∧
    (s.setStep d n).partPmc = s.partPmc ∧ (s.setStep d n).teams = s.teams ∧ (s.setStep d n).inflight = s.inflight ∧
    (s.setStep d n).cores = s.cores ∧ (s.setStep d n).mem = s.mem ∧ (s.setStep d n).channels = s.channels ∧
    (s.setStep d n).copyWait = s.copyWait ∧ (s.setStep d n).collOps = s.collOps ∧ (s.setStep d n).collDone = s.collDone ∧
    (s.setStep d n).collMsgs = s.collMsgs ∧ (s.setStep d n).streams = s.streams ∧ (s.setStep d n).agenda = s.agenda ∧
    (s.setStep d n).turn = s.turn ∧ (s.setStep d n).focus = s.focus ∧ (s.setStep d n).freeCtr = s.freeCtr ∧
    (s.setStep d n).nextId = s.nextId ∧ (s.setStep d n).order = s.order :=
  ⟨rfl, rfl, rfl, rfl, rfl, rfl, rfl, rfl, rfl, rfl, rfl, rfl, rfl, rfl, rfl, rfl, rfl, rfl, rfl, rfl, rfl, rfl, rfl, rfl, rfl, rfl, rfl, rfl, rfl, rfl⟩

@[simp] theorem setMsc_fields (s : State) (l : Nat) (x : MscLine) :
    (s.setMsc l x).pkg = s.pkg ∧ (s.setMsc l x).ports = s.ports ∧ (s.setMsc l x).conns = s.conns ∧
    (s.setMsc l x).regions = s.regions ∧ (s.setMsc l x).wire = s.wire ∧ (s.setMsc l x).wireMarks = s.wireMarks ∧
    (s.setMsc l x).mgmt = s.mgmt ∧
    (s.setMsc l x).devRegs = s.devRegs ∧ (s.setMsc l x).queues = s.queues ∧ (s.setMsc l x).mapPass = s.mapPass ∧
    (s.setMsc l x).arrivals = s.arrivals ∧ (s.setMsc l x).launches = s.launches ∧ (s.setMsc l x).growReqs = s.growReqs ∧
    (s.setMsc l x).contexts = s.contexts ∧ (s.setMsc l x).partPmc = s.partPmc ∧ (s.setMsc l x).teams = s.teams ∧
    (s.setMsc l x).inflight = s.inflight ∧ (s.setMsc l x).cores = s.cores ∧ (s.setMsc l x).mem.hbm = s.mem.hbm ∧
    (s.setMsc l x).mem.waysOff = s.mem.waysOff ∧ (s.setMsc l x).mem.dir = s.mem.dir ∧
    (s.setMsc l x).mem.root = s.mem.root ∧
    (s.setMsc l x).mem.level1 = s.mem.level1 ∧ (s.setMsc l x).mem.ptes = s.mem.ptes ∧
    (s.setMsc l x).mem.l2Reserve = s.mem.l2Reserve ∧ (s.setMsc l x).mem.faults = s.mem.faults ∧
    (s.setMsc l x).mem.faultWait = s.mem.faultWait ∧ (s.setMsc l x).mem.movePark = s.mem.movePark ∧
    (s.setMsc l x).mem.replayQ = s.mem.replayQ ∧ (s.setMsc l x).mem.changes = s.mem.changes ∧
    (s.setMsc l x).mem.migrations = s.mem.migrations ∧ (s.setMsc l x).mem.pinWait = s.mem.pinWait ∧
    (s.setMsc l x).mem.msccCtl = s.mem.msccCtl ∧ (s.setMsc l x).mem.mscc = s.mem.mscc ∧
    (s.setMsc l x).mem.notify = s.mem.notify ∧ (s.setMsc l x).channels = s.channels ∧
    (s.setMsc l x).copyWait = s.copyWait ∧ (s.setMsc l x).collOps = s.collOps ∧ (s.setMsc l x).collDone = s.collDone ∧
    (s.setMsc l x).collMsgs = s.collMsgs ∧ (s.setMsc l x).streams = s.streams ∧ (s.setMsc l x).agenda = s.agenda ∧
    (s.setMsc l x).turn = s.turn ∧ (s.setMsc l x).focus = s.focus ∧ (s.setMsc l x).freeCtr = s.freeCtr ∧
    (s.setMsc l x).nextId = s.nextId ∧ (s.setMsc l x).order = s.order :=
  ⟨rfl, rfl, rfl, rfl, rfl, rfl, rfl, rfl, rfl, rfl, rfl, rfl, rfl, rfl, rfl, rfl, rfl, rfl, rfl, rfl, rfl, rfl, rfl, rfl, rfl, rfl, rfl, rfl, rfl, rfl, rfl, rfl, rfl, rfl, rfl, rfl, rfl, rfl, rfl, rfl, rfl, rfl, rfl, rfl, rfl, rfl, rfl⟩

@[simp] theorem delMsc_fields (s : State) (l : Nat) :
    (s.delMsc l).pkg = { s.pkg with badMsc := s.pkg.badMsc.filter fun x => x ≠ l } ∧ (s.delMsc l).ports = s.ports ∧ (s.delMsc l).conns = s.conns ∧
    (s.delMsc l).regions = s.regions ∧ (s.delMsc l).wire = s.wire ∧ (s.delMsc l).wireMarks = s.wireMarks ∧
    (s.delMsc l).mgmt = s.mgmt ∧
    (s.delMsc l).devRegs = s.devRegs ∧ (s.delMsc l).queues = s.queues ∧ (s.delMsc l).mapPass = s.mapPass ∧
    (s.delMsc l).arrivals = s.arrivals ∧ (s.delMsc l).launches = s.launches ∧ (s.delMsc l).growReqs = s.growReqs ∧
    (s.delMsc l).contexts = s.contexts ∧ (s.delMsc l).partPmc = s.partPmc ∧ (s.delMsc l).teams = s.teams ∧
    (s.delMsc l).inflight = s.inflight ∧ (s.delMsc l).cores = s.cores ∧ (s.delMsc l).mem.hbm = s.mem.hbm ∧
    (s.delMsc l).mem.waysOff = s.mem.waysOff ∧ (s.delMsc l).mem.dir = s.mem.dir ∧ (s.delMsc l).mem.root = s.mem.root ∧
    (s.delMsc l).mem.level1 = s.mem.level1 ∧
    (s.delMsc l).mem.ptes = s.mem.ptes ∧ (s.delMsc l).mem.l2Reserve = s.mem.l2Reserve ∧
    (s.delMsc l).mem.faults = s.mem.faults ∧ (s.delMsc l).mem.faultWait = s.mem.faultWait ∧
    (s.delMsc l).mem.movePark = s.mem.movePark ∧ (s.delMsc l).mem.replayQ = s.mem.replayQ ∧
    (s.delMsc l).mem.changes = s.mem.changes ∧ (s.delMsc l).mem.migrations = s.mem.migrations ∧
    (s.delMsc l).mem.pinWait = s.mem.pinWait ∧ (s.delMsc l).mem.msccCtl = s.mem.msccCtl ∧
    (s.delMsc l).mem.mscc = s.mem.mscc ∧ (s.delMsc l).mem.notify = s.mem.notify ∧ (s.delMsc l).channels = s.channels ∧
    (s.delMsc l).copyWait = s.copyWait ∧ (s.delMsc l).collOps = s.collOps ∧ (s.delMsc l).collDone = s.collDone ∧
    (s.delMsc l).collMsgs = s.collMsgs ∧ (s.delMsc l).streams = s.streams ∧ (s.delMsc l).agenda = s.agenda ∧
    (s.delMsc l).turn = s.turn ∧ (s.delMsc l).focus = s.focus ∧ (s.delMsc l).freeCtr = s.freeCtr ∧
    (s.delMsc l).nextId = s.nextId ∧ (s.delMsc l).order = s.order :=
  ⟨rfl, rfl, rfl, rfl, rfl, rfl, rfl, rfl, rfl, rfl, rfl, rfl, rfl, rfl, rfl, rfl, rfl, rfl, rfl, rfl, rfl, rfl, rfl, rfl, rfl, rfl, rfl, rfl, rfl, rfl, rfl, rfl, rfl, rfl, rfl, rfl, rfl, rfl, rfl, rfl, rfl, rfl, rfl, rfl, rfl, rfl, rfl⟩

@[simp] theorem setPte_fields (s : State) (p : Nat) (e : W64) :
    (s.setPte p e).pkg = s.pkg ∧ (s.setPte p e).ports = s.ports ∧ (s.setPte p e).conns = s.conns ∧
    (s.setPte p e).regions = s.regions ∧ (s.setPte p e).wire = s.wire ∧ (s.setPte p e).wireMarks = s.wireMarks ∧
    (s.setPte p e).mgmt = s.mgmt ∧
    (s.setPte p e).devRegs = s.devRegs ∧ (s.setPte p e).queues = s.queues ∧ (s.setPte p e).mapPass = s.mapPass ∧
    (s.setPte p e).arrivals = s.arrivals ∧ (s.setPte p e).launches = s.launches ∧ (s.setPte p e).growReqs = s.growReqs ∧
    (s.setPte p e).contexts = s.contexts ∧ (s.setPte p e).partPmc = s.partPmc ∧ (s.setPte p e).teams = s.teams ∧
    (s.setPte p e).inflight = s.inflight ∧ (s.setPte p e).cores = s.cores ∧ (s.setPte p e).mem.hbm = s.mem.hbm ∧
    (s.setPte p e).mem.msc = s.mem.msc ∧ (s.setPte p e).mem.waysOff = s.mem.waysOff ∧ (s.setPte p e).mem.dir = s.mem.dir ∧
    (s.setPte p e).mem.root = s.mem.root ∧
    (s.setPte p e).mem.level1 = s.mem.level1 ∧ (s.setPte p e).mem.l2Reserve = s.mem.l2Reserve ∧
    (s.setPte p e).mem.faults = s.mem.faults ∧ (s.setPte p e).mem.faultWait = s.mem.faultWait ∧
    (s.setPte p e).mem.movePark = s.mem.movePark ∧ (s.setPte p e).mem.replayQ = s.mem.replayQ ∧
    (s.setPte p e).mem.changes = s.mem.changes ∧ (s.setPte p e).mem.migrations = s.mem.migrations ∧
    (s.setPte p e).mem.pinWait = s.mem.pinWait ∧ (s.setPte p e).mem.msccCtl = s.mem.msccCtl ∧
    (s.setPte p e).mem.mscc = s.mem.mscc ∧ (s.setPte p e).mem.notify = s.mem.notify ∧
    (s.setPte p e).channels = s.channels ∧ (s.setPte p e).copyWait = s.copyWait ∧ (s.setPte p e).collOps = s.collOps ∧
    (s.setPte p e).collDone = s.collDone ∧ (s.setPte p e).collMsgs = s.collMsgs ∧ (s.setPte p e).streams = s.streams ∧
    (s.setPte p e).agenda = s.agenda ∧ (s.setPte p e).turn = s.turn ∧ (s.setPte p e).focus = s.focus ∧
    (s.setPte p e).freeCtr = s.freeCtr ∧ (s.setPte p e).nextId = s.nextId ∧ (s.setPte p e).order = s.order :=
  ⟨rfl, rfl, rfl, rfl, rfl, rfl, rfl, rfl, rfl, rfl, rfl, rfl, rfl, rfl, rfl, rfl, rfl, rfl, rfl, rfl, rfl, rfl, rfl, rfl, rfl, rfl, rfl, rfl, rfl, rfl, rfl, rfl, rfl, rfl, rfl, rfl, rfl, rfl, rfl, rfl, rfl, rfl, rfl, rfl, rfl, rfl, rfl⟩

@[simp] theorem hbmSet_fields (s : State) (p : Nat) (b : Byte) :
    (hbmSet s p b).pkg = s.pkg ∧ (hbmSet s p b).ports = s.ports ∧ (hbmSet s p b).conns = s.conns ∧
    (hbmSet s p b).regions = s.regions ∧ (hbmSet s p b).wire = s.wire ∧ (hbmSet s p b).wireMarks = s.wireMarks ∧
    (hbmSet s p b).mgmt = s.mgmt ∧
    (hbmSet s p b).devRegs = s.devRegs ∧ (hbmSet s p b).queues = s.queues ∧ (hbmSet s p b).mapPass = s.mapPass ∧
    (hbmSet s p b).arrivals = s.arrivals ∧ (hbmSet s p b).launches = s.launches ∧ (hbmSet s p b).growReqs = s.growReqs ∧
    (hbmSet s p b).contexts = s.contexts ∧ (hbmSet s p b).partPmc = s.partPmc ∧ (hbmSet s p b).teams = s.teams ∧
    (hbmSet s p b).inflight = s.inflight ∧ (hbmSet s p b).cores = s.cores ∧ (hbmSet s p b).mem.msc = s.mem.msc ∧
    (hbmSet s p b).mem.waysOff = s.mem.waysOff ∧ (hbmSet s p b).mem.dir = s.mem.dir ∧
    (hbmSet s p b).mem.root = s.mem.root ∧
    (hbmSet s p b).mem.level1 = s.mem.level1 ∧ (hbmSet s p b).mem.ptes = s.mem.ptes ∧
    (hbmSet s p b).mem.l2Reserve = s.mem.l2Reserve ∧ (hbmSet s p b).mem.faults = s.mem.faults ∧
    (hbmSet s p b).mem.faultWait = s.mem.faultWait ∧ (hbmSet s p b).mem.movePark = s.mem.movePark ∧
    (hbmSet s p b).mem.replayQ = s.mem.replayQ ∧ (hbmSet s p b).mem.changes = s.mem.changes ∧
    (hbmSet s p b).mem.migrations = s.mem.migrations ∧ (hbmSet s p b).mem.pinWait = s.mem.pinWait ∧
    (hbmSet s p b).mem.msccCtl = s.mem.msccCtl ∧ (hbmSet s p b).mem.mscc = s.mem.mscc ∧
    (hbmSet s p b).mem.notify = s.mem.notify ∧ (hbmSet s p b).channels = s.channels ∧
    (hbmSet s p b).copyWait = s.copyWait ∧ (hbmSet s p b).collOps = s.collOps ∧ (hbmSet s p b).collDone = s.collDone ∧
    (hbmSet s p b).collMsgs = s.collMsgs ∧ (hbmSet s p b).streams = s.streams ∧ (hbmSet s p b).agenda = s.agenda ∧
    (hbmSet s p b).turn = s.turn ∧ (hbmSet s p b).focus = s.focus ∧ (hbmSet s p b).freeCtr = s.freeCtr ∧
    (hbmSet s p b).nextId = s.nextId ∧ (hbmSet s p b).order = s.order :=
  ⟨rfl, rfl, rfl, rfl, rfl, rfl, rfl, rfl, rfl, rfl, rfl, rfl, rfl, rfl, rfl, rfl, rfl, rfl, rfl, rfl, rfl, rfl, rfl, rfl, rfl, rfl, rfl, rfl, rfl, rfl, rfl, rfl, rfl, rfl, rfl, rfl, rfl, rfl, rfl, rfl, rfl, rfl, rfl, rfl, rfl, rfl, rfl⟩

@[simp] theorem modCore_fields (s : State) (c : Nat) (f : Core → Core) :
    (s.modCore c f).pkg = s.pkg ∧ (s.modCore c f).ports = s.ports ∧ (s.modCore c f).conns = s.conns ∧
    (s.modCore c f).regions = s.regions ∧ (s.modCore c f).wire = s.wire ∧ (s.modCore c f).wireMarks = s.wireMarks ∧
    (s.modCore c f).mgmt = s.mgmt ∧
    (s.modCore c f).devRegs = s.devRegs ∧ (s.modCore c f).queues = s.queues ∧ (s.modCore c f).mapPass = s.mapPass ∧
    (s.modCore c f).arrivals = s.arrivals ∧ (s.modCore c f).launches = s.launches ∧ (s.modCore c f).growReqs = s.growReqs ∧
    (s.modCore c f).contexts = s.contexts ∧ (s.modCore c f).partPmc = s.partPmc ∧ (s.modCore c f).teams = s.teams ∧
    (s.modCore c f).inflight = s.inflight ∧ (s.modCore c f).mem = s.mem ∧ (s.modCore c f).channels = s.channels ∧
    (s.modCore c f).copyWait = s.copyWait ∧ (s.modCore c f).collOps = s.collOps ∧ (s.modCore c f).collDone = s.collDone ∧
    (s.modCore c f).collMsgs = s.collMsgs ∧ (s.modCore c f).streams = s.streams ∧ (s.modCore c f).agenda = s.agenda ∧
    (s.modCore c f).turn = s.turn ∧ (s.modCore c f).focus = s.focus ∧ (s.modCore c f).freeCtr = s.freeCtr ∧
    (s.modCore c f).nextId = s.nextId ∧ (s.modCore c f).order = s.order :=
  ⟨rfl, rfl, rfl, rfl, rfl, rfl, rfl, rfl, rfl, rfl, rfl, rfl, rfl, rfl, rfl, rfl, rfl, rfl, rfl, rfl, rfl, rfl, rfl, rfl, rfl, rfl, rfl, rfl, rfl, rfl⟩

@[simp] theorem countCore_fields (s : State) (c e n : Nat) :
    (s.countCore c e n).pkg = s.pkg ∧ (s.countCore c e n).ports = s.ports ∧ (s.countCore c e n).conns = s.conns ∧
    (s.countCore c e n).regions = s.regions ∧ (s.countCore c e n).wire = s.wire ∧
    (s.countCore c e n).wireMarks = s.wireMarks ∧ (s.countCore c e n).mgmt = s.mgmt ∧
    (s.countCore c e n).devRegs = s.devRegs ∧ (s.countCore c e n).queues = s.queues ∧
    (s.countCore c e n).mapPass = s.mapPass ∧ (s.countCore c e n).arrivals = s.arrivals ∧
    (s.countCore c e n).launches = s.launches ∧ (s.countCore c e n).growReqs = s.growReqs ∧
    (s.countCore c e n).contexts = s.contexts ∧ (s.countCore c e n).partPmc = s.partPmc ∧
    (s.countCore c e n).teams = s.teams ∧ (s.countCore c e n).inflight = s.inflight ∧ (s.countCore c e n).mem = s.mem ∧
    (s.countCore c e n).channels = s.channels ∧ (s.countCore c e n).copyWait = s.copyWait ∧
    (s.countCore c e n).collOps = s.collOps ∧ (s.countCore c e n).collDone = s.collDone ∧
    (s.countCore c e n).collMsgs = s.collMsgs ∧ (s.countCore c e n).streams = s.streams ∧
    (s.countCore c e n).agenda = s.agenda ∧ (s.countCore c e n).turn = s.turn ∧ (s.countCore c e n).focus = s.focus ∧
    (s.countCore c e n).freeCtr = s.freeCtr ∧ (s.countCore c e n).nextId = s.nextId ∧ (s.countCore c e n).order = s.order :=
  by
  unfold State.countCore; exact modCore_fields ..

@[simp] theorem modPort_fields (s : State) (c : Nat) (p : Option Nat) (f : IssuePort → IssuePort) :
    (s.modPort c p f).pkg = s.pkg ∧ (s.modPort c p f).ports = s.ports ∧ (s.modPort c p f).conns = s.conns ∧
    (s.modPort c p f).regions = s.regions ∧ (s.modPort c p f).wire = s.wire ∧ (s.modPort c p f).wireMarks = s.wireMarks ∧
    (s.modPort c p f).mgmt = s.mgmt ∧
    (s.modPort c p f).devRegs = s.devRegs ∧ (s.modPort c p f).queues = s.queues ∧ (s.modPort c p f).mapPass = s.mapPass ∧
    (s.modPort c p f).arrivals = s.arrivals ∧ (s.modPort c p f).launches = s.launches ∧
    (s.modPort c p f).growReqs = s.growReqs ∧ (s.modPort c p f).contexts = s.contexts ∧
    (s.modPort c p f).partPmc = s.partPmc ∧ (s.modPort c p f).teams = s.teams ∧ (s.modPort c p f).inflight = s.inflight ∧
    (s.modPort c p f).mem = s.mem ∧ (s.modPort c p f).channels = s.channels ∧ (s.modPort c p f).copyWait = s.copyWait ∧
    (s.modPort c p f).collOps = s.collOps ∧ (s.modPort c p f).collDone = s.collDone ∧
    (s.modPort c p f).collMsgs = s.collMsgs ∧ (s.modPort c p f).streams = s.streams ∧ (s.modPort c p f).agenda = s.agenda ∧
    (s.modPort c p f).turn = s.turn ∧ (s.modPort c p f).focus = s.focus ∧ (s.modPort c p f).freeCtr = s.freeCtr ∧
    (s.modPort c p f).nextId = s.nextId ∧ (s.modPort c p f).order = s.order :=
  by
  unfold State.modPort; exact modCore_fields ..

@[simp] theorem modTeam_fields (s : State) (t : Nat) (f : Team → Team) :
    (s.modTeam t f).pkg = s.pkg ∧ (s.modTeam t f).ports = s.ports ∧ (s.modTeam t f).conns = s.conns ∧
    (s.modTeam t f).regions = s.regions ∧ (s.modTeam t f).wire = s.wire ∧ (s.modTeam t f).wireMarks = s.wireMarks ∧
    (s.modTeam t f).mgmt = s.mgmt ∧
    (s.modTeam t f).devRegs = s.devRegs ∧ (s.modTeam t f).queues = s.queues ∧ (s.modTeam t f).mapPass = s.mapPass ∧
    (s.modTeam t f).arrivals = s.arrivals ∧ (s.modTeam t f).launches = s.launches ∧ (s.modTeam t f).growReqs = s.growReqs ∧
    (s.modTeam t f).contexts = s.contexts ∧ (s.modTeam t f).partPmc = s.partPmc ∧ (s.modTeam t f).inflight = s.inflight ∧
    (s.modTeam t f).cores = s.cores ∧ (s.modTeam t f).mem = s.mem ∧ (s.modTeam t f).channels = s.channels ∧
    (s.modTeam t f).copyWait = s.copyWait ∧ (s.modTeam t f).collOps = s.collOps ∧ (s.modTeam t f).collDone = s.collDone ∧
    (s.modTeam t f).collMsgs = s.collMsgs ∧ (s.modTeam t f).streams = s.streams ∧ (s.modTeam t f).agenda = s.agenda ∧
    (s.modTeam t f).turn = s.turn ∧ (s.modTeam t f).focus = s.focus ∧ (s.modTeam t f).freeCtr = s.freeCtr ∧
    (s.modTeam t f).nextId = s.nextId ∧ (s.modTeam t f).order = s.order :=
  by
  unfold State.modTeam; split
  · exact setTeam_fields ..
  · exact ⟨rfl, rfl, rfl, rfl, rfl, rfl, rfl, rfl, rfl, rfl, rfl, rfl, rfl, rfl, rfl, rfl, rfl, rfl, rfl, rfl, rfl, rfl, rfl, rfl, rfl, rfl, rfl, rfl, rfl, rfl⟩

@[simp] theorem setUnit_fields (s : State) (r : UnitRef) (u : UnitState) :
    (s.setUnit r u).pkg = s.pkg ∧ (s.setUnit r u).ports = s.ports ∧ (s.setUnit r u).conns = s.conns ∧
    (s.setUnit r u).regions = s.regions ∧ (s.setUnit r u).wire = s.wire ∧ (s.setUnit r u).wireMarks = s.wireMarks ∧
    (s.setUnit r u).mgmt = s.mgmt ∧
    (s.setUnit r u).devRegs = s.devRegs ∧ (s.setUnit r u).queues = s.queues ∧ (s.setUnit r u).mapPass = s.mapPass ∧
    (s.setUnit r u).arrivals = s.arrivals ∧ (s.setUnit r u).launches = s.launches ∧ (s.setUnit r u).growReqs = s.growReqs ∧
    (s.setUnit r u).contexts = s.contexts ∧ (s.setUnit r u).partPmc = s.partPmc ∧ (s.setUnit r u).inflight = s.inflight ∧
    (s.setUnit r u).cores = s.cores ∧ (s.setUnit r u).mem = s.mem ∧ (s.setUnit r u).channels = s.channels ∧
    (s.setUnit r u).copyWait = s.copyWait ∧ (s.setUnit r u).collOps = s.collOps ∧ (s.setUnit r u).collDone = s.collDone ∧
    (s.setUnit r u).collMsgs = s.collMsgs ∧ (s.setUnit r u).streams = s.streams ∧ (s.setUnit r u).agenda = s.agenda ∧
    (s.setUnit r u).turn = s.turn ∧ (s.setUnit r u).focus = s.focus ∧ (s.setUnit r u).freeCtr = s.freeCtr ∧
    (s.setUnit r u).nextId = s.nextId ∧ (s.setUnit r u).order = s.order :=
  by
  unfold State.setUnit; exact modTeam_fields ..

@[simp] theorem modUnit_fields (s : State) (r : UnitRef) (f : UnitState → UnitState) :
    (s.modUnit r f).pkg = s.pkg ∧ (s.modUnit r f).ports = s.ports ∧ (s.modUnit r f).conns = s.conns ∧
    (s.modUnit r f).regions = s.regions ∧ (s.modUnit r f).wire = s.wire ∧ (s.modUnit r f).wireMarks = s.wireMarks ∧
    (s.modUnit r f).mgmt = s.mgmt ∧
    (s.modUnit r f).devRegs = s.devRegs ∧ (s.modUnit r f).queues = s.queues ∧ (s.modUnit r f).mapPass = s.mapPass ∧
    (s.modUnit r f).arrivals = s.arrivals ∧ (s.modUnit r f).launches = s.launches ∧ (s.modUnit r f).growReqs = s.growReqs ∧
    (s.modUnit r f).contexts = s.contexts ∧ (s.modUnit r f).partPmc = s.partPmc ∧ (s.modUnit r f).inflight = s.inflight ∧
    (s.modUnit r f).cores = s.cores ∧ (s.modUnit r f).mem = s.mem ∧ (s.modUnit r f).channels = s.channels ∧
    (s.modUnit r f).copyWait = s.copyWait ∧ (s.modUnit r f).collOps = s.collOps ∧ (s.modUnit r f).collDone = s.collDone ∧
    (s.modUnit r f).collMsgs = s.collMsgs ∧ (s.modUnit r f).streams = s.streams ∧ (s.modUnit r f).agenda = s.agenda ∧
    (s.modUnit r f).turn = s.turn ∧ (s.modUnit r f).focus = s.focus ∧ (s.modUnit r f).freeCtr = s.freeCtr ∧
    (s.modUnit r f).nextId = s.nextId ∧ (s.modUnit r f).order = s.order :=
  by
  unfold State.modUnit; split
  · exact setUnit_fields ..
  · exact ⟨rfl, rfl, rfl, rfl, rfl, rfl, rfl, rfl, rfl, rfl, rfl, rfl, rfl, rfl, rfl, rfl, rfl, rfl, rfl, rfl, rfl, rfl, rfl, rfl, rfl, rfl, rfl, rfl, rfl, rfl⟩

@[simp] theorem modLaunch_fields (s : State) (l : Nat) (f : Launch → Launch) :
    (s.modLaunch l f).pkg = s.pkg ∧ (s.modLaunch l f).ports = s.ports ∧ (s.modLaunch l f).conns = s.conns ∧
    (s.modLaunch l f).regions = s.regions ∧ (s.modLaunch l f).wire = s.wire ∧ (s.modLaunch l f).wireMarks = s.wireMarks ∧
    (s.modLaunch l f).mgmt = s.mgmt ∧
    (s.modLaunch l f).devRegs = s.devRegs ∧ (s.modLaunch l f).queues = s.queues ∧ (s.modLaunch l f).mapPass = s.mapPass ∧
    (s.modLaunch l f).arrivals = s.arrivals ∧ (s.modLaunch l f).growReqs = s.growReqs ∧
    (s.modLaunch l f).contexts = s.contexts ∧ (s.modLaunch l f).partPmc = s.partPmc ∧ (s.modLaunch l f).teams = s.teams ∧
    (s.modLaunch l f).inflight = s.inflight ∧ (s.modLaunch l f).cores = s.cores ∧ (s.modLaunch l f).mem = s.mem ∧
    (s.modLaunch l f).channels = s.channels ∧ (s.modLaunch l f).copyWait = s.copyWait ∧
    (s.modLaunch l f).collOps = s.collOps ∧ (s.modLaunch l f).collDone = s.collDone ∧
    (s.modLaunch l f).collMsgs = s.collMsgs ∧ (s.modLaunch l f).streams = s.streams ∧ (s.modLaunch l f).agenda = s.agenda ∧
    (s.modLaunch l f).turn = s.turn ∧ (s.modLaunch l f).focus = s.focus ∧ (s.modLaunch l f).freeCtr = s.freeCtr ∧
    (s.modLaunch l f).nextId = s.nextId ∧ (s.modLaunch l f).order = s.order :=
  by
  unfold State.modLaunch; split <;> exact ⟨rfl, rfl, rfl, rfl, rfl, rfl, rfl, rfl, rfl, rfl, rfl, rfl, rfl, rfl, rfl, rfl, rfl, rfl, rfl, rfl, rfl, rfl, rfl, rfl, rfl, rfl, rfl, rfl, rfl, rfl⟩

@[simp] theorem freePort_fields (s : State) (r : UnitRef) (k : Nat) :
    (freePort s r k).pkg = s.pkg ∧ (freePort s r k).ports = s.ports ∧ (freePort s r k).conns = s.conns ∧
    (freePort s r k).regions = s.regions ∧ (freePort s r k).wire = s.wire ∧ (freePort s r k).wireMarks = s.wireMarks ∧
    (freePort s r k).mgmt = s.mgmt ∧
    (freePort s r k).devRegs = s.devRegs ∧ (freePort s r k).queues = s.queues ∧ (freePort s r k).mapPass = s.mapPass ∧
    (freePort s r k).arrivals = s.arrivals ∧ (freePort s r k).launches = s.launches ∧
    (freePort s r k).growReqs = s.growReqs ∧ (freePort s r k).contexts = s.contexts ∧
    (freePort s r k).partPmc = s.partPmc ∧ (freePort s r k).teams = s.teams ∧ (freePort s r k).inflight = s.inflight ∧
    (freePort s r k).mem = s.mem ∧ (freePort s r k).channels = s.channels ∧ (freePort s r k).copyWait = s.copyWait ∧
    (freePort s r k).collOps = s.collOps ∧ (freePort s r k).collDone = s.collDone ∧
    (freePort s r k).collMsgs = s.collMsgs ∧ (freePort s r k).streams = s.streams ∧ (freePort s r k).agenda = s.agenda ∧
    (freePort s r k).turn = s.turn ∧ (freePort s r k).focus = s.focus ∧ (freePort s r k).freeCtr = s.freeCtr ∧
    (freePort s r k).nextId = s.nextId ∧ (freePort s r k).order = s.order :=
  by
  unfold freePort; split
  · exact ⟨rfl, rfl, rfl, rfl, rfl, rfl, rfl, rfl, rfl, rfl, rfl, rfl, rfl, rfl, rfl, rfl, rfl, rfl, rfl, rfl, rfl, rfl, rfl, rfl, rfl, rfl, rfl, rfl, rfl, rfl⟩
  · exact modPort_fields ..

/-- What happens before a point is the model's own account (log 74): it touches nothing else. -/
@[simp] theorem learn_fields (s : State) (p : SyncPt) (ids : List Nat) : { s.learn p ids with order := s.order } = s := by
  simp only [State.learn]; split <;> rfl

@[simp] theorem pass_fields (s : State) (p q : SyncPt) : { s.pass p q with order := s.order } = s := learn_fields ..

@[simp] theorem forget_fields (s : State) (old : SyncPt → Bool) : { s.forget old with order := s.order } = s := rfl

@[simp] theorem learn_core (s : State) (p : SyncPt) (ids : List Nat) (k : Nat) : (s.learn p ids).core k = s.core k := by
  simp only [State.learn]; split <;> rfl

@[simp] theorem pass_core (s : State) (p q : SyncPt) (k : Nat) : (s.pass p q).core k = s.core k := learn_core ..

@[simp] theorem learn_mem (s : State) (p : SyncPt) (ids : List Nat) : (s.learn p ids).mem = s.mem := by
  simp only [State.learn]; split <;> rfl

@[simp] theorem pass_mem (s : State) (p q : SyncPt) : (s.pass p q).mem = s.mem := learn_mem ..

/-- A point knows what it is told, and keeps what it knew. -/
theorem known_learn (s : State) (p : SyncPt) (ids : List Nat) (w : Nat) :
    w ∈ (s.learn p ids).known p ↔ w ∈ s.known p ∨ w ∈ ids := by
  simp only [State.learn]
  split
  · rename_i h
    rw [List.filter_eq_nil_iff] at h
    constructor
    · exact Or.inl
    · rintro (h' | h')
      · exact h'
      · simpa using h w h'
  · simp only [State.known, List.find?_cons, decide_true]
    simp only [List.mem_append, List.mem_filter, Bool.not_eq_true', List.contains_eq_mem, decide_eq_false_iff_not]
    constructor
    · rintro (h | ⟨h, -⟩)
      · exact Or.inl h
      · exact Or.inr h
    · rintro (h | h)
      · exact Or.inl h
      · exact (Classical.em _).imp id fun n => ⟨h, n⟩

end Sys2Proof.Machine
end

