-- ==== Sys2Proof/Laws/Table.lean ====
section
/-! SUPPORT. Laws of the sparse tables: reading after writing, and the canonical form. -/

namespace Sys2Proof.Machine

variable {α : Type}

@[simp] theorem tfind_nil (k : Nat) : tfind ([] : Table α) k = none := rfl

@[simp] theorem tfind_tput_same (t : Table α) (k : Nat) (v : α) : tfind (tput t k v) k = some v := by
  induction t with
  | nil => simp [tput, tfind]
  | cons e t ih =>
    obtain ⟨j, u⟩ := e
    simp only [tput]
    split
    · simp [tfind]
    · split
      · simp [tfind]
      · simp_all [tfind]

theorem tfind_tput_ne (t : Table α) {k j : Nat} (v : α) (h : j ≠ k) : tfind (tput t k v) j = tfind t j := by
  induction t with
  | nil => simp [tput, tfind, h.symm]
  | cons e t ih =>
    obtain ⟨i, u⟩ := e
    simp only [tput]
    split
    · subst_vars; simp [tfind, h.symm]
    · split
      · simp [tfind, h.symm]
      · simp [tfind, ih]

@[simp] theorem tfind_tdel_same (t : Table α) (k : Nat) : tfind (tdel t k) k = none := by
  induction t with
  | nil => rfl
  | cons e t ih =>
    obtain ⟨i, u⟩ := e
    simp only [tdel]
    split
    · exact ih
    · simp_all [tfind]

theorem tfind_tdel_ne (t : Table α) {k j : Nat} (h : j ≠ k) : tfind (tdel t k) j = tfind t j := by
  induction t with
  | nil => rfl
  | cons e t ih =>
    obtain ⟨i, u⟩ := e
    simp only [tdel]
    split
    · subst_vars; simp [tfind, h.symm, ih]
    · simp [tfind, ih]

/-- Reading after a write. -/
theorem tget_tset [DecidableEq α] (d : α) (t : Table α) (k j : Nat) (v : α) :
    tget d (tset d t k v) j = if j = k then v else tget d t j := by
  unfold tset tget
  by_cases hj : j = k
  · subst hj; split <;> simp_all
  · split <;> simp [tfind_tdel_ne, tfind_tput_ne, hj]

@[simp] theorem tget_tset_same [DecidableEq α] (d : α) (t : Table α) (k : Nat) (v : α) : tget d (tset d t k v) k = v := by
  simp [tget_tset]

theorem tget_tset_ne [DecidableEq α] (d : α) (t : Table α) {k j : Nat} (v : α) (h : j ≠ k) :
    tget d (tset d t k v) j = tget d t j := by
  simp [tget_tset, h]

@[simp] theorem tget_nil (d : α) (k : Nat) : tget d [] k = d := rfl

/-! ## The canonical form -/

theorem sortedFrom_mono {lo lo' : Nat} {t : Table α} (h : sortedFrom lo t = true) (hl : lo' ≤ lo) :
    sortedFrom lo' t = true := by
  cases t with
  | nil => rfl
  | cons e t =>
    obtain ⟨j, u⟩ := e
    simp only [sortedFrom, Bool.and_eq_true, decide_eq_true_eq] at h ⊢
    exact ⟨by omega, h.2⟩

theorem sortedFrom_tput {lo k : Nat} {t : Table α} (v : α) (h : sortedFrom lo t = true) (hk : lo ≤ k) :
    sortedFrom lo (tput t k v) = true := by
  induction t generalizing lo with
  | nil => simp [tput, sortedFrom, hk]
  | cons e t ih =>
    obtain ⟨j, u⟩ := e
    simp only [sortedFrom, Bool.and_eq_true, decide_eq_true_eq] at h
    simp only [tput]
    split
    · subst_vars; simp [sortedFrom, h]
    · split
      · simp only [sortedFrom, Bool.and_eq_true, decide_eq_true_eq]
        exact ⟨hk, by omega, h.2⟩
      · simp only [sortedFrom, Bool.and_eq_true, decide_eq_true_eq]
        exact ⟨h.1, ih h.2 (by omega)⟩

theorem sortedFrom_filter {lo : Nat} {t : Table α} (p : Nat × α → Bool) (h : sortedFrom lo t = true) :
    sortedFrom lo (t.filter p) = true := by
  induction t generalizing lo with
  | nil => rfl
  | cons e t ih =>
    obtain ⟨j, u⟩ := e
    simp only [sortedFrom, Bool.and_eq_true, decide_eq_true_eq] at h
    rw [List.filter_cons]
    split
    · simp only [sortedFrom, Bool.and_eq_true, decide_eq_true_eq]
      exact ⟨h.1, ih h.2⟩
    · exact sortedFrom_mono (ih h.2) (by omega)

theorem tdel_eq_filter (t : Table α) (k : Nat) : tdel t k = t.filter fun e => decide (e.1 ≠ k) := by
  induction t with
  | nil => rfl
  | cons e t ih =>
    obtain ⟨j, u⟩ := e
    by_cases h : j = k <;> simp [tdel, h, ih]

theorem mem_tput {t : Table α} {k : Nat} {v : α} {e : Nat × α} (h : e ∈ tput t k v) : e = (k, v) ∨ e ∈ t := by
  induction t with
  | nil => simpa [tput] using h
  | cons x t ih =>
    obtain ⟨j, u⟩ := x
    simp only [tput] at h
    grind

/-- A write keeps the canonical form. -/
theorem twf_tset [DecidableEq α] {d : α} {t : Table α} (k : Nat) (v : α) (h : twf d t = true) :
    twf d (tset d t k v) = true := by
  simp only [twf, Bool.and_eq_true, List.all_eq_true, decide_eq_true_eq] at h ⊢
  unfold tset
  split
  · rw [tdel_eq_filter]
    exact ⟨sortedFrom_filter _ h.1, fun e he => h.2 e ((List.mem_filter.1 he).1)⟩
  · refine ⟨sortedFrom_tput v h.1 (Nat.zero_le _), fun e he => ?_⟩
    rcases mem_tput he with rfl | he
    · assumption
    · exact h.2 e he

/-- Leaving entries out keeps the canonical form. -/
theorem twf_filter [DecidableEq α] {d : α} {t : Table α} (p : Nat × α → Bool) (h : twf d t = true) :
    twf d (t.filter p) = true := by
  simp only [twf, Bool.and_eq_true, List.all_eq_true, decide_eq_true_eq] at h ⊢
  exact ⟨sortedFrom_filter _ h.1, fun e he => h.2 e ((List.mem_filter.1 he).1)⟩

@[simp] theorem twf_nil [DecidableEq α] (d : α) : twf d ([] : Table α) = true := rfl

end Sys2Proof.Machine
end

