-- ==== Sys2Proof/Laws/Unit.lean ====
section
/-! SUPPORT. Laws of units: reading a unit after an update, the registers after the writes of results, and what the shared
operations of issue leave alone. -/

namespace Sys2Proof.Machine

/-! ## Teams and units -/

@[simp] theorem team?_setTeam_same (s : State) (t : Nat) (x : Team) : (s.setTeam t x).team? t = some x :=
  tfind_tput_same ..

theorem team?_setTeam_ne (s : State) {t q : Nat} (x : Team) (h : q ≠ t) : (s.setTeam t x).team? q = s.team? q :=
  tfind_tput_ne _ _ h

@[simp] theorem team?_modCore (s : State) (c : Nat) (f : Core → Core) (t : Nat) : (s.modCore c f).team? t = s.team? t := rfl

@[simp] theorem unit?_modCore (s : State) (c : Nat) (f : Core → Core) (r : UnitRef) :
    (s.modCore c f).unit? r = s.unit? r := rfl

@[simp] theorem launch?_modCore (s : State) (c : Nat) (f : Core → Core) (l : Nat) :
    (s.modCore c f).launch? l = s.launch? l := rfl

@[simp] theorem team?_countCore (s : State) (c e n t : Nat) : (s.countCore c e n).team? t = s.team? t := by
  unfold State.countCore; exact team?_modCore ..
@[simp] theorem unit?_countCore (s : State) (c e n : Nat) (r : UnitRef) : (s.countCore c e n).unit? r = s.unit? r := by
  unfold State.countCore; exact unit?_modCore ..
@[simp] theorem unit?_modPort (s : State) (c : Nat) (p : Option Nat) (f : IssuePort → IssuePort) (r : UnitRef) :
    (s.modPort c p f).unit? r = s.unit? r := by
  unfold State.modPort; exact unit?_modCore ..
@[simp] theorem team?_modPort (s : State) (c : Nat) (p : Option Nat) (f : IssuePort → IssuePort) (t : Nat) :
    (s.modPort c p f).team? t = s.team? t := by
  unfold State.modPort; exact team?_modCore ..

@[simp] theorem unit?_freePort (s : State) (r : UnitRef) (k : Nat) (q : UnitRef) : (freePort s r k).unit? q = s.unit? q := by
  unfold freePort; split <;> simp

@[simp] theorem core_modCore_same (s : State) (c : Nat) (f : Core → Core) : (s.modCore c f).core c = f (s.core c) := by
  simp [State.modCore, State.setCore, State.core]

theorem core_modCore (s : State) (c k : Nat) (f : Core → Core) :
    (s.modCore c f).core k = if k = c then f (s.core c) else s.core k := by
  simp [State.modCore, State.setCore, State.core, tget_tset]

theorem Team.unit?_setUnit_same {t : Team} {g : Option Nat} {v : UnitState} (u : UnitState) (h : t.unit? g = some v) :
    (t.setUnit g u).unit? g = some u := by
  cases g with
  | none => rfl
  | some g =>
    simp only [Team.unit?, Team.setUnit] at h ⊢
    have : g < t.groups.length := (List.getElem?_eq_some_iff.1 h).1
    simp [this]

theorem Team.unit?_setUnit_ne {t : Team} {g q : Option Nat} (u : UnitState) (h : q ≠ g) :
    (t.setUnit g u).unit? q = t.unit? q := by
  cases g <;> cases q <;> simp_all [Team.unit?, Team.setUnit]
  rw [List.getElem?_set_ne]; exact fun e => h e.symm

theorem Team.shell_setUnit (t : Team) (g : Option Nat) (u : UnitState) : (t.setUnit g u).shell = t.shell := by
  cases g <;> rfl

theorem unit?_eq {s : State} {r : UnitRef} {u : UnitState} (h : s.unit? r = some u) :
    ∃ t, s.team? r.team = some t ∧ t.unit? r.grp = some u := by
  simpa [State.unit?, Option.bind_eq_some_iff] using h

/-- A unit read after it has been updated. -/
theorem unit?_modUnit_same {s : State} {r : UnitRef} {u : UnitState} (f : UnitState → UnitState) (h : s.unit? r = some u) :
    (s.modUnit r f).unit? r = some (f u) := by
  obtain ⟨t, ht, hu⟩ := unit?_eq h
  simp only [State.modUnit, h, State.setUnit, State.modTeam, ht]
  simp [State.unit?, Team.unit?_setUnit_same _ hu]

/-- A unit read after another has been updated. -/
theorem unit?_modUnit_ne (s : State) {r q : UnitRef} (f : UnitState → UnitState) (h : q ≠ r) :
    (s.modUnit r f).unit? q = s.unit? q := by
  unfold State.modUnit
  cases hu : s.unit? r with
  | none => rfl
  | some u =>
    obtain ⟨t, ht, _⟩ := unit?_eq hu
    simp only [State.setUnit, State.modTeam, ht, State.unit?]
    by_cases hq : q.team = r.team
    · have hg : q.grp ≠ r.grp := fun e => h (by cases q; cases r; simp_all)
      rw [hq]; simp [ht, Team.unit?_setUnit_ne _ hg]
    · simp [team?_setTeam_ne _ _ hq]

/-! ## What only the unit's own operations touch -/

theorem OnlyUnit.refl (r : UnitRef) (s : State) : OnlyUnit r s s := ⟨rfl, fun _ _ => rfl, fun _ => rfl, fun _ => rfl⟩

theorem OnlyUnit.trans {r : UnitRef} {s t u : State} (h : OnlyUnit r s t) (k : OnlyUnit r t u) : OnlyUnit r s u := by
  obtain ⟨h1, h2, h3, h4⟩ := h
  obtain ⟨k1, k2, k3, k4⟩ := k
  refine ⟨?_, fun q hq => (k2 q hq).trans (h2 q hq), fun i => (k3 i).trans (h3 i), fun c => (k4 c).trans (h4 c)⟩
  have e := congrArg (fun x : State => { x with teams := s.teams, cores := s.cores }) k1
  exact e.trans h1

theorem OnlyUnit.modUnit (r : UnitRef) (f : UnitState → UnitState) (s : State) : OnlyUnit r s (s.modUnit r f) := by
  unfold State.modUnit
  cases hu : s.unit? r with
  | none => exact .refl r s
  | some u =>
    obtain ⟨t, ht, _⟩ := unit?_eq hu
    refine ⟨?_, fun q hq => ?_, fun i => ?_, fun _ => ?_⟩
    · simp [State.setUnit, State.modTeam, ht, State.setTeam]
    · have := unit?_modUnit_ne s f hq
      simpa [State.modUnit, hu] using this
    · simp only [State.setUnit, State.modTeam, ht]
      by_cases hi : i = r.team
      · subst hi; simp [ht, Team.shell_setUnit]
      · simp [team?_setTeam_ne _ _ hi]
    · simp [State.setUnit, State.modTeam, ht, State.setTeam, State.core]

theorem OnlyUnit.modCore (r : UnitRef) {s : State} {c : Nat} {f : Core → Core} (h : ∀ k, (f k).uncounted = k.uncounted) :
    OnlyUnit r s (s.modCore c f) := by
  refine ⟨rfl, fun _ _ => rfl, fun _ => rfl, fun k => ?_⟩
  rw [core_modCore]; split
  · subst_vars; exact h _
  · rfl

theorem foldl_keeps {α β γ : Type} (g : α → γ) (f : α → β → α) (h : ∀ a b, g (f a b) = g a) (l : List β) (a : α) :
    g (l.foldl f a) = g a := by
  induction l generalizing a with
  | nil => rfl
  | cons b l ih => rw [List.foldl_cons, ih, h]

theorem OnlyUnit.countCore (r : UnitRef) (s : State) (c e n : Nat) : OnlyUnit r s (s.countCore c e n) := by
  refine OnlyUnit.modCore r fun k => ?_
  refine foldl_keeps Core.uncounted _ (fun a b => ?_) _ _
  split <;> rfl

theorem OnlyUnit.modPort (r : UnitRef) (s : State) (c : Nat) (p : Option Nat) (f : IssuePort → IssuePort) :
    OnlyUnit r s (s.modPort c p f) := by
  refine OnlyUnit.modCore r fun k => ?_
  cases p <;> rfl

theorem OnlyUnit.freePort (r : UnitRef) (s : State) (q : UnitRef) (k : Nat) : OnlyUnit r s (freePort s q k) := by
  unfold Machine.freePort; split
  · exact .refl r s
  · exact .modPort ..

/-- The move to another clause touches the unit's place, its port and nothing else. -/
theorem OnlyUnit.leaveClause (c : Ctx) (f : Thread → Thread) (s : State) : OnlyUnit c.u s (leaveClause c f s) :=
  (OnlyUnit.freePort ..).trans (OnlyUnit.modUnit ..)

theorem OnlyUnit.jump (c : Ctx) (target : Nat) (s : State) : OnlyUnit c.u s (jump c target s) := .leaveClause ..

/-- The move to the next instruction touches the unit's place, its port and two counters. -/
theorem OnlyUnit.advance (c : Ctx) (len : Nat) (s : State) : OnlyUnit c.u s (advance c len s) := by
  have h := (OnlyUnit.countCore c.u s c.core 0x03 1).trans (OnlyUnit.countCore c.u _ c.core 0x04 (vectorPasses c))
  unfold Machine.advance
  split
  · exact h.trans (.modUnit ..)
  · dsimp only
    split
    · exact h.trans (.modUnit ..)
    · exact h.trans (.leaveClause ..)

theorem OnlyUnit.parkAt (c : Ctx) (p : Park) (s : State) : OnlyUnit c.u s (parkAt c p s) := by
  unfold Machine.parkAt
  split
  · exact .freePort ..
  · exact (OnlyUnit.freePort ..).trans (.modUnit ..)

theorem OnlyUnit.writeV (c : Ctx) (d : BitVec 9) (f : Nat → W32) (s : State) : OnlyUnit c.u s (writeV c d f s) := .modUnit ..
theorem OnlyUnit.writeVs (c : Ctx) (d : BitVec 9) (f : Nat → List W32) (s : State) : OnlyUnit c.u s (writeVs c d f s) := .modUnit ..
theorem OnlyUnit.writeS (c : Ctx) (d : BitVec 9) (v : W64) (s : State) : OnlyUnit c.u s (writeS c d v s) := .modUnit ..

/-! ## Places of streams -/

theorem unplaced_setThread (u : UnitState) (k : Nat) (th : Thread) : (u.setThread k th).unplaced = u.unplaced := by
  unfold UnitState.setThread
  split
  · rfl
  · split
    · simp [UnitState.unplaced, Function.comp_def]
    · split
      · rename_i g hg
        have : (u.region.subs.set (subIdx k) { g with th := th }).map (fun g : SubGroup => { g with th := default }) =
            u.region.subs.map fun g => { g with th := default } := by
          rw [List.map_set]
          have hl := (List.getElem?_eq_some_iff.1 hg)
          refine List.ext_getElem? fun i => ?_
          by_cases hi : subIdx k = i
          · subst hi; simp [hl.1, hl.2]
          · simp [List.getElem?_set_ne hi]
        simp [UnitState.unplaced, this]
      · rfl

@[simp] theorem unplaced_modThread (u : UnitState) (k : Nat) (f : Thread → Thread) : (u.modThread k f).unplaced = u.unplaced :=
  unplaced_setThread ..

@[simp] theorem unplaced_override (u : UnitState) (o : Option Replay) : ({ u with override := o } : UnitState).unplaced = u.unplaced := rfl

/-- What is equal between units that differ only in the places of their streams. -/
theorem fields_of_unplaced {u v : UnitState} (h : u.unplaced = v.unplaced) :
    u.vregs = v.vregs ∧ u.sregs = v.sregs ∧ u.vEmpty = v.vEmpty ∧ u.sEmpty = v.sEmpty ∧ u.x = v.x ∧ u.exited = v.exited := by
  simp only [UnitState.unplaced, UnitState.mk.injEq] at h
  simp [h]

theorem bad_of_unplaced {u v : UnitState} (h : u.unplaced = v.unplaced) : u.badRegs = v.badRegs := by
  simp only [UnitState.unplaced, UnitState.mk.injEq] at h
  simp [h]

/-- The unit after `leaveClause`: only the places of its streams have changed. -/
theorem leaveClause_unit {s : State} {c : Ctx} {u : UnitState} (f : Thread → Thread) (h : s.unit? c.u = some u) :
    ∃ v, (leaveClause c f s).unit? c.u = some v ∧ v.unplaced = u.unplaced := by
  unfold Machine.leaveClause
  exact ⟨_, unit?_modUnit_same (u := u) _ (by simpa using h), by simp⟩

theorem jump_unit {s : State} {c : Ctx} {u : UnitState} (target : Nat) (h : s.unit? c.u = some u) :
    ∃ v, (jump c target s).unit? c.u = some v ∧ v.unplaced = u.unplaced := leaveClause_unit _ h

/-- The unit after `advance`: only the places of its streams have changed. -/
theorem advance_unit {s : State} {c : Ctx} {u : UnitState} (len : Nat) (h : s.unit? c.u = some u) :
    ∃ v, (advance c len s).unit? c.u = some v ∧ v.unplaced = u.unplaced := by
  unfold Machine.advance
  split
  · exact ⟨_, unit?_modUnit_same (u := u) _ (by simpa using h), rfl⟩
  · dsimp only
    split
    · exact ⟨_, unit?_modUnit_same (u := u) _ (by simpa using h), by simp⟩
    · exact leaveClause_unit _ (by simpa using h)

/-- The unit after `parkAt`. -/
theorem parkAt_unit {s : State} {c : Ctx} {u : UnitState} (p : Park) (h : s.unit? c.u = some u) :
    ∃ v, (parkAt c p s).unit? c.u = some v ∧ v.unplaced = u.unplaced := by
  unfold Machine.parkAt
  split
  · exact ⟨u, by simpa using h, rfl⟩
  · exact ⟨_, unit?_modUnit_same (u := u) _ (by simpa using h), by simp⟩

theorem hasStream_of_unplaced {u v : UnitState} (k : Nat) (h : u.unplaced = v.unplaced) : u.hasStream k = v.hasStream k := by
  simp only [UnitState.unplaced, UnitState.mk.injEq, Region.mk.injEq] at h
  have h1 : u.handler.isSome = v.handler.isSome := by
    have := congrArg Option.isSome h.2.2.2.2.2.2.2.2.1
    simpa using this
  have h2 : (u.region.subs[subIdx k]?).isSome = (v.region.subs[subIdx k]?).isSome := by
    have := congrArg (fun l : List SubGroup => (l[subIdx k]?).isSome) h.2.2.2.2.2.2.2.1.2.2.2.2.2.2.2.2
    simpa using this
  simp [UnitState.hasStream, h1, h2]

/-- A stream that exists holds what is written into it. -/
theorem thread_setThread {u : UnitState} {k : Nat} (th : Thread) (h : u.hasStream k) : (u.setThread k th).thread k = th := by
  unfold UnitState.hasStream at h
  unfold UnitState.setThread UnitState.thread
  by_cases h0 : k = 0
  · simp [h0]
  · by_cases h5 : k = 5
    · subst h5
      simp only [Nat.reduceEqDiff, decide_false, if_true, Bool.false_or] at h
      obtain ⟨x, hx⟩ := Option.isSome_iff_exists.1 h
      simp [hx]
    · simp only [h0, h5, decide_false, if_false, Bool.false_or] at h
      obtain ⟨x, hx⟩ := Option.isSome_iff_exists.1 h
      have := (List.getElem?_eq_some_iff.1 hx).1
      simp [h0, h5, this]

theorem thread_modThread {u : UnitState} {k : Nat} (f : Thread → Thread) (h : u.hasStream k) :
    (u.modThread k f).thread k = f (u.thread k) := thread_setThread _ h

/-- Where the stream stands after `leaveClause`. -/
theorem leaveClause_at {s : State} {c : Ctx} (f : Thread → Thread) (h : s.unit? c.u = some c.us) :
    ∃ v, (leaveClause c f s).unit? c.u = some v ∧ v.unplaced = c.us.unplaced ∧
      (c.us.hasStream c.slot → v.thread c.slot = f (c.us.thread c.slot)) := by
  unfold Machine.leaveClause
  exact ⟨_, unit?_modUnit_same (u := c.us) _ (by simpa using h), by simp, fun hs => thread_modThread _ hs⟩

/-- Where the stream stands after `jump`. -/
theorem jump_at {s : State} {c : Ctx} (target : Nat) (h : s.unit? c.u = some c.us) :
    ∃ v, (jump c target s).unit? c.u = some v ∧ AtClause c target v := leaveClause_at _ h

/-- Where the stream stands after `advance`. -/
theorem advance_at {s : State} {c : Ctx} (len : Nat) (h : s.unit? c.u = some c.us) :
    ∃ v, (advance c len s).unit? c.u = some v ∧ AtNext c len v := by
  unfold Machine.advance
  split
  · rename_i ha
    exact ⟨_, unit?_modUnit_same (u := c.us) _ (by simpa using h), rfl, fun _ => ⟨rfl, rfl⟩, by simp [ha]⟩
  · rename_i ha
    dsimp only
    split
    · rename_i hl
      exact ⟨_, unit?_modUnit_same (u := c.us) _ (by simpa using h), by simp, by simp [ha], fun _ hs => by
        rw [thread_modThread _ hs, if_pos hl]⟩
    · rename_i hl
      obtain ⟨v, hv, h1, h2⟩ := leaveClause_at (c := c) Thread.next
        (s := ((s.countCore c.core 0x03 1).countCore c.core 0x04 (vectorPasses c))) (by simpa using h)
      exact ⟨v, hv, h1, by simp [ha], fun _ hs => by rw [h2 hs, if_neg hl]⟩

/-- Where the stream stands after `parkAt`. -/
theorem parkAt_at {s : State} {c : Ctx} (p : Park) (h : s.unit? c.u = some c.us) :
    ∃ v, (parkAt c p s).unit? c.u = some v ∧ ParkedAs c p v := by
  unfold Machine.parkAt
  split
  · rename_i ha
    exact ⟨c.us, by simpa using h, rfl, by simp [ha]⟩
  · exact ⟨_, unit?_modUnit_same (u := c.us) _ (by simpa using h), by simp, fun _ hs => thread_modThread _ hs⟩

/-! ## Registers after a result -/

theorem vreg_setVreg (u : UnitState) (r l q k : Nat) (v : W32) (hl : l < 64) (hk : k < 64) :
    (u.setVreg r l v).vreg q k = if q = r ∧ k = l then v else u.vreg q k := by
  simp only [UnitState.setVreg, UnitState.vreg, tget_tset]
  have : (64 * q + k = 64 * r + l) ↔ (q = r ∧ k = l) := by omega
  simp [this]

theorem vreg_setVwords (ws : List W32) : ∀ (u : UnitState) (r l q k : Nat), l < 64 → k < 64 →
    (u.setVwords r l ws).vreg q k = if k = l ∧ r ≤ q ∧ q < r + ws.length then ws.getD (q - r) 0 else u.vreg q k := by
  induction ws with
  | nil => intro u r l q k _ _; exact (if_neg fun h => absurd h.2.2 (by simp only [List.length_nil]; omega)).symm
  | cons w ws ih =>
    intro u r l q k hl hk
    simp only [UnitState.setVwords, ih _ _ _ _ _ hl hk, vreg_setVreg _ _ _ _ _ _ hl hk, List.length_cons]
    by_cases h1 : k = l ∧ r + 1 ≤ q ∧ q < r + 1 + ws.length
    · rw [if_pos h1, if_pos ⟨h1.1, by omega, by omega⟩]
      obtain ⟨n, rfl⟩ : ∃ n, q = r + (n + 1) := ⟨q - r - 1, by omega⟩
      simp [show r + (n + 1) - (r + 1) = n by omega, show r + (n + 1) - r = n + 1 by omega]
    · rw [if_neg h1]
      by_cases h2 : q = r ∧ k = l
      · obtain ⟨rfl, rfl⟩ := h2; simp
      · rw [if_neg h2, if_neg]; rintro ⟨rfl, h3, h4⟩; exact h1 ⟨rfl, by omega, by omega⟩

theorem setVwords_vregs (ws : List W32) : ∀ (u : UnitState) (r l : Nat) (v : UnitState),
    ({ u.setVwords r l ws with vregs := v.vregs, badRegs := v.badRegs } : UnitState) =
      { u with vregs := v.vregs, badRegs := v.badRegs } := by
  induction ws with
  | nil => intros; rfl
  | cons w ws ih => intro u r l v; simp only [UnitState.setVwords, ih]; rfl

theorem bad_setVwords (ws : List W32) : ∀ (u : UnitState) (r l q k : Nat),
    (q, k) ∈ (u.setVwords r l ws).badRegs ↔ (q, k) ∈ u.badRegs ∧ ¬(k = l ∧ r ≤ q ∧ q < r + ws.length) := by
  induction ws with
  | nil => intro u r l q k; simp [UnitState.setVwords]
  | cons w ws ih =>
    intro u r l q k
    simp only [UnitState.setVwords, ih, UnitState.setVreg, List.mem_filter, List.length_cons]
    simp only [ne_eq, Prod.mk.injEq, decide_eq_true_eq]
    by_cases hm : (q, k) ∈ u.badRegs <;> simp only [hm, true_and, false_and] <;> omega

/-- The registers after every lane of a list has had its words written. -/
theorem vreg_foldl_setVwords (w : Nat → List W32) (d : Nat) : ∀ (ls : List Nat) (u : UnitState) (q k : Nat),
    (∀ l ∈ ls, l < 64) → k < 64 →
    (ls.foldl (fun u l => u.setVwords d l (w l)) u).vreg q k =
      if k ∈ ls ∧ d ≤ q ∧ q < d + (w k).length then (w k).getD (q - d) 0 else u.vreg q k := by
  intro ls
  induction ls with
  | nil => intro u q k _ _; simp
  | cons l ls ih =>
    intro u q k h hk
    rw [List.foldl_cons, ih _ _ _ (fun x hx => h x (List.mem_cons_of_mem _ hx)) hk,
      vreg_setVwords _ _ _ _ _ _ (h l List.mem_cons_self) hk]
    by_cases hkl : k = l
    · subst hkl; simp; grind
    · simp [hkl]

theorem foldl_setVwords_vregs (w : Nat → List W32) (d : Nat) (v : UnitState) : ∀ (ls : List Nat) (u : UnitState),
    ({ ls.foldl (fun u l => u.setVwords d l (w l)) u with vregs := v.vregs, badRegs := v.badRegs } : UnitState) =
      { u with vregs := v.vregs, badRegs := v.badRegs } := by
  intro ls
  induction ls with
  | nil => intros; rfl
  | cons l ls ih => intro u; rw [List.foldl_cons, ih, setVwords_vregs]

theorem bad_foldl_setVwords (w : Nat → List W32) (d : Nat) : ∀ (ls : List Nat) (u : UnitState) (q k : Nat),
    (q, k) ∈ (ls.foldl (fun u l => u.setVwords d l (w l)) u).badRegs ↔
      (q, k) ∈ u.badRegs ∧ ¬(k ∈ ls ∧ d ≤ q ∧ q < d + (w k).length) := by
  intro ls
  induction ls with
  | nil => intro u q k; simp
  | cons l ls ih =>
    intro u q k
    rw [List.foldl_cons, ih, bad_setVwords, List.mem_cons]
    by_cases h : k = l
    · subst h; simp; grind
    · simp [h]

/-- Every lane of a context's mask lies below 64. -/
theorem lanes_lt {c : Ctx} {l : Nat} (h : l ∈ c.lanes) : l < 64 := by
  simp only [Ctx.lanes, lanesOf, List.mem_filter] at h
  exact Nat.lt_of_not_le fun hl => by simp [BitVec.getLsbD_of_ge _ _ hl] at h

theorem lanesOf_lt {w : Nat} {m : W64} {l : Nat} (h : l ∈ lanesOf w m) : l < 64 := by
  simp only [lanesOf, List.mem_filter] at h
  exact Nat.lt_of_not_le fun hl => by simp [BitVec.getLsbD_of_ge _ _ hl] at h

theorem VecWritten.of_unplaced {v u u' : UnitState} {ls : List Nat} {d : Nat} {w : Nat → List W32}
    (h : VecWritten v ls d w u) (e : u'.unplaced = u.unplaced) : VecWritten v ls d w u' := by
  have f := fields_of_unplaced e
  refine ⟨?_, fun r l hl => ?_, fun r l => ?_⟩
  · rw [← h.1]
    have := congrArg (fun x : UnitState => { x with vregs := v.vregs, badRegs := v.badRegs }) e
    exact this
  · rw [← h.2.1 r l hl]; simp [UnitState.vreg, f.1]
  · rw [bad_of_unplaced e]; exact h.2.2 r l

theorem SclWritten.of_unplaced {v u u' : UnitState} {d : Nat} {x : W64}
    (h : SclWritten v d x u) (e : u'.unplaced = u.unplaced) : SclWritten v d x u' := by
  have f := fields_of_unplaced e
  refine ⟨?_, fun r => ?_, fun b => ?_⟩
  · rw [← h.1]
    have := congrArg (fun x : UnitState => { x with sregs := v.sregs, badRegs := v.badRegs }) e
    exact this
  · rw [← h.2.1 r]; simp [UnitState.sreg, f.2.1]
  · rw [bad_of_unplaced e]; exact h.2.2 b

/-- A result of several words per lane. -/
theorem writeVs_unit {s : State} {c : Ctx} {u : UnitState} (d : BitVec 9) (w : Nat → List W32) (h : s.unit? c.u = some u) :
    ∃ v, (writeVs c d w s).unit? c.u = some v ∧ VecWritten u c.lanes d.toNat w v := by
  unfold Machine.writeVs
  refine ⟨_, unit?_modUnit_same _ h, ?_, fun r l hl => ?_, fun r l => bad_foldl_setVwords w _ _ _ _ _⟩
  · rw [foldl_setVwords_vregs]
  · exact vreg_foldl_setVwords w _ _ _ _ _ (fun _ h => lanes_lt h) hl

theorem writeV_eq (c : Ctx) (d : BitVec 9) (f : Nat → W32) (s : State) :
    writeV c d f s = writeVs c d (fun l => [f l]) s := rfl

/-- A result in a scalar or caller register. -/
theorem writeS_unit {s : State} {c : Ctx} {u : UnitState} (d : BitVec 9) (x : W64) (h : s.unit? c.u = some u) :
    ∃ v, (writeS c d x s).unit? c.u = some v ∧ SclWritten u (d.toNat - 0x100) x v := by
  unfold Machine.writeS
  refine ⟨_, unit?_modUnit_same _ h, rfl, fun r => ?_, fun b => ?_⟩
  · simp [UnitState.sreg, UnitState.setSreg, tget_tset]
  · simp [UnitState.setSreg, List.mem_filter]

end Sys2Proof.Machine
end

