-- ==== Sys2Proof/Laws/Issue.lean ====
section
/-! SUPPORT. Laws of issue (R283): what `issue` answers at each outcome of the gate, and what is known of the context. -/

namespace Sys2Proof.Machine

/-- Everything `issue` can answer. -/
theorem issue_eq {i : Instr} {e : Enc} {s : State} {c : Ctx} (body : Ctx → State → State) (h : mkCtx s i e.mask = some c) :
    issue i e s body = .next (issueAct c e s body) := by
  simp only [issue, h]

/-- `issue` never refuses, and stops only where no unit is focused. -/
theorem issue_cases (i : Instr) (e : Enc) (s : State) (body : Ctx → State → State) :
    (mkCtx s i e.mask = none ∧ issue i e s body = .fault .noUnit) ∨
    ∃ c, mkCtx s i e.mask = some c ∧ issue i e s body = .next (issueAct c e s body) := by
  cases h : mkCtx s i e.mask with
  | none => exact .inl ⟨rfl, by simp only [issue, h]⟩
  | some c => exact .inr ⟨c, rfl, issue_eq body h⟩

theorem issued_eq {i : Instr} {s : State} {c : Ctx} {s0 : State} (h : issued i s = some (c, s0)) :
    ∃ e, entryOf i = some e ∧ mkCtx s i e.mask = some c ∧ gate c e = .go ∧
      s0 = entryState c e s := by
  unfold issued at h
  split at h
  · cases h
  · rename_i e he
    split at h
    · cases h
    · rename_i c' hc
      split at h
      · rename_i hg
        simp only [Option.some.injEq, Prod.mk.injEq] at h
        obtain ⟨rfl, rfl⟩ := h
        exact ⟨e, he, hc, hg, rfl⟩
      · cases h

/-- An instruction that R283 lets through acts. -/
theorem issue_go {i : Instr} {e : Enc} {s s0 : State} {c : Ctx} (body : Ctx → State → State)
    (h : issued i s = some (c, s0)) (he : entryOf i = some e) : issue i e s body = .next (body c s0) := by
  obtain ⟨e', he', hc, hg, rfl⟩ := issued_eq h
  rw [he] at he'; cases he'
  rw [issue_eq body hc]; simp only [issueAct, hg]

/-- What an instruction that R283 lets through meets: the conditions of its entry, its stream, and its width. -/
theorem issued_legal {i : Instr} {e : Enc} {s s0 : State} {c : Ctx} (h : issued i s = some (c, s0)) (he : entryOf i = some e) :
    e.ok = true ∧ (c.caller = true → e.cal = true ∧ e.mask = 0) ∧ (c.caller = false → e.grp = true) ∧
      (e.hdl = true → c.inHandler = true) ∧ e.minW ≤ c.w ∧ (e.uses.all (·.legal c.caller)) = true ∧
      (c.em ≠ 0 ∨ e.whole = true ∧ c.inHandler = true) := by
  obtain ⟨e', he', _, hg, _⟩ := issued_eq h
  rw [he] at he'; cases he'
  unfold gate at hg
  split at hg
  · cases hg
  · rename_i hl
    split at hg
    · cases hg
    · split at hg
      · cases hg
      · split at hg
        · cases hg
        · rename_i hm
          have hl : encLegal c e = true := by simpa using hl
          simp only [encLegal, Bool.and_eq_true, decide_eq_true_eq, Bool.or_eq_true] at hl
          obtain ⟨⟨⟨⟨h1, h2⟩, h3⟩, h4⟩, h5⟩ := hl
          refine ⟨h1, fun hc => by simpa [hc] using h2, fun hc => by simpa [hc] using h2, fun hh => ?_, h4, h5, ?_⟩
          · rcases h3 with h3 | h3
            · simp [hh] at h3
            · exact h3
          · by_cases h0 : c.em = 0
            · exact .inr (by simpa [h0] using hm)
            · exact .inl h0

/-- Every row that R283 governs is issued: its meaning is one body under the shared gate. -/
theorem exec_issue (i : Instr) (e : Enc) (h : entryOf i = some e) :
    ∃ body, ∀ s, exec i s = issue i e s body := by
  cases i
  all_goals try cases h
  all_goals exact ⟨_, fun _ => rfl⟩

/-- An instruction with an entry never refuses, and stops only where no unit is focused. -/
theorem exec_cases (i : Instr) (e : Enc) (h : entryOf i = some e) (s : State) :
    (mkCtx s i e.mask = none ∧ exec i s = .fault .noUnit) ∨ ∃ t, exec i s = .next t := by
  obtain ⟨body, hb⟩ := exec_issue i e h
  rw [hb s]
  rcases issue_cases i e s body with h | ⟨c, _, h⟩
  · exact .inl h
  · exact .inr ⟨_, h⟩

/-! ## The passage of cycles -/

theorem tfind_map {α : Type} (g : Nat → α → α) : ∀ (t : Table α) (k : Nat),
    tfind (t.map fun p => (p.1, g p.1 p.2)) k = (tfind t k).map (g k)
  | [], _ => rfl
  | (j, v) :: t, k => by
    by_cases h : j = k
    · subst h; simp [tfind]
    · simp [tfind, h, tfind_map g t k]

theorem team?_elapseOn (s : State) (core n id : Nat) : (s.elapseOn core n).team? id =
    if s.coreClocked core then (s.team? id).map (Team.aged core n) else s.team? id := by
  unfold State.elapseOn
  cases hc : s.coreClocked core with
  | false => rfl
  | true =>
    simp only [Bool.not_true, Bool.false_eq_true, if_false, if_true]
    simp only [State.team?, tfind_map fun _ (t : Team) => t.aged core n, modCore_fields, countCore_fields, State.addCycles]

theorem Team.unit?_aged (core n : Nat) (t : Team) (g : Option Nat) : (t.aged core n).unit? g = t.unit? g := by
  unfold Team.aged; split <;> rfl

theorem unit?_elapseOn (s : State) (core n : Nat) (r : UnitRef) : (s.elapseOn core n).unit? r = s.unit? r := by
  unfold State.unit?
  rw [team?_elapseOn]
  split
  · cases s.team? r.team <;> simp [Team.unit?_aged]
  · rfl

theorem unit?_elapse (s : State) (core n : Nat) (r : UnitRef) : (s.elapse core n).unit? r = s.unit? r := by
  unfold State.elapse; rw [unit?_elapseOn, unit?_elapseOn]

theorem unit?_passCycles (s : State) (core : Nat) (r : UnitRef) : (s.passCycles core).unit? r = s.unit? r := by
  unfold State.passCycles State.draw
  rw [unit?_elapse]; rfl

/-! ## What is known of the context of an instruction that is let through -/

theorem mkCtx_unit {s : State} {i : Instr} {m : BitVec 7} {c : Ctx} (h : mkCtx s i m = some c) :
    s.unit? c.u = some c.us ∧ s.team? c.u.team = some c.team ∧ s.launch? c.team.launch = some c.launch ∧
      c.core = c.us.core ∧ c.caller = c.u.grp.isNone ∧ s.focus = some ⟨c.u, c.slot⟩ := by
  unfold mkCtx at h
  split at h
  · cases h
  · rename_i f hf
    split at h
    · rename_i t us ht hu
      split at h
      · cases h
      · rename_i l hl
        simp only [Option.some.injEq] at h
        subst h
        exact ⟨hu, ht, hl, rfl, rfl, hf⟩
    · cases h

theorem issued_unit {i : Instr} {s s0 : State} {c : Ctx} (h : issued i s = some (c, s0)) : s0.unit? c.u = some c.us := by
  obtain ⟨e, _, hc, _, rfl⟩ := issued_eq h
  unfold entryState
  split
  · rw [unit?_passCycles]; exact (mkCtx_unit hc).1
  · exact (mkCtx_unit hc).1

/-! ## Shapes of a completion -/

theorem UnitStep.of_next {i : Instr} {s s0 t : State} {c : Ctx} {p : UnitState → Prop} {u : UnitState}
    (h : exec i s = .next t) (ho : OnlyUnit c.u s0 t) (hu : t.unit? c.u = some u) (hp : p u) : UnitStep i s s0 c p :=
  ⟨t, u, h, ho, hu, hp⟩

/-- A result of several words per lane, and the next instruction. -/
theorem unitStep_writeVs {i : Instr} {s s0 : State} {c : Ctx} {len : Nat} {d : BitVec 9} {w : Nat → List W32}
    (hi : issued i s = some (c, s0)) (h : exec i s = .next (advance c len (writeVs c d w s0))) :
    UnitStep i s s0 c (VecWritten c.us c.lanes d.toNat w) := by
  obtain ⟨v, hv, hw⟩ := writeVs_unit d w (issued_unit hi)
  obtain ⟨u, hu, he⟩ := advance_unit len hv
  exact ⟨_, u, h, (OnlyUnit.writeVs ..).trans (.advance ..), hu, hw.of_unplaced he⟩

/-- A result in a scalar or caller register, and the next instruction. -/
theorem unitStep_writeS {i : Instr} {s s0 : State} {c : Ctx} {len : Nat} {d : BitVec 9} {x : W64}
    (hi : issued i s = some (c, s0)) (h : exec i s = .next (advance c len (writeS c d x s0))) :
    UnitStep i s s0 c (SclWritten c.us (d.toNat - 0x100) x) := by
  obtain ⟨v, hv, hw⟩ := writeS_unit d x (issued_unit hi)
  obtain ⟨u, hu, he⟩ := advance_unit len hv
  exact ⟨_, u, h, (OnlyUnit.writeS ..).trans (.advance ..), hu, hw.of_unplaced he⟩

/-- The next instruction alone. -/
theorem unitStep_advance {i : Instr} {s s0 : State} {c : Ctx} {len : Nat}
    (hi : issued i s = some (c, s0)) (h : exec i s = .next (advance c len s0)) :
    UnitStep i s s0 c (fun u => u.unplaced = c.us.unplaced) := by
  obtain ⟨u, hu, he⟩ := advance_unit len (issued_unit hi)
  exact ⟨_, u, h, .advance .., hu, he⟩

/-- Another clause. -/
theorem unitStep_jump {i : Instr} {s s0 : State} {c : Ctx} {target : Nat}
    (hi : issued i s = some (c, s0)) (h : exec i s = .next (jump c target s0)) :
    UnitStep i s s0 c (fun u => u.unplaced = c.us.unplaced) := by
  obtain ⟨u, hu, he⟩ := jump_unit target (issued_unit hi)
  exact ⟨_, u, h, .jump .., hu, he⟩

/-- An effect outside the unit or on other parts of it, and the next instruction. -/
theorem unitStep_of {i : Instr} {s s1 t : State} {c : Ctx} {v : UnitState} {p : UnitState → Prop} {len : Nat}
    (h : exec i s = .next (advance c len t)) (ho : OnlyUnit c.u s1 t) (hv : t.unit? c.u = some v)
    (hp : ∀ u, u.unplaced = v.unplaced → p u) : UnitStep i s s1 c p := by
  obtain ⟨u, hu, he⟩ := advance_unit len hv
  exact ⟨_, u, h, ho.trans (.advance ..), hu, hp u he⟩

/-! ## Results of floating-point codes (R183, R344) -/

theorem tget_map_mem {α : Type} (d : α) (g : Nat → α) : ∀ (ls : List Nat) (l : Nat), l ∈ ls →
    tget d (ls.map fun l => (l, g l)) l = g l
  | [], l, h => by cases h
  | k :: ls, l, h => by
    by_cases hk : k = l
    · subst hk; simp [tget, tfind]
    · have : l ∈ ls := by simpa [Ne.symm hk] using h
      simpa [tget, tfind, hk] using tget_map_mem d g ls l this

theorem VecWritten.congr {v u : UnitState} {ls : List Nat} {d : Nat} {w w' : Nat → List W32}
    (h : VecWritten v ls d w u) (e : ∀ l ∈ ls, w l = w' l) : VecWritten v ls d w' u := by
  refine ⟨h.1, fun r l hl => ?_, fun r l => ?_⟩
  · rw [h.2.1 r l hl]
    by_cases hm : l ∈ ls
    · simp [hm, e l hm]
    · simp [hm]
  · rw [h.2.2 r l]
    by_cases hm : l ∈ ls
    · simp [hm, e l hm]
    · simp [hm]

/-- Everything `finishFloat` does. -/
theorem floatStep {i : Instr} {s s0 : State} {c : Ctx} {e : Enc} {d : BitVec 9} {codes : Nat → List (Fmt × Nat)}
    {words : List Nat → List W32} (hi : issued i s = some (c, s0))
    (h : exec i s = .next (finishFloat c e d codes (fun _ => words) s0)) : FloatStep i s s0 c d codes words := by
  constructor
  · intro hp
    have hn : ((c.lanes.map fun l => (l, codes l)).any fun p => p.2.any fun q => traps c.launch.nfpol q.1 q.2) = false := by
      simp only [List.any_map, List.any_eq_false, Function.comp_apply, List.any_eq_true, not_exists, not_and, Bool.not_eq_true]
      exact hp
    rw [finishFloat, hn] at h
    obtain ⟨t, u, ht, ho, hu, hw⟩ := unitStep_writeVs hi h
    refine ⟨t, u, ht, ho, hu, hw.congr fun l hl => ?_⟩
    have : (List.map (fun p : Nat × List (Fmt × Nat) => (p.1, p.2.map fun q => policy c.launch.nfpol q.1 q.2))
        (c.lanes.map fun l => (l, codes l))) = c.lanes.map fun l => (l, (codes l).map fun q => policy c.launch.nfpol q.1 q.2) := by
      simp
    rw [this, tget_map_mem _ _ _ _ hl]
  · rintro ⟨l, hl, q, hq, ht⟩
    have hn : ((c.lanes.map fun l => (l, codes l)).any fun p => p.2.any fun q => traps c.launch.nfpol q.1 q.2) = true := by
      simp only [List.any_map, List.any_eq_true, Function.comp_apply]
      exact ⟨l, hl, q, hq, ht⟩
    rw [h, finishFloat, hn]; rfl

end Sys2Proof.Machine
end

