-- ==== Sys2Proof/Laws/Memory.lean ====
section
/-! SUPPORT. Laws of the memory: every operation that can write a byte of HBM keeps the canonical form, and the memory
of the machine at reset has it. -/

namespace Sys2Proof.Machine

theorem reset_memOk : State.reset.memOk := twf_nil (0 : Byte)

/-- What leaves HBM as it is keeps the canonical form. -/
theorem State.memOk.of_hbm {s t : State} (h : s.memOk) (e : t.mem.hbm = s.mem.hbm) : t.memOk := by
  unfold State.memOk at *; rw [e]; exact h

/-- A fold of steps that keep the canonical form keeps it. -/
theorem memOk_foldl {β : Type} (f : State → β → State) (hf : ∀ s b, s.memOk → (f s b).memOk) :
    ∀ (l : List β) (s : State), s.memOk → (l.foldl f s).memOk
  | [], _, h => h
  | b :: l, s, h => memOk_foldl f hf l (f s b) (hf s b h)

/-! ## Operations that do not reach HBM -/

theorem noteBit_mem (s : State) (c b : Nat) : (s.noteBit c b).mem = s.mem := by
  unfold State.noteBit State.modContext State.setContext; rfl

theorem noteAddr_mem (s : State) (c a : Nat) : (s.noteAddr c a).mem = s.mem := by
  unfold State.noteAddr State.modContext State.setContext; rfl

theorem hbm_contain (s : State) (c a : Nat) : (s.contain c a).mem.hbm = s.mem.hbm := rfl

theorem hbm_foldl {β : Type} (f : State → β → State) (hf : ∀ s b, (f s b).mem.hbm = s.mem.hbm) :
    ∀ (l : List β) (s : State), (l.foldl f s).mem.hbm = s.mem.hbm
  | [], _ => rfl
  | b :: l, s => (hbm_foldl f hf l (f s b)).trans (hf s b)

theorem hbm_countSlice (s : State) (h tag ev : Nat) : (s.countSlice h tag ev).mem.hbm = s.mem.hbm := by
  unfold State.countSlice
  apply hbm_foldl
  intro s k
  split <;> rfl

theorem State.memOk.countSlice {s : State} (hs : s.memOk) (h tag ev : Nat) : (s.countSlice h tag ev).memOk :=
  hs.of_hbm (hbm_countSlice ..)

theorem modCore_mem (s : State) (c : Nat) (f : Core → Core) : (s.modCore c f).mem = s.mem := by
  unfold State.modCore State.setCore; rfl

theorem State.memOk.modCore {s : State} (hs : s.memOk) (c : Nat) (f : Core → Core) : (s.modCore c f).memOk :=
  hs.of_hbm (by rw [modCore_mem])

theorem State.memOk.countHome {s : State} (hs : s.memOk) (ia tag ev : Nat) : (s.countHome ia tag ev).memOk := by
  unfold State.countHome
  split
  · exact hs.countSlice ..
  · exact hs

theorem State.memOk.noteInvalid {s : State} (hs : s.memOk) (ia : Nat) : (noteInvalid s ia).memOk := by
  unfold Machine.noteInvalid
  dsimp only
  split
  · exact hs.of_hbm (by rw [noteAddr_mem, noteBit_mem])
  · exact hs

theorem State.memOk.countCore {s : State} (hs : s.memOk) (c e n : Nat) : (s.countCore c e n).memOk :=
  hs.of_hbm (by unfold State.countCore; rw [modCore_mem])

theorem hbm_splitBig (s : State) (page : Nat) : (splitBig s page).mem.hbm = s.mem.hbm := by
  unfold splitBig
  split
  · dsimp only
    apply hbm_foldl
    intro s k
    unfold State.setPte
    rfl
  · rfl

theorem State.memOk.setL1 {s : State} (hs : s.memOk) (c line : Nat) (l : L1Line) : (s.setL1 c line l).memOk := hs.modCore ..

theorem State.memOk.clearBadLine {s : State} (hs : s.memOk) (c line : Nat) : (s.clearBadLine c line).memOk := by
  apply hs.of_hbm; unfold State.clearBadLine; rfl

theorem State.memOk.delL1 {s : State} (hs : s.memOk) (c line : Nat) : (s.delL1 c line).memOk :=
  State.memOk.clearBadLine (hs.modCore c _) c line

theorem State.memOk.setMsc {s : State} (hs : s.memOk) (line : Nat) (l : MscLine) : (s.setMsc line l).memOk := by
  apply hs.of_hbm; unfold State.setMsc; rfl

theorem State.memOk.delMsc {s : State} (hs : s.memOk) (line : Nat) : (s.delMsc line).memOk := by
  apply hs.of_hbm; unfold State.delMsc; rfl

theorem State.memOk.setPte {s : State} (hs : s.memOk) (page : Nat) (e : W64) : (s.setPte page e).memOk := by
  apply hs.of_hbm; unfold State.setPte; rfl

theorem State.memOk.splitBig {s : State} (hs : s.memOk) (page : Nat) : (splitBig s page).memOk := hs.of_hbm (hbm_splitBig ..)

theorem State.memOk.retirePage {s : State} (hs : s.memOk) (ia : Nat) : (retirePage s ia).memOk := by
  unfold Machine.retirePage
  dsimp only
  exact ((hs.splitBig _).setPte (pageOf ia) _).of_hbm (hbm_contain ..)

theorem State.memOk.nextId {s : State} (hs : s.memOk) (n : Nat) : State.memOk { s with nextId := n } := by
  apply hs.of_hbm; rfl

theorem State.memOk.dirDrop {s : State} (hs : s.memOk) (c line : Nat) (own : Bool) : (dirDrop s c line own).memOk := by
  apply hs.of_hbm; unfold Machine.dirDrop; rfl

theorem State.memOk.acquireL1 {s : State} (hs : s.memOk) (c : Nat) : (acquireL1 s c).memOk := by
  apply hs.of_hbm; unfold Machine.acquireL1; dsimp only; rw [modCore_mem]

/-! ## The bytes of HBM -/

theorem State.memOk.hbmSet {s : State} (hs : s.memOk) (p : Nat) (b : Byte) : (hbmSet s p b).memOk := twf_tset p b hs

/-- A byte written reads back, and every other byte reads as before. -/
theorem hbmByte_hbmSet (s : State) (p q : Nat) (b : Byte) :
    hbmByte (hbmSet s p b) q = if q = p then b else hbmByte s q := by
  simp [hbmByte, hbmSet, tget_tset]

theorem State.memOk.frameSet {s : State} (hs : s.memOk) (ia : Nat) (b : Byte) : (frameSet s ia b).memOk := by
  unfold Machine.frameSet
  dsimp only
  exact State.memOk.of_hbm (hs.hbmSet _ b) rfl

theorem State.memOk.clearFrame {s : State} (hs : s.memOk) (frame : Nat) (keep : List Nat) : (clearFrame s frame keep).memOk :=
  twf_filter _ hs

theorem State.memOk.zeroFrame {s : State} (hs : s.memOk) (frame : Nat) : (zeroFrame s frame).memOk := twf_filter _ hs

theorem State.memOk.copyFrame {s : State} (hs : s.memOk) (old new : Nat) (keep : List Nat) : (copyFrame s old new keep).memOk :=
  memOk_foldl _ (fun _ _ h => h.hbmSet ..) _ _ (hs.clearFrame new keep)

theorem State.memOk.fillFrame {s : State} (hs : s.memOk) (frame : Nat) (bs : Bytes) (keep : List Nat) :
    (fillFrame s frame bs keep).memOk :=
  memOk_foldl _ (fun _ _ h => by
    split
    · exact h
    · exact h.hbmSet ..) _ _ (hs.clearFrame frame keep)

/-! ## The memory-side cache -/

theorem State.memOk.mscClean {s : State} (hs : s.memOk) (line : Nat) : (mscClean s line).memOk := by
  have fold (l : MscLine) : ∀ (r : List Nat) (t : State), t.memOk → (r.foldl (fun s i =>
      if l.dirty.getLsbD i then Machine.frameSet s (128 * line + i) (lineByte l.data i) else s) t).memOk :=
    memOk_foldl _ fun s i h => by
      split
      · exact h.frameSet ..
      · exact h
  unfold Machine.mscClean
  split
  · exact hs
  · rename_i l _
    split
    · exact hs
    · split
      · exact (hs.retirePage (128 * line)).delMsc line
      · split
        · exact ((fold l (List.range 128) _ hs).setMsc _ _).countSlice _ _ _
        · exact (fold l (List.range 128) _ hs).setMsc _ _

theorem State.memOk.dropStale {s : State} (hs : s.memOk) (line : Nat) : (dropStale s line).memOk := by
  unfold Machine.dropStale
  split
  · split
    · exact (hs.setMsc line _).of_hbm rfl
    · exact hs
  · exact hs

theorem memOk_mscWay {s t : State} {line tag w : Nat} (hs : s.memOk) (h : mscWay s line tag = some (w, t)) : t.memOk := by
  unfold mscWay at h
  dsimp only at h
  repeat' split at h
  all_goals first
    | cases h; exact hs
    | cases h; exact (hs.mscClean _).delMsc _
    | cases h

theorem State.memOk.mscAlloc {s : State} (hs : s.memOk) (line hint tag : Nat) : (mscAlloc s line hint tag).memOk := by
  unfold Machine.mscAlloc
  dsimp only
  have h0 := (hs.nextId (s.nextId + 1)).dropStale line
  split
  · exact h0.setMsc ..
  · split
    · rename_i w t hw
      have ht : t.memOk := memOk_mscWay h0 hw
      split
      · exact (ht.setMsc ..).countSlice ..
      · exact ht.setMsc ..
    · exact h0

theorem State.memOk.mscFill {s : State} (hs : s.memOk) (ia hint tag : Nat) : (mscFill s ia hint tag).memOk := by
  unfold Machine.mscFill
  dsimp only
  have h0 : (if sectorMiss s ia then s.countHome ia tag 0x03 else s).memOk := by
    split
    · exact hs.countHome ..
    · exact hs
  have h := h0.mscAlloc (lineOf ia) hint tag
  generalize Machine.mscAlloc _ (lineOf ia) hint tag = t at h ⊢
  split
  · exact h
  · split
    · exact h
    · exact h.setMsc ..

theorem State.memOk.mscPut {s : State} (hs : s.memOk) (ia tag : Nat) (bs : Bytes) : (mscPut s ia tag bs).memOk := by
  unfold Machine.mscPut
  apply memOk_foldl _ _ _ _ hs
  intro s i h
  dsimp only
  have h1 : (if (ia + i) % 128 = 0 || i = 0 then Machine.mscAlloc s (lineOf (ia + i)) 0 tag else s).memOk := by
    split
    · exact h.mscAlloc ..
    · exact h
  split
  · exact h1.setMsc ..
  · exact h1.frameSet ..

theorem State.memOk.notifySeen {s : State} (hs : s.memOk) (ia : Nat) : (notifySeen s ia).memOk := by
  unfold Machine.notifySeen
  dsimp only
  split
  · apply hs.of_hbm; rfl
  · exact hs

theorem State.memOk.mscWrite {s : State} (hs : s.memOk) (ia tag : Nat) (bs : Bytes) : (mscWrite s ia tag bs).memOk := by
  unfold Machine.mscWrite
  split
  · exact hs
  · exact (hs.mscPut ia tag bs).notifySeen ia

theorem State.memOk.cleanPage {s : State} (hs : s.memOk) (page : Nat) : (cleanPage s page).memOk :=
  memOk_foldl (fun s l => (Machine.mscClean s l).delMsc l) (fun _ l h => (h.mscClean l).delMsc l) _ _ hs

/-! ## Write-backs and recalls -/

theorem State.memOk.mergeBytes {s : State} (hs : s.memOk) (c line : Nat) : (mergeBytes s c line).memOk := by
  unfold Machine.mergeBytes
  split
  · exact hs
  · rename_i l _
    split
    · exact hs
    · dsimp only
      have hc := hs.setL1 c line { l with dirty := 0 }
      split
      · exact (hs.retirePage (128 * line)).delL1 c line
      · split
        · exact hc
        · have hf (t : State) (ht : t.memOk) : ((List.range 128).foldl (fun s i => if l.dirty.getLsbD i
              then Machine.mscPut s (128 * line + i) (s.coreTag c) [lineByte l.data i] else s) t).memOk := by
            apply memOk_foldl _ _ _ _ ht
            intro s i h
            split
            · exact h.mscPut ..
            · exact h
          have hn (t : State) (ht : t.memOk) (b : Prop) [Decidable b] :
              (if b then t else Machine.notifySeen t (128 * line)).memOk := by
            split
            · exact ht
            · exact ht.notifySeen _
          split
          · split
            · exact (hn _ (hf _ hc) _).countSlice ..
            · exact hn _ (hf _ hc) _
          · split
            · exact (hn _ (hf _ hc) _).countSlice ..
            · exact hn _ (hf _ hc) _
          · apply hc.of_hbm
            rw [noteAddr_mem, noteBit_mem, hbm_contain]
            unfold Machine.noteInvalid
            dsimp only
            split
            · rw [noteAddr_mem, noteBit_mem]
            · rfl

theorem memOk_promoteBy {merge : State → Nat → Nat → State} (hm : ∀ s c l, s.memOk → (merge s c l).memOk) {s : State}
    (hs : s.memOk) (c : Nat) : (promoteBy merge s c).memOk := by
  unfold promoteBy
  dsimp only
  apply State.memOk.modCore
  apply (memOk_foldl _ (fun s l h => hm s c l h) _ _ (memOk_foldl _ (fun s l h => hm s c l h) _ _ hs)).of_hbm
  rfl

theorem memOk_recallBy {merge : State → Nat → Nat → State} (hm : ∀ s c l, s.memOk → (merge s c l).memOk) {s : State}
    (hs : s.memOk) (line : Nat) (except : Option Nat) : (recallBy merge s line except).memOk := by
  unfold recallBy
  split
  · exact hs
  · rename_i k _
    dsimp only
    have h0 (b : Bool) : (if b then promoteBy merge s k else merge s k line).memOk := by
      split
      · exact memOk_promoteBy hm hs k
      · exact hm _ _ _ hs
    have h1 (t : State) (ht : t.memOk) : (match t.l1? k line with
        | some l => t.setL1 k line { l with owned := false, localAtom := false }
        | none => t).memOk := by
      split
      · exact ht.setL1 ..
      · exact ht
    split
    · exact (h1 _ ((h0 _).dirDrop ..)).countSlice ..
    · exact h1 _ ((h0 _).dirDrop ..)

theorem memOk_mergeChain (n : Nat) : ∀ (s : State) (c line : Nat), s.memOk → (mergeChain n s c line).memOk := by
  induction n with
  | zero => intro s c line hs; exact hs.mergeBytes c line
  | succ n ih =>
    intro s c line hs
    unfold mergeChain
    apply State.memOk.mergeBytes
    have h := memOk_recallBy ih hs line (some c)
    split
    · split
      · exact h
      · exact hs
    · split
      · exact h
      · exact hs

theorem State.memOk.mergeLine {s : State} (hs : s.memOk) (c line : Nat) : (mergeLine s c line).memOk :=
  memOk_mergeChain 128 s c line hs

theorem State.memOk.promoteCore {s : State} (hs : s.memOk) (c : Nat) : (promoteCore s c).memOk :=
  memOk_promoteBy (fun _ c l h => h.mergeLine c l) hs c

theorem State.memOk.recallLine {s : State} (hs : s.memOk) (line : Nat) (except : Option Nat) :
    (recallLine s line except).memOk :=
  memOk_recallBy (fun _ c l h => h.mergeLine c l) hs line except

theorem State.memOk.writebackLine {s : State} (hs : s.memOk) (c line : Nat) : (writebackLine s c line).memOk := by
  unfold Machine.writebackLine
  split
  · split
    · exact hs.promoteCore c
    · exact hs.mergeLine c line
  · exact hs

theorem State.memOk.dirAdd {s : State} (hs : s.memOk) (e : DirEntry) : (dirAdd s e).memOk := by
  unfold Machine.dirAdd
  split
  · exact hs
  · dsimp only
    have key (t : State) (ht : t.memOk) : State.memOk { t with mem := { t.mem with dir := t.mem.dir ++ [e] } } := by
      apply ht.of_hbm; rfl
    apply key
    split
    · split
      · split
        · exact hs.recallLine ..
        · exact hs.promoteCore _
      · exact hs
    · exact hs

theorem State.memOk.evictL1 {s : State} (hs : s.memOk) (c line : Nat) : (evictL1 s c line).memOk :=
  ((hs.writebackLine c line).dirDrop ..).delL1 ..

theorem State.memOk.writebackAll {s : State} (hs : s.memOk) (c : Nat) : (writebackAll s c).memOk := by
  unfold Machine.writebackAll
  dsimp only
  split
  · exact hs.promoteCore c
  · exact memOk_foldl _ (fun _ l h => h.mergeLine c l) _ _ hs

theorem State.memOk.promoteFor {s : State} (hs : s.memOk) (line : Nat) (cs : List Nat) (except : Option Nat) :
    (promoteFor s line cs except).memOk :=
  memOk_foldl _ (fun _ e h => h.promoteCore e.core) _ _ hs

/-! ## Accesses of cores and of other agents -/

theorem State.memOk.l1Alloc {s : State} (hs : s.memOk) (c line hint : Nat) : (l1Alloc s c line hint).memOk := by
  unfold Machine.l1Alloc
  dsimp only
  have h0 := hs.nextId (s.nextId + 1)
  split
  · exact h0.setL1 ..
  · apply State.memOk.setL1
    split
    · split
      · exact h0.evictL1 c _
      · exact h0
    · exact h0

theorem State.memOk.l1Miss {s : State} (hs : s.memOk) (c ia hint : Nat) : (l1Miss s c ia hint).memOk := by
  unfold Machine.l1Miss
  exact State.memOk.mscFill (State.memOk.countHome ((hs.countCore ..).recallLine _ _) _ _ _) _ _ _

theorem State.memOk.l1Fill {s : State} (hs : s.memOk) (c ia hint : Nat) : (l1Fill s c ia hint).memOk := by
  unfold Machine.l1Fill
  dsimp only
  have h := hs.l1Miss c ia hint
  split
  · exact h
  · split
    · exact h.l1Alloc ..
    · exact (h.l1Alloc ..).setL1 ..

theorem State.memOk.dropBadLine {s : State} (hs : s.memOk) (c line : Nat) : (dropBadLine s c line).memOk := by
  unfold Machine.dropBadLine
  split
  · split
    · split
      · exact State.memOk.clearBadLine (hs.setL1 c line _) c line
      · exact hs
    · exact hs
  · exact hs

theorem State.memOk.coreRead {s : State} (hs : s.memOk) (c ia n hint : Nat) : (coreRead s c ia n hint).2.memOk := by
  unfold Machine.coreRead
  dsimp only
  have h0 := hs.dropBadLine c (lineOf ia)
  split
  · exact h0.l1Alloc ..
  · apply memOk_foldl _ _ _ _ h0
    intro s i h
    split
    · split
      · exact h
      · exact h.l1Fill ..
    · exact h

theorem State.memOk.coreWrite {s : State} (hs : s.memOk) (c ia hint : Nat) (bs : Bytes) : (coreWrite s c ia hint bs).memOk := by
  unfold Machine.coreWrite
  dsimp only
  have h : (if (s.l1? c (lineOf ia)).isNone then s.countCore c 0x05 1 else s).memOk := by
    split
    · exact hs.countCore ..
    · exact hs
  generalize (if (s.l1? c (lineOf ia)).isNone then s.countCore c 0x05 1 else s) = t at h ⊢
  split
  · exact ((h.recallLine ..).countHome ..).mscWrite ..
  · split
    · exact h.l1Alloc ..
    · exact (h.l1Alloc ..).setL1 ..

theorem memOk_recalls {s : State} (hs : s.memOk) (ia : Nat) (l : List Nat) : (l.foldl (fun s i =>
    if (ia + i) % 128 = 0 || i = 0 then recallLine s (lineOf (ia + i)) none else s) s).memOk :=
  memOk_foldl _ (fun s i h => by
    split
    · exact h.recallLine ..
    · exact h) _ _ hs

theorem State.memOk.agentTouch {s : State} (hs : s.memOk) (line ia n tag : Nat) : (agentTouch s line ia n tag).memOk := by
  unfold Machine.agentTouch
  dsimp only
  have h1 := hs.countHome (128 * line) tag 0x01
  split
  · split
    · exact (h1.nextId _).setMsc ..
    · exact ((h1.nextId _).setMsc line _).countHome ..
  · exact h1.countHome ..

theorem State.memOk.countXlat {s : State} (hs : s.memOk) (ia tag : Nat) : (countXlat s ia tag).memOk := by
  unfold Machine.countXlat
  split
  · exact hs
  · split
    · dsimp only
      split
      · exact State.memOk.countSlice (by exact hs) ..
      · exact hs
    · exact hs

theorem State.memOk.agentRead {s : State} (hs : s.memOk) (ia n tag : Nat) : (agentRead s ia n tag).2.2.memOk := by
  unfold Machine.agentRead
  dsimp only
  exact memOk_foldl _ (fun _ line h => h.agentTouch line ia n tag) _ _ ((memOk_recalls hs ia _).countXlat ..)

theorem State.memOk.agentWrite {s : State} (hs : s.memOk) (ia tag : Nat) (bs : Bytes) : (agentWrite s ia tag bs).memOk := by
  unfold Machine.agentWrite
  dsimp only
  exact (((memOk_recalls hs ia _).countXlat ..).countHome ..).mscWrite ..

end Sys2Proof.Machine
end

