-- ==== Sys2Proof/Laws/PerInstr.lean ====
section
/-! SUPPORT. Laws of the encoding, instruction by instruction: the words of a well-formed instruction decode to it. -/

namespace Sys2Proof.Laws.RoundTrip

/-! ## Fields of a word -/

theorem field_lo {n m : Nat} (x : BitVec n) (y : BitVec m) (i w : Nat) (h : i + w ≤ m) :
    (x ++ y).extractLsb' i w = y.extractLsb' i w := by
  apply BitVec.eq_of_getLsbD_eq; intro j hj
  simp only [BitVec.getLsbD_extractLsb', BitVec.getLsbD_append, hj, decide_true, Bool.true_and]
  rw [if_pos (by omega)]

theorem field_hi {n m : Nat} (x : BitVec n) (y : BitVec m) (i w : Nat) (h : m ≤ i) :
    (x ++ y).extractLsb' i w = x.extractLsb' (i - m) w := by
  apply BitVec.eq_of_getLsbD_eq; intro j hj
  simp only [BitVec.getLsbD_extractLsb', BitVec.getLsbD_append, hj, decide_true, Bool.true_and]
  rw [if_neg (by omega)]; congr 1; omega

theorem field_all {n : Nat} (x : BitVec n) : x.extractLsb' 0 n = x := by simp

theorem bit_lo {n m : Nat} (x : BitVec n) (y : BitVec m) (i : Nat) (h : i < m) : (x ++ y).getLsbD i = y.getLsbD i := by
  simp [BitVec.getLsbD_append, h]

theorem bit_hi {n m : Nat} (x : BitVec n) (y : BitVec m) (i : Nat) (h : m ≤ i) :
    (x ++ y).getLsbD i = x.getLsbD (i - m) := by
  rw [BitVec.getLsbD_append, if_neg (by omega)]

theorem bit_ofBool (b : Bool) : (BitVec.ofBool b).getLsbD 0 = b := by cases b <;> rfl

/-! ## The R form -/

theorem opField_packR (op : BitVec 10) (f : RForm) : opField (packR op f) = op :=
  ((field_lo (n := 54) (m := 10) _ _ 0 10 (by decide)).trans (field_all _))

theorem litBit_packR (op : BitVec 10) (f : RForm) : (packR op f).getLsbD 63 = f.mod.getLsbD 7 :=
  ((bit_hi (n := 54) (m := 10) _ _ 63 (by decide)).trans ((bit_hi (n := 45) (m := 9) _ _ 53 (by decide)).trans ((bit_hi (n := 36) (m := 9) _ _ 44 (by decide)).trans ((bit_hi (n := 27) (m := 9) _ _ 35 (by decide)).trans ((bit_hi (n := 18) (m := 9) _ _ 26 (by decide)).trans ((bit_hi (n := 17) (m := 1) _ _ 17 (by decide)).trans ((bit_hi (n := 16) (m := 1) _ _ 16 (by decide)).trans ((bit_hi (n := 15) (m := 1) _ _ 15 (by decide)).trans ((bit_hi (n := 8) (m := 7) _ _ 14 (by decide)).trans rfl)))))))))

theorem unpackR_packR (op : BitVec 10) (f : RForm) : unpackR (packR op f) f.lit = f := by
  cases f
  simp only [unpackR, RForm.mk.injEq, and_true]
  exact ⟨((field_hi (n := 54) (m := 10) _ _ 10 9 (by decide)).trans ((field_lo (n := 45) (m := 9) _ _ 0 9 (by decide)).trans (field_all _))),
    ((field_hi (n := 54) (m := 10) _ _ 19 9 (by decide)).trans ((field_hi (n := 45) (m := 9) _ _ 9 9 (by decide)).trans ((field_lo (n := 36) (m := 9) _ _ 0 9 (by decide)).trans (field_all _)))),
    ((field_hi (n := 54) (m := 10) _ _ 28 9 (by decide)).trans ((field_hi (n := 45) (m := 9) _ _ 18 9 (by decide)).trans ((field_hi (n := 36) (m := 9) _ _ 9 9 (by decide)).trans ((field_lo (n := 27) (m := 9) _ _ 0 9 (by decide)).trans (field_all _))))),
    ((field_hi (n := 54) (m := 10) _ _ 37 9 (by decide)).trans ((field_hi (n := 45) (m := 9) _ _ 27 9 (by decide)).trans ((field_hi (n := 36) (m := 9) _ _ 18 9 (by decide)).trans ((field_hi (n := 27) (m := 9) _ _ 9 9 (by decide)).trans ((field_lo (n := 18) (m := 9) _ _ 0 9 (by decide)).trans (field_all _)))))),
    ((bit_hi (n := 54) (m := 10) _ _ 46 (by decide)).trans ((bit_hi (n := 45) (m := 9) _ _ 36 (by decide)).trans ((bit_hi (n := 36) (m := 9) _ _ 27 (by decide)).trans ((bit_hi (n := 27) (m := 9) _ _ 18 (by decide)).trans ((bit_hi (n := 18) (m := 9) _ _ 9 (by decide)).trans ((bit_lo (n := 17) (m := 1) _ _ 0 (by decide)).trans (bit_ofBool _))))))),
    ((bit_hi (n := 54) (m := 10) _ _ 47 (by decide)).trans ((bit_hi (n := 45) (m := 9) _ _ 37 (by decide)).trans ((bit_hi (n := 36) (m := 9) _ _ 28 (by decide)).trans ((bit_hi (n := 27) (m := 9) _ _ 19 (by decide)).trans ((bit_hi (n := 18) (m := 9) _ _ 10 (by decide)).trans ((bit_hi (n := 17) (m := 1) _ _ 1 (by decide)).trans ((bit_lo (n := 16) (m := 1) _ _ 0 (by decide)).trans (bit_ofBool _)))))))),
    ((bit_hi (n := 54) (m := 10) _ _ 48 (by decide)).trans ((bit_hi (n := 45) (m := 9) _ _ 38 (by decide)).trans ((bit_hi (n := 36) (m := 9) _ _ 29 (by decide)).trans ((bit_hi (n := 27) (m := 9) _ _ 20 (by decide)).trans ((bit_hi (n := 18) (m := 9) _ _ 11 (by decide)).trans ((bit_hi (n := 17) (m := 1) _ _ 2 (by decide)).trans ((bit_hi (n := 16) (m := 1) _ _ 1 (by decide)).trans ((bit_lo (n := 15) (m := 1) _ _ 0 (by decide)).trans (bit_ofBool _))))))))),
    ((field_hi (n := 54) (m := 10) _ _ 49 7 (by decide)).trans ((field_hi (n := 45) (m := 9) _ _ 39 7 (by decide)).trans ((field_hi (n := 36) (m := 9) _ _ 30 7 (by decide)).trans ((field_hi (n := 27) (m := 9) _ _ 21 7 (by decide)).trans ((field_hi (n := 18) (m := 9) _ _ 12 7 (by decide)).trans ((field_hi (n := 17) (m := 1) _ _ 3 7 (by decide)).trans ((field_hi (n := 16) (m := 1) _ _ 2 7 (by decide)).trans ((field_hi (n := 15) (m := 1) _ _ 1 7 (by decide)).trans ((field_lo (n := 8) (m := 7) _ _ 0 7 (by decide)).trans (field_all _)))))))))),
    ((field_hi (n := 54) (m := 10) _ _ 56 8 (by decide)).trans ((field_hi (n := 45) (m := 9) _ _ 46 8 (by decide)).trans ((field_hi (n := 36) (m := 9) _ _ 37 8 (by decide)).trans ((field_hi (n := 27) (m := 9) _ _ 28 8 (by decide)).trans ((field_hi (n := 18) (m := 9) _ _ 19 8 (by decide)).trans ((field_hi (n := 17) (m := 1) _ _ 10 8 (by decide)).trans ((field_hi (n := 16) (m := 1) _ _ 9 8 (by decide)).trans ((field_hi (n := 15) (m := 1) _ _ 8 8 (by decide)).trans ((field_hi (n := 8) (m := 7) _ _ 7 8 (by decide)).trans (field_all _))))))))))⟩

/-! ## The I form -/

theorem opField_packI (op : BitVec 10) (f : IForm) : opField (packI op f) = op :=
  ((field_lo (n := 54) (m := 10) _ _ 0 10 (by decide)).trans (field_all _))

theorem litBit_packI (op : BitVec 10) (f : IForm) : (packI op f).getLsbD 63 = f.mod.getLsbD 7 :=
  ((bit_hi (n := 54) (m := 10) _ _ 63 (by decide)).trans ((bit_hi (n := 45) (m := 9) _ _ 53 (by decide)).trans ((bit_hi (n := 36) (m := 9) _ _ 44 (by decide)).trans ((bit_hi (n := 18) (m := 18) _ _ 35 (by decide)).trans ((bit_hi (n := 17) (m := 1) _ _ 17 (by decide)).trans ((bit_hi (n := 16) (m := 1) _ _ 16 (by decide)).trans ((bit_hi (n := 15) (m := 1) _ _ 15 (by decide)).trans ((bit_hi (n := 8) (m := 7) _ _ 14 (by decide)).trans rfl))))))))

theorem unpackI_packI (op : BitVec 10) (f : IForm) : unpackI (packI op f) f.lit = f := by
  cases f
  simp only [unpackI, IForm.mk.injEq, and_true]
  exact ⟨((field_hi (n := 54) (m := 10) _ _ 10 9 (by decide)).trans ((field_lo (n := 45) (m := 9) _ _ 0 9 (by decide)).trans (field_all _))),
    ((field_hi (n := 54) (m := 10) _ _ 19 9 (by decide)).trans ((field_hi (n := 45) (m := 9) _ _ 9 9 (by decide)).trans ((field_lo (n := 36) (m := 9) _ _ 0 9 (by decide)).trans (field_all _)))),
    ((field_hi (n := 54) (m := 10) _ _ 28 18 (by decide)).trans ((field_hi (n := 45) (m := 9) _ _ 18 18 (by decide)).trans ((field_hi (n := 36) (m := 9) _ _ 9 18 (by decide)).trans ((field_lo (n := 18) (m := 18) _ _ 0 18 (by decide)).trans (field_all _))))),
    ((bit_hi (n := 54) (m := 10) _ _ 46 (by decide)).trans ((bit_hi (n := 45) (m := 9) _ _ 36 (by decide)).trans ((bit_hi (n := 36) (m := 9) _ _ 27 (by decide)).trans ((bit_hi (n := 18) (m := 18) _ _ 18 (by decide)).trans ((bit_lo (n := 17) (m := 1) _ _ 0 (by decide)).trans (bit_ofBool _)))))),
    ((bit_hi (n := 54) (m := 10) _ _ 47 (by decide)).trans ((bit_hi (n := 45) (m := 9) _ _ 37 (by decide)).trans ((bit_hi (n := 36) (m := 9) _ _ 28 (by decide)).trans ((bit_hi (n := 18) (m := 18) _ _ 19 (by decide)).trans ((bit_hi (n := 17) (m := 1) _ _ 1 (by decide)).trans ((bit_lo (n := 16) (m := 1) _ _ 0 (by decide)).trans (bit_ofBool _))))))),
    ((bit_hi (n := 54) (m := 10) _ _ 48 (by decide)).trans ((bit_hi (n := 45) (m := 9) _ _ 38 (by decide)).trans ((bit_hi (n := 36) (m := 9) _ _ 29 (by decide)).trans ((bit_hi (n := 18) (m := 18) _ _ 20 (by decide)).trans ((bit_hi (n := 17) (m := 1) _ _ 2 (by decide)).trans ((bit_hi (n := 16) (m := 1) _ _ 1 (by decide)).trans ((bit_lo (n := 15) (m := 1) _ _ 0 (by decide)).trans (bit_ofBool _)))))))),
    ((field_hi (n := 54) (m := 10) _ _ 49 7 (by decide)).trans ((field_hi (n := 45) (m := 9) _ _ 39 7 (by decide)).trans ((field_hi (n := 36) (m := 9) _ _ 30 7 (by decide)).trans ((field_hi (n := 18) (m := 18) _ _ 21 7 (by decide)).trans ((field_hi (n := 17) (m := 1) _ _ 3 7 (by decide)).trans ((field_hi (n := 16) (m := 1) _ _ 2 7 (by decide)).trans ((field_hi (n := 15) (m := 1) _ _ 1 7 (by decide)).trans ((field_lo (n := 8) (m := 7) _ _ 0 7 (by decide)).trans (field_all _))))))))),
    ((field_hi (n := 54) (m := 10) _ _ 56 8 (by decide)).trans ((field_hi (n := 45) (m := 9) _ _ 46 8 (by decide)).trans ((field_hi (n := 36) (m := 9) _ _ 37 8 (by decide)).trans ((field_hi (n := 18) (m := 18) _ _ 28 8 (by decide)).trans ((field_hi (n := 17) (m := 1) _ _ 10 8 (by decide)).trans ((field_hi (n := 16) (m := 1) _ _ 9 8 (by decide)).trans ((field_hi (n := 15) (m := 1) _ _ 8 8 (by decide)).trans ((field_hi (n := 8) (m := 7) _ _ 7 8 (by decide)).trans (field_all _)))))))))⟩

/-! ## The M form -/

theorem opField_packM (op : BitVec 10) (f : MForm) : opField (packM op f) = op :=
  ((field_lo (n := 54) (m := 10) _ _ 0 10 (by decide)).trans (field_all _))

theorem litBit_packM (op : BitVec 10) (f : MForm) : (packM op f).getLsbD 63 = f.mod.getLsbD 7 :=
  ((bit_hi (n := 54) (m := 10) _ _ 63 (by decide)).trans ((bit_hi (n := 45) (m := 9) _ _ 53 (by decide)).trans ((bit_hi (n := 36) (m := 9) _ _ 44 (by decide)).trans ((bit_hi (n := 18) (m := 18) _ _ 35 (by decide)).trans ((bit_hi (n := 17) (m := 1) _ _ 17 (by decide)).trans ((bit_hi (n := 16) (m := 1) _ _ 16 (by decide)).trans ((bit_hi (n := 15) (m := 1) _ _ 15 (by decide)).trans ((bit_hi (n := 8) (m := 7) _ _ 14 (by decide)).trans rfl))))))))

theorem unpackM_packM (op : BitVec 10) (f : MForm) : unpackM (packM op f) = f := by
  cases f
  simp only [unpackM, MForm.mk.injEq]
  exact ⟨((field_hi (n := 54) (m := 10) _ _ 10 9 (by decide)).trans ((field_lo (n := 45) (m := 9) _ _ 0 9 (by decide)).trans (field_all _))),
    ((field_hi (n := 54) (m := 10) _ _ 19 9 (by decide)).trans ((field_hi (n := 45) (m := 9) _ _ 9 9 (by decide)).trans ((field_lo (n := 36) (m := 9) _ _ 0 9 (by decide)).trans (field_all _)))),
    ((field_hi (n := 54) (m := 10) _ _ 28 18 (by decide)).trans ((field_hi (n := 45) (m := 9) _ _ 18 18 (by decide)).trans ((field_hi (n := 36) (m := 9) _ _ 9 18 (by decide)).trans ((field_lo (n := 18) (m := 18) _ _ 0 18 (by decide)).trans (field_all _))))),
    ((bit_hi (n := 54) (m := 10) _ _ 46 (by decide)).trans ((bit_hi (n := 45) (m := 9) _ _ 36 (by decide)).trans ((bit_hi (n := 36) (m := 9) _ _ 27 (by decide)).trans ((bit_hi (n := 18) (m := 18) _ _ 18 (by decide)).trans ((bit_lo (n := 17) (m := 1) _ _ 0 (by decide)).trans (bit_ofBool _)))))),
    ((bit_hi (n := 54) (m := 10) _ _ 47 (by decide)).trans ((bit_hi (n := 45) (m := 9) _ _ 37 (by decide)).trans ((bit_hi (n := 36) (m := 9) _ _ 28 (by decide)).trans ((bit_hi (n := 18) (m := 18) _ _ 19 (by decide)).trans ((bit_hi (n := 17) (m := 1) _ _ 1 (by decide)).trans ((bit_lo (n := 16) (m := 1) _ _ 0 (by decide)).trans (bit_ofBool _))))))),
    ((bit_hi (n := 54) (m := 10) _ _ 48 (by decide)).trans ((bit_hi (n := 45) (m := 9) _ _ 38 (by decide)).trans ((bit_hi (n := 36) (m := 9) _ _ 29 (by decide)).trans ((bit_hi (n := 18) (m := 18) _ _ 20 (by decide)).trans ((bit_hi (n := 17) (m := 1) _ _ 2 (by decide)).trans ((bit_hi (n := 16) (m := 1) _ _ 1 (by decide)).trans ((bit_lo (n := 15) (m := 1) _ _ 0 (by decide)).trans (bit_ofBool _)))))))),
    ((field_hi (n := 54) (m := 10) _ _ 49 7 (by decide)).trans ((field_hi (n := 45) (m := 9) _ _ 39 7 (by decide)).trans ((field_hi (n := 36) (m := 9) _ _ 30 7 (by decide)).trans ((field_hi (n := 18) (m := 18) _ _ 21 7 (by decide)).trans ((field_hi (n := 17) (m := 1) _ _ 3 7 (by decide)).trans ((field_hi (n := 16) (m := 1) _ _ 2 7 (by decide)).trans ((field_hi (n := 15) (m := 1) _ _ 1 7 (by decide)).trans ((field_lo (n := 8) (m := 7) _ _ 0 7 (by decide)).trans (field_all _))))))))),
    ((field_hi (n := 54) (m := 10) _ _ 56 8 (by decide)).trans ((field_hi (n := 45) (m := 9) _ _ 46 8 (by decide)).trans ((field_hi (n := 36) (m := 9) _ _ 37 8 (by decide)).trans ((field_hi (n := 18) (m := 18) _ _ 28 8 (by decide)).trans ((field_hi (n := 17) (m := 1) _ _ 10 8 (by decide)).trans ((field_hi (n := 16) (m := 1) _ _ 9 8 (by decide)).trans ((field_hi (n := 15) (m := 1) _ _ 8 8 (by decide)).trans ((field_hi (n := 8) (m := 7) _ _ 7 8 (by decide)).trans (field_all _)))))))))⟩

/-! ## The A form -/

theorem opField_packA (op : BitVec 10) (f : AForm) : opField (packA op f) = op :=
  ((field_lo (n := 54) (m := 10) _ _ 0 10 (by decide)).trans (field_all _))

theorem litBit_packA (op : BitVec 10) (f : AForm) : (packA op f).getLsbD 63 = f.mod.getLsbD 7 :=
  ((bit_hi (n := 54) (m := 10) _ _ 63 (by decide)).trans ((bit_hi (n := 45) (m := 9) _ _ 53 (by decide)).trans ((bit_hi (n := 36) (m := 9) _ _ 44 (by decide)).trans ((bit_hi (n := 27) (m := 9) _ _ 35 (by decide)).trans ((bit_hi (n := 22) (m := 5) _ _ 26 (by decide)).trans ((bit_hi (n := 18) (m := 4) _ _ 21 (by decide)).trans ((bit_hi (n := 17) (m := 1) _ _ 17 (by decide)).trans ((bit_hi (n := 16) (m := 1) _ _ 16 (by decide)).trans ((bit_hi (n := 15) (m := 1) _ _ 15 (by decide)).trans ((bit_hi (n := 8) (m := 7) _ _ 14 (by decide)).trans rfl))))))))))

theorem unpackA_packA (op : BitVec 10) (f : AForm) : unpackA (packA op f) f.lit = f := by
  cases f
  simp only [unpackA, AForm.mk.injEq, and_true]
  exact ⟨((field_hi (n := 54) (m := 10) _ _ 10 9 (by decide)).trans ((field_lo (n := 45) (m := 9) _ _ 0 9 (by decide)).trans (field_all _))),
    ((field_hi (n := 54) (m := 10) _ _ 19 9 (by decide)).trans ((field_hi (n := 45) (m := 9) _ _ 9 9 (by decide)).trans ((field_lo (n := 36) (m := 9) _ _ 0 9 (by decide)).trans (field_all _)))),
    ((field_hi (n := 54) (m := 10) _ _ 28 9 (by decide)).trans ((field_hi (n := 45) (m := 9) _ _ 18 9 (by decide)).trans ((field_hi (n := 36) (m := 9) _ _ 9 9 (by decide)).trans ((field_lo (n := 27) (m := 9) _ _ 0 9 (by decide)).trans (field_all _))))),
    ((field_hi (n := 54) (m := 10) _ _ 37 5 (by decide)).trans ((field_hi (n := 45) (m := 9) _ _ 27 5 (by decide)).trans ((field_hi (n := 36) (m := 9) _ _ 18 5 (by decide)).trans ((field_hi (n := 27) (m := 9) _ _ 9 5 (by decide)).trans ((field_lo (n := 22) (m := 5) _ _ 0 5 (by decide)).trans (field_all _)))))),
    ((field_hi (n := 54) (m := 10) _ _ 42 4 (by decide)).trans ((field_hi (n := 45) (m := 9) _ _ 32 4 (by decide)).trans ((field_hi (n := 36) (m := 9) _ _ 23 4 (by decide)).trans ((field_hi (n := 27) (m := 9) _ _ 14 4 (by decide)).trans ((field_hi (n := 22) (m := 5) _ _ 5 4 (by decide)).trans ((field_lo (n := 18) (m := 4) _ _ 0 4 (by decide)).trans (field_all _))))))),
    ((bit_hi (n := 54) (m := 10) _ _ 46 (by decide)).trans ((bit_hi (n := 45) (m := 9) _ _ 36 (by decide)).trans ((bit_hi (n := 36) (m := 9) _ _ 27 (by decide)).trans ((bit_hi (n := 27) (m := 9) _ _ 18 (by decide)).trans ((bit_hi (n := 22) (m := 5) _ _ 9 (by decide)).trans ((bit_hi (n := 18) (m := 4) _ _ 4 (by decide)).trans ((bit_lo (n := 17) (m := 1) _ _ 0 (by decide)).trans (bit_ofBool _)))))))),
    ((bit_hi (n := 54) (m := 10) _ _ 47 (by decide)).trans ((bit_hi (n := 45) (m := 9) _ _ 37 (by decide)).trans ((bit_hi (n := 36) (m := 9) _ _ 28 (by decide)).trans ((bit_hi (n := 27) (m := 9) _ _ 19 (by decide)).trans ((bit_hi (n := 22) (m := 5) _ _ 10 (by decide)).trans ((bit_hi (n := 18) (m := 4) _ _ 5 (by decide)).trans ((bit_hi (n := 17) (m := 1) _ _ 1 (by decide)).trans ((bit_lo (n := 16) (m := 1) _ _ 0 (by decide)).trans (bit_ofBool _))))))))),
    ((bit_hi (n := 54) (m := 10) _ _ 48 (by decide)).trans ((bit_hi (n := 45) (m := 9) _ _ 38 (by decide)).trans ((bit_hi (n := 36) (m := 9) _ _ 29 (by decide)).trans ((bit_hi (n := 27) (m := 9) _ _ 20 (by decide)).trans ((bit_hi (n := 22) (m := 5) _ _ 11 (by decide)).trans ((bit_hi (n := 18) (m := 4) _ _ 6 (by decide)).trans ((bit_hi (n := 17) (m := 1) _ _ 2 (by decide)).trans ((bit_hi (n := 16) (m := 1) _ _ 1 (by decide)).trans ((bit_lo (n := 15) (m := 1) _ _ 0 (by decide)).trans (bit_ofBool _)))))))))),
    ((field_hi (n := 54) (m := 10) _ _ 49 7 (by decide)).trans ((field_hi (n := 45) (m := 9) _ _ 39 7 (by decide)).trans ((field_hi (n := 36) (m := 9) _ _ 30 7 (by decide)).trans ((field_hi (n := 27) (m := 9) _ _ 21 7 (by decide)).trans ((field_hi (n := 22) (m := 5) _ _ 12 7 (by decide)).trans ((field_hi (n := 18) (m := 4) _ _ 7 7 (by decide)).trans ((field_hi (n := 17) (m := 1) _ _ 3 7 (by decide)).trans ((field_hi (n := 16) (m := 1) _ _ 2 7 (by decide)).trans ((field_hi (n := 15) (m := 1) _ _ 1 7 (by decide)).trans ((field_lo (n := 8) (m := 7) _ _ 0 7 (by decide)).trans (field_all _))))))))))),
    ((field_hi (n := 54) (m := 10) _ _ 56 8 (by decide)).trans ((field_hi (n := 45) (m := 9) _ _ 46 8 (by decide)).trans ((field_hi (n := 36) (m := 9) _ _ 37 8 (by decide)).trans ((field_hi (n := 27) (m := 9) _ _ 28 8 (by decide)).trans ((field_hi (n := 22) (m := 5) _ _ 19 8 (by decide)).trans ((field_hi (n := 18) (m := 4) _ _ 14 8 (by decide)).trans ((field_hi (n := 17) (m := 1) _ _ 10 8 (by decide)).trans ((field_hi (n := 16) (m := 1) _ _ 9 8 (by decide)).trans ((field_hi (n := 15) (m := 1) _ _ 8 8 (by decide)).trans ((field_hi (n := 8) (m := 7) _ _ 7 8 (by decide)).trans (field_all _)))))))))))⟩

/-! ## Words in a list -/

/-- A word with its literal, and the words after it. -/
theorem decodeWords_of {cls : BitVec 3} {w : W64} {lit : Option W64} {i : Instr} (rest : List W64)
    (ht : lit.isSome = takesLiteral cls w) (hd : decodeInstr cls w lit = i) :
    decodeWords cls (w :: (lit.toList ++ rest)) = .ok (i, rest) := by
  subst hd
  cases lit with
  | none => simp only [Option.isSome_none] at ht; simp [decodeWords, ← ht]
  | some l => simp only [Option.isSome_some] at ht; simp [decodeWords, ← ht]

theorem lit_allowed {mod : BitVec 8} {lit : Option W64} {allowed : Bool} (ha : allowed = true)
    (h : litWhen mod lit = true) : lit.isSome = (allowed && mod.getLsbD 7) := by
  subst ha; simpa [litWhen] using h

theorem lit_none {lit : Option W64} {allowed b : Bool} (ha : allowed = false) (h : noLit lit = true) :
    lit.isSome = (allowed && b) := by
  subst ha; cases lit <;> simp_all [noLit]

theorem wordsR {cls : BitVec 3} {op : BitVec 10} {f : RForm} {i : Instr} (rest : List W64)
    (hl : f.lit.isSome = (literalAllowed cls.toNat op.toNat && f.mod.getLsbD 7))
    (hd : ∀ w, opField w = op → unpackR w f.lit = f → decodeInstr cls w f.lit = i) :
    decodeWords cls (packR op f :: (f.lit.toList ++ rest)) = .ok (i, rest) := by
  refine decodeWords_of rest ?_ (hd _ (opField_packR op f) (unpackR_packR op f))
  rw [takesLiteral, opField_packR, litBit_packR]; exact hl

theorem wordsI {cls : BitVec 3} {op : BitVec 10} {f : IForm} {i : Instr} (rest : List W64)
    (hl : f.lit.isSome = (literalAllowed cls.toNat op.toNat && f.mod.getLsbD 7))
    (hd : ∀ w, opField w = op → unpackI w f.lit = f → decodeInstr cls w f.lit = i) :
    decodeWords cls (packI op f :: (f.lit.toList ++ rest)) = .ok (i, rest) := by
  refine decodeWords_of rest ?_ (hd _ (opField_packI op f) (unpackI_packI op f))
  rw [takesLiteral, opField_packI, litBit_packI]; exact hl

theorem wordsA {cls : BitVec 3} {op : BitVec 10} {f : AForm} {i : Instr} (rest : List W64)
    (hl : f.lit.isSome = (literalAllowed cls.toNat op.toNat && f.mod.getLsbD 7))
    (hd : ∀ w, opField w = op → unpackA w f.lit = f → decodeInstr cls w f.lit = i) :
    decodeWords cls (packA op f :: (f.lit.toList ++ rest)) = .ok (i, rest) := by
  refine decodeWords_of rest ?_ (hd _ (opField_packA op f) (unpackA_packA op f))
  rw [takesLiteral, opField_packA, litBit_packA]; exact hl

theorem wordsM {cls : BitVec 3} {op : BitVec 10} {f : MForm} {i : Instr} (rest : List W64)
    (hl : literalAllowed cls.toNat op.toNat = false)
    (hd : ∀ w, opField w = op → unpackM w = f → decodeInstr cls w none = i) :
    decodeWords cls (packM op f :: ((none : Option W64).toList ++ rest)) = .ok (i, rest) := by
  refine decodeWords_of rest ?_ (hd _ (opField_packM op f) (unpackM_packM op f))
  rw [takesLiteral, opField_packM, hl]; rfl

theorem literal_assigned {cls op : Nat} (h : assignedOp cls op = false) : literalAllowed cls op = false := by
  unfold literalAllowed
  split <;> simp_all [assignedOp] <;> omega

theorem none_unassigned {cls op : Nat} {w : W64} {lit : Option W64} (h : assignedOp cls op = false) :
    (match cls with
      | 0 => decodeV op w lit
      | 1 => decodeM op w lit
      | 2 => decodeX op w lit
      | 3 => decodeC op w lit
      | 4 => decodeS op w lit
      | 5 => decodeT op w lit
      | 6 => decodeE op w lit
      | _ => none) = none := by
  split
  · unfold decodeV; split <;> simp_all [assignedOp]
  · unfold decodeM; split <;> simp_all [assignedOp]
  · unfold decodeX; split <;> simp_all [assignedOp]
  · unfold decodeC; split <;> simp_all [assignedOp]
  · unfold decodeS; split <;> simp_all [assignedOp]
  · unfold decodeT; split <;> simp_all [assignedOp]
  · unfold decodeE; split <;> simp_all [assignedOp]
  · rfl

/-! ## One instruction each -/

/-- The words of `i`, and any words after them, decode to `i` and leave those words. -/
def Statement (i : Instr) : Prop :=
  i.wellFormed = true → ∀ (e : Encoded) (rest : List W64), encode i = some e →
    decodeWords e.cls (e.word :: (e.lit.toList ++ rest)) = .ok (i, rest)

theorem inputOvervoltageDisconnect : Statement .inputOvervoltageDisconnect := by
  intro _ e _ he; cases he

theorem inputVoltageHighBand : Statement .inputVoltageHighBand := by
  intro _ e _ he; cases he

theorem inputVoltageLowBand : Statement .inputVoltageLowBand := by
  intro _ e _ he; cases he

theorem inputVoltageRestored : Statement .inputVoltageRestored := by
  intro _ e _ he; cases he

theorem inputDropout : Statement .inputDropout := by
  intro _ e _ he; cases he

theorem inputDropoutExpiry : Statement .inputDropoutExpiry := by
  intro _ e _ he; cases he

theorem powerCapCheck : ∀ a b, Statement (.powerCapCheck a b) := by
  intros; intro _ e _ he; cases he

theorem thermalThresholdCrossed : ∀ a b, Statement (.thermalThresholdCrossed a b) := by
  intros; intro _ e _ he; cases he

theorem thermalDropTimer : ∀ a, Statement (.thermalDropTimer a) := by
  intros; intro _ e _ he; cases he

theorem aclkClimbTimer : ∀ a, Statement (.aclkClimbTimer a) := by
  intros; intro _ e _ he; cases he

theorem thermalHalt : ∀ a b, Statement (.thermalHalt a b) := by
  intros; intro _ e _ he; cases he

theorem moduleReset : Statement .moduleReset := by
  intro _ e _ he; cases he

theorem dynamicAddressAssignment : ∀ a, Statement (.dynamicAddressAssignment a) := by
  intros; intro _ e _ he; cases he

theorem readBootState : Statement .readBootState := by
  intro _ e _ he; cases he

theorem setPowerCap : ∀ a, Statement (.setPowerCap a) := by
  intros; intro _ e _ he; cases he

theorem readJunctionSensors : Statement .readJunctionSensors := by
  intro _ e _ he; cases he

theorem readAlertCauses : Statement .readAlertCauses := by
  intro _ e _ he; cases he

theorem clearAlertCauses : ∀ a, Statement (.clearAlertCauses a) := by
  intros; intro _ e _ he; cases he

theorem deliverImage : ∀ a, Statement (.deliverImage a) := by
  intros; intro _ e _ he; cases he

theorem correctableError : ∀ a b c, Statement (.correctableError a b c) := by
  intros; intro _ e _ he; cases he

theorem trackingWindowExpiry : ∀ a b, Statement (.trackingWindowExpiry a b) := by
  intros; intro _ e _ he; cases he

theorem bankRetirement : ∀ a b, Statement (.bankRetirement a b) := by
  intros; intro _ e _ he; cases he

theorem mscWayRetirement : ∀ a b, Statement (.mscWayRetirement a b) := by
  intros; intro _ e _ he; cases he

theorem hbmPageRetirement : ∀ a b, Statement (.hbmPageRetirement a b) := by
  intros; intro _ e _ he; cases he

theorem linkUp : ∀ a, Statement (.linkUp a) := by
  intros; intro _ e _ he; cases he

theorem linkLoss : ∀ a, Statement (.linkLoss a) := by
  intros; intro _ e _ he; cases he

theorem linkHoldExpiry : ∀ a, Statement (.linkHoldExpiry a) := by
  intros; intro _ e _ he; cases he

theorem mediaChange : ∀ a b, Statement (.mediaChange a b) := by
  intros; intro _ e _ he; cases he

theorem inboundRdmaWrite : ∀ a, Statement (.inboundRdmaWrite a) := by
  intros; intro _ e _ he; cases he

theorem inboundRdmaRead : ∀ a b, Statement (.inboundRdmaRead a b) := by
  intros; intro _ e _ he; cases he

theorem inboundSend : ∀ a, Statement (.inboundSend a) := by
  intros; intro _ e _ he; cases he

theorem inboundAtomic : ∀ a b c d, Statement (.inboundAtomic a b c d) := by
  intros; intro _ e _ he; cases he

theorem inboundInvalidRequest : ∀ a b c, Statement (.inboundInvalidRequest a b c) := by
  intros; intro _ e _ he; cases he

theorem outOfSequencePacket : ∀ a b c, Statement (.outOfSequencePacket a b c) := by
  intros; intro _ e _ he; cases he

theorem networkAckReceived : ∀ a b c d, Statement (.networkAckReceived a b c d) := by
  intros; intro _ e _ he; cases he

theorem nakReceived : ∀ a b c d, Statement (.nakReceived a b c d) := by
  intros; intro _ e _ he; cases he

theorem ackTimeout : ∀ a b, Statement (.ackTimeout a b) := by
  intros; intro _ e _ he; cases he

theorem pendingRequestSend : ∀ a b, Statement (.pendingRequestSend a b) := by
  intros; intro _ e _ he; cases he

theorem congestionNotificationReceived : ∀ a b, Statement (.congestionNotificationReceived a b) := by
  intros; intro _ e _ he; cases he

theorem rateRecoveryTimer : ∀ a b, Statement (.rateRecoveryTimer a b) := by
  intros; intro _ e _ he; cases he

theorem pauseFrameReceived : ∀ a b c, Statement (.pauseFrameReceived a b c) := by
  intros; intro _ e _ he; cases he

theorem connWrite : Statement .connWrite := by
  intro _ e _ he; cases he

theorem connRead : Statement .connRead := by
  intro _ e _ he; cases he

theorem connReset : Statement .connReset := by
  intro _ e _ he; cases he

theorem regionWrite : Statement .regionWrite := by
  intro _ e _ he; cases he

theorem regionRead : Statement .regionRead := by
  intro _ e _ he; cases he

theorem portWrite : Statement .portWrite := by
  intro _ e _ he; cases he

theorem portRead : Statement .portRead := by
  intro _ e _ he; cases he

theorem paddrWrite : Statement .paddrWrite := by
  intro _ e _ he; cases he

theorem paddrRead : Statement .paddrRead := by
  intro _ e _ he; cases he

theorem congWrite : Statement .congWrite := by
  intro _ e _ he; cases he

theorem congRead : Statement .congRead := by
  intro _ e _ he; cases he

theorem qdescWrite : Statement .qdescWrite := by
  intro _ e _ he; cases he

theorem queueHaltClear : Statement .queueHaltClear := by
  intro _ e _ he; cases he

theorem qdescRead : Statement .qdescRead := by
  intro _ e _ he; cases he

theorem ctxregWrite : Statement .ctxregWrite := by
  intro _ e _ he; cases he

theorem contextPreempt : Statement .contextPreempt := by
  intro _ e _ he; cases he

theorem ctxregRead : Statement .ctxregRead := by
  intro _ e _ he; cases he

theorem devregWrite : Statement .devregWrite := by
  intro _ e _ he; cases he

theorem devregRead : Statement .devregRead := by
  intro _ e _ he; cases he

theorem pteWrite : Statement .pteWrite := by
  intro _ e _ he; cases he

theorem pteRead : Statement .pteRead := by
  intro _ e _ he; cases he

theorem attest : Statement .attest := by
  intro _ e _ he; cases he

theorem faultRead : Statement .faultRead := by
  intro _ e _ he; cases he

theorem pmcRead : Statement .pmcRead := by
  intro _ e _ he; cases he

theorem pmcWrite : Statement .pmcWrite := by
  intro _ e _ he; cases he

theorem ctxHalt : Statement .ctxHalt := by
  intro _ e _ he; cases he

theorem powerActive : Statement .powerActive := by
  intro _ e _ he; cases he

theorem powerRetention : Statement .powerRetention := by
  intro _ e _ he; cases he

theorem powerOff : Statement .powerOff := by
  intro _ e _ he; cases he

theorem ceuInfo : Statement .ceuInfo := by
  intro _ e _ he; cases he

theorem registerWrite : ∀ a b, Statement (.registerWrite a b) := by
  intros; intro _ e _ he; cases he

theorem notifyWrite : Statement .notifyWrite := by
  intro _ e _ he; cases he

theorem mapperPass : Statement .mapperPass := by
  intro _ e _ he; cases he

theorem entryDecode : ∀ a, Statement (.entryDecode a) := by
  intros; intro _ e _ he; cases he

theorem launchStart : ∀ a b, Statement (.launchStart a b) := by
  intros; intro _ e _ he; cases he

theorem distributorDecision : Statement .distributorDecision := by
  intro _ e _ he; cases he

theorem budgetCounterExpiry : ∀ a, Statement (.budgetCounterExpiry a) := by
  intros; intro _ e _ he; cases he

theorem graceExpiry : ∀ a, Statement (.graceExpiry a) := by
  intros; intro _ e _ he; cases he

theorem allowanceCharge : ∀ a, Statement (.allowanceCharge a) := by
  intros; intro _ e _ he; cases he

theorem teamAtSlice : ∀ a, Statement (.teamAtSlice a) := by
  intros; intro _ e _ he; cases he

theorem saveComplete : ∀ a, Statement (.saveComplete a) := by
  intros; intro _ e _ he; cases he

theorem governorPeriod : ∀ a, Statement (.governorPeriod a) := by
  intros; intro _ e _ he; cases he

theorem clauseSelect : ∀ a b, Statement (.clauseSelect a b) := by
  intros; intro _ e _ he; cases he

theorem callerClauseSelect : ∀ a, Statement (.callerClauseSelect a) := by
  intros; intro _ e _ he; cases he

theorem clauseFetchComplete : ∀ a b, Statement (.clauseFetchComplete a b) := by
  intros; intro _ e _ he; cases he

theorem longLatencyWriteback : ∀ a, Statement (.longLatencyWriteback a) := by
  intros; intro _ e _ he; cases he

theorem trapDelivery : ∀ a, Statement (.trapDelivery a) := by
  intros; intro _ e _ he; cases he

theorem teamEnd : ∀ a, Statement (.teamEnd a) := by
  intros; intro _ e _ he; cases he

theorem pmcOverflow : ∀ a b, Statement (.pmcOverflow a b) := by
  intros; intro _ e _ he; cases he

theorem translationAccess : ∀ a b, Statement (.translationAccess a b) := by
  intros; intro _ e _ he; cases he

theorem l1Writeback : ∀ a b, Statement (.l1Writeback a b) := by
  intros; intro _ e _ he; cases he

theorem translationChangeComplete : ∀ a, Statement (.translationChangeComplete a) := by
  intros; intro _ e _ he; cases he

theorem migrationEnd : ∀ a b, Statement (.migrationEnd a b) := by
  intros; intro _ e _ he; cases he

theorem pinLandingAdmit : ∀ a b, Statement (.pinLandingAdmit a b) := by
  intros; intro _ e _ he; cases he

theorem copyRecordStart : ∀ a, Statement (.copyRecordStart a) := by
  intros; intro _ e _ he; cases he

theorem copyRecordEnd : ∀ a, Statement (.copyRecordEnd a) := by
  intros; intro _ e _ he; cases he

theorem matrixOpAccept : ∀ a, Statement (.matrixOpAccept a) := by
  intros; intro _ e _ he; cases he

theorem sequencerStep : ∀ a, Statement (.sequencerStep a) := by
  intros; intro _ e _ he; cases he

theorem tileFetchReturn : ∀ a, Statement (.tileFetchReturn a) := by
  intros; intro _ e _ he; cases he

theorem epilogueRow : ∀ a, Statement (.epilogueRow a) := by
  intros; intro _ e _ he; cases he

theorem matrixWatchdogExpiry : ∀ a, Statement (.matrixWatchdogExpiry a) := by
  intros; intro _ e _ he; cases he

theorem primitiveForward : ∀ a b, Statement (.primitiveForward a b) := by
  intros; intro _ e _ he; cases he

theorem rasterMerge : ∀ a b, Statement (.rasterMerge a b) := by
  intros; intro _ e _ he; cases he

theorem fragmentTeamFormation : ∀ a b, Statement (.fragmentTeamFormation a b) := by
  intros; intro _ e _ he; cases he

theorem renderOutputPerform : ∀ a b, Statement (.renderOutputPerform a b) := by
  intros; intro _ e _ he; cases he

theorem collJoinWordArrival : ∀ a, Statement (.collJoinWordArrival a) := by
  intros; intro _ e _ he; cases he

theorem collDataSend : ∀ a b, Statement (.collDataSend a b) := by
  intros; intro _ e _ he; cases he

theorem collExponentArrival : ∀ a, Statement (.collExponentArrival a) := by
  intros; intro _ e _ he; cases he

theorem collPlaneBatchArrival : ∀ a, Statement (.collPlaneBatchArrival a) := by
  intros; intro _ e _ he; cases he

theorem collStandardTransferArrival : ∀ a, Statement (.collStandardTransferArrival a) := by
  intros; intro _ e _ he; cases he

theorem cutRequestArrival : ∀ a, Statement (.cutRequestArrival a) := by
  intros; intro _ e _ he; cases he

theorem freezeArrival : ∀ a, Statement (.freezeArrival a) := by
  intros; intro _ e _ he; cases he

theorem freezeRepliesCollected : ∀ a b, Statement (.freezeRepliesCollected a b) := by
  intros; intro _ e _ he; cases he

theorem cutKArrival : ∀ a, Statement (.cutKArrival a) := by
  intros; intro _ e _ he; cases he

theorem streamStopArrival : ∀ a, Statement (.streamStopArrival a) := by
  intros; intro _ e _ he; cases he

theorem collOperationEnd : ∀ a b, Statement (.collOperationEnd a b) := by
  intros; intro _ e _ he; cases he

theorem iadd (f : RForm) : Statement (.iadd f) := by
  intro h e rest he; cases he
  exact wordsR rest (lit_allowed rfl h) fun w ho hu => by simp [decodeInstr, ho, decodeV, hu]

theorem isub (f : RForm) : Statement (.isub f) := by
  intro h e rest he; cases he
  exact wordsR rest (lit_allowed rfl h) fun w ho hu => by simp [decodeInstr, ho, decodeV, hu]

theorem imul (f : RForm) : Statement (.imul f) := by
  intro h e rest he; cases he
  exact wordsR rest (lit_allowed rfl h) fun w ho hu => by simp [decodeInstr, ho, decodeV, hu]

theorem imulhi (f : RForm) : Statement (.imulhi f) := by
  intro h e rest he; cases he
  exact wordsR rest (lit_allowed rfl h) fun w ho hu => by simp [decodeInstr, ho, decodeV, hu]

theorem imad (f : RForm) : Statement (.imad f) := by
  intro h e rest he; cases he
  exact wordsR rest (lit_allowed rfl h) fun w ho hu => by simp [decodeInstr, ho, decodeV, hu]

theorem imin (f : RForm) : Statement (.imin f) := by
  intro h e rest he; cases he
  exact wordsR rest (lit_allowed rfl h) fun w ho hu => by simp [decodeInstr, ho, decodeV, hu]

theorem imax (f : RForm) : Statement (.imax f) := by
  intro h e rest he; cases he
  exact wordsR rest (lit_allowed rfl h) fun w ho hu => by simp [decodeInstr, ho, decodeV, hu]

theorem iabs (f : RForm) : Statement (.iabs f) := by
  intro h e rest he; cases he
  exact wordsR rest (lit_none rfl h) fun w ho hu => by simp [decodeInstr, ho, decodeV, hu]

theorem andV (f : RForm) : Statement (.andV f) := by
  intro h e rest he; cases he
  exact wordsR rest (lit_allowed rfl h) fun w ho hu => by simp [decodeInstr, ho, decodeV, hu]

theorem orV (f : RForm) : Statement (.orV f) := by
  intro h e rest he; cases he
  exact wordsR rest (lit_allowed rfl h) fun w ho hu => by simp [decodeInstr, ho, decodeV, hu]

theorem xorV (f : RForm) : Statement (.xorV f) := by
  intro h e rest he; cases he
  exact wordsR rest (lit_allowed rfl h) fun w ho hu => by simp [decodeInstr, ho, decodeV, hu]

theorem notV (f : RForm) : Statement (.notV f) := by
  intro h e rest he; cases he
  exact wordsR rest (lit_none rfl h) fun w ho hu => by simp [decodeInstr, ho, decodeV, hu]

theorem shl (f : RForm) : Statement (.shl f) := by
  intro h e rest he; cases he
  exact wordsR rest (lit_allowed rfl h) fun w ho hu => by simp [decodeInstr, ho, decodeV, hu]

theorem shr (f : RForm) : Statement (.shr f) := by
  intro h e rest he; cases he
  exact wordsR rest (lit_allowed rfl h) fun w ho hu => by simp [decodeInstr, ho, decodeV, hu]

theorem sar (f : RForm) : Statement (.sar f) := by
  intro h e rest he; cases he
  exact wordsR rest (lit_allowed rfl h) fun w ho hu => by simp [decodeInstr, ho, decodeV, hu]

theorem bfe (f : RForm) : Statement (.bfe f) := by
  intro h e rest he; cases he
  exact wordsR rest (lit_allowed rfl h) fun w ho hu => by simp [decodeInstr, ho, decodeV, hu]

theorem bfi (f : RForm) : Statement (.bfi f) := by
  intro h e rest he; cases he
  exact wordsR rest (lit_allowed rfl h) fun w ho hu => by simp [decodeInstr, ho, decodeV, hu]

theorem popc (f : RForm) : Statement (.popc f) := by
  intro h e rest he; cases he
  exact wordsR rest (lit_none rfl h) fun w ho hu => by simp [decodeInstr, ho, decodeV, hu]

theorem clz (f : RForm) : Statement (.clz f) := by
  intro h e rest he; cases he
  exact wordsR rest (lit_none rfl h) fun w ho hu => by simp [decodeInstr, ho, decodeV, hu]

theorem brev (f : RForm) : Statement (.brev f) := by
  intro h e rest he; cases he
  exact wordsR rest (lit_none rfl h) fun w ho hu => by simp [decodeInstr, ho, decodeV, hu]

theorem icmp (f : RForm) : Statement (.icmp f) := by
  intro h e rest he; cases he
  exact wordsR rest (lit_allowed rfl h) fun w ho hu => by simp [decodeInstr, ho, decodeV, hu]

theorem sel (f : RForm) : Statement (.sel f) := by
  intro h e rest he; cases he
  exact wordsR rest (lit_allowed rfl h) fun w ho hu => by simp [decodeInstr, ho, decodeV, hu]

theorem lea (f : RForm) : Statement (.lea f) := by
  intro h e rest he; cases he
  exact wordsR rest (lit_allowed rfl h) fun w ho hu => by simp [decodeInstr, ho, decodeV, hu]

theorem fadd (f : RForm) : Statement (.fadd f) := by
  intro h e rest he; cases he
  exact wordsR rest (lit_allowed rfl h) fun w ho hu => by simp [decodeInstr, ho, decodeV, hu]

theorem fsub (f : RForm) : Statement (.fsub f) := by
  intro h e rest he; cases he
  exact wordsR rest (lit_allowed rfl h) fun w ho hu => by simp [decodeInstr, ho, decodeV, hu]

theorem fmul (f : RForm) : Statement (.fmul f) := by
  intro h e rest he; cases he
  exact wordsR rest (lit_allowed rfl h) fun w ho hu => by simp [decodeInstr, ho, decodeV, hu]

theorem ffma (f : RForm) : Statement (.ffma f) := by
  intro h e rest he; cases he
  exact wordsR rest (lit_allowed rfl h) fun w ho hu => by simp [decodeInstr, ho, decodeV, hu]

theorem fmin (f : RForm) : Statement (.fmin f) := by
  intro h e rest he; cases he
  exact wordsR rest (lit_allowed rfl h) fun w ho hu => by simp [decodeInstr, ho, decodeV, hu]

theorem fmax (f : RForm) : Statement (.fmax f) := by
  intro h e rest he; cases he
  exact wordsR rest (lit_allowed rfl h) fun w ho hu => by simp [decodeInstr, ho, decodeV, hu]

theorem fcmp (f : RForm) : Statement (.fcmp f) := by
  intro h e rest he; cases he
  exact wordsR rest (lit_allowed rfl h) fun w ho hu => by simp [decodeInstr, ho, decodeV, hu]

theorem fclass (f : RForm) : Statement (.fclass f) := by
  intro h e rest he; cases he
  exact wordsR rest (lit_none rfl h) fun w ho hu => by simp [decodeInstr, ho, decodeV, hu]

theorem frnd (f : RForm) : Statement (.frnd f) := by
  intro h e rest he; cases he
  exact wordsR rest (lit_none rfl h) fun w ho hu => by simp [decodeInstr, ho, decodeV, hu]

theorem cvt (f : RForm) : Statement (.cvt f) := by
  intro h e rest he; cases he
  exact wordsR rest (lit_none rfl h) fun w ho hu => by simp [decodeInstr, ho, decodeV, hu]

theorem qblk (f : RForm) : Statement (.qblk f) := by
  intro h e rest he; cases he
  exact wordsR rest (lit_none rfl h) fun w ho hu => by simp [decodeInstr, ho, decodeV, hu]

theorem dqblk (f : RForm) : Statement (.dqblk f) := by
  intro h e rest he; cases he
  exact wordsR rest (lit_none rfl h) fun w ho hu => by simp [decodeInstr, ho, decodeV, hu]

theorem pack (f : RForm) : Statement (.pack f) := by
  intro h e rest he; cases he
  exact wordsR rest (lit_none rfl h) fun w ho hu => by simp [decodeInstr, ho, decodeV, hu]

theorem unpack (f : RForm) : Statement (.unpack f) := by
  intro h e rest he; cases he
  exact wordsR rest (lit_none rfl h) fun w ho hu => by simp [decodeInstr, ho, decodeV, hu]

theorem dot4 (f : RForm) : Statement (.dot4 f) := by
  intro h e rest he; cases he
  exact wordsR rest (lit_allowed rfl h) fun w ho hu => by simp [decodeInstr, ho, decodeV, hu]

theorem shfl (f : RForm) : Statement (.shfl f) := by
  intro h e rest he; cases he
  exact wordsR rest (lit_allowed rfl h) fun w ho hu => by simp [decodeInstr, ho, decodeV, hu]

theorem vote (f : RForm) : Statement (.vote f) := by
  intro h e rest he; cases he
  exact wordsR rest (lit_none rfl h) fun w ho hu => by simp [decodeInstr, ho, decodeV, hu]

theorem rdx (f : RForm) : Statement (.rdx f) := by
  intro h e rest he; cases he
  exact wordsR rest (lit_none rfl h) fun w ho hu => by simp [decodeInstr, ho, decodeV, hu]

theorem scan (f : RForm) : Statement (.scan f) := by
  intro h e rest he; cases he
  exact wordsR rest (lit_none rfl h) fun w ho hu => by simp [decodeInstr, ho, decodeV, hu]

theorem bcast (f : RForm) : Statement (.bcast f) := by
  intro h e rest he; cases he
  exact wordsR rest (lit_none rfl h) fun w ho hu => by simp [decodeInstr, ho, decodeV, hu]

theorem mov (f : RForm) : Statement (.mov f) := by
  intro h e rest he; cases he
  exact wordsR rest (lit_none rfl h) fun w ho hu => by simp [decodeInstr, ho, decodeV, hu]

theorem movi (f : IForm) : Statement (.movi f) := by
  intro h e rest he; cases he
  exact wordsI rest (lit_allowed rfl h) fun w ho hu => by simp [decodeInstr, ho, decodeV, hu]

theorem movs (f : RForm) : Statement (.movs f) := by
  intro h e rest he; cases he
  exact wordsR rest (lit_none rfl h) fun w ho hu => by simp [decodeInstr, ho, decodeV, hu]

theorem srnd (f : RForm) : Statement (.srnd f) := by
  intro h e rest he; cases he
  exact wordsR rest (lit_allowed rfl h) fun w ho hu => by simp [decodeInstr, ho, decodeV, hu]

theorem fsel (f : RForm) : Statement (.fsel f) := by
  intro h e rest he; cases he
  exact wordsR rest (lit_none rfl h) fun w ho hu => by simp [decodeInstr, ho, decodeV, hu]

theorem ld (f : MForm) : Statement (.ld f) := by
  intro h e rest he; cases he
  exact wordsM rest rfl fun w ho hu => by simp_all [decodeInstr, Instr.wellFormed, decodeM]

theorem st (f : MForm) : Statement (.st f) := by
  intro h e rest he; cases he
  exact wordsM rest rfl fun w ho hu => by simp_all [decodeInstr, Instr.wellFormed, decodeM]

theorem lds (f : MForm) : Statement (.lds f) := by
  intro h e rest he; cases he
  exact wordsM rest rfl fun w ho hu => by simp_all [decodeInstr, Instr.wellFormed, decodeM]

theorem sts (f : MForm) : Statement (.sts f) := by
  intro h e rest he; cases he
  exact wordsM rest rfl fun w ho hu => by simp_all [decodeInstr, Instr.wellFormed, decodeM]

theorem ldc (f : MForm) : Statement (.ldc f) := by
  intro h e rest he; cases he
  exact wordsM rest rfl fun w ho hu => by simp_all [decodeInstr, Instr.wellFormed, decodeM]

theorem stc (f : MForm) : Statement (.stc f) := by
  intro h e rest he; cases he
  exact wordsM rest rfl fun w ho hu => by simp_all [decodeInstr, Instr.wellFormed, decodeM]

theorem lda (f : MForm) : Statement (.lda f) := by
  intro h e rest he; cases he
  exact wordsM rest rfl fun w ho hu => by simp_all [decodeInstr, Instr.wellFormed, decodeM]

theorem sta (f : MForm) : Statement (.sta f) := by
  intro h e rest he; cases he
  exact wordsM rest rfl fun w ho hu => by simp_all [decodeInstr, Instr.wellFormed, decodeM]

theorem ldk (f : MForm) : Statement (.ldk f) := by
  intro h e rest he; cases he
  exact wordsM rest rfl fun w ho hu => by simp_all [decodeInstr, Instr.wellFormed, decodeM]

theorem atom (f : AForm) : Statement (.atom f) := by
  intro h e rest he; cases he
  exact wordsA rest (lit_allowed rfl h) fun w ho hu => by simp [decodeInstr, ho, decodeM, hu]

theorem red (f : AForm) : Statement (.red f) := by
  intro h e rest he; cases he
  exact wordsA rest (lit_allowed rfl h) fun w ho hu => by simp [decodeInstr, ho, decodeM, hu]

theorem fence (f : MForm) : Statement (.fence f) := by
  intro h e rest he; cases he
  exact wordsM rest rfl fun w ho hu => by simp_all [decodeInstr, Instr.wellFormed, decodeM]

theorem pref (f : MForm) : Statement (.pref f) := by
  intro h e rest he; cases he
  exact wordsM rest rfl fun w ho hu => by simp_all [decodeInstr, Instr.wellFormed, decodeM]

theorem cctlWb (f : MForm) : Statement (.cctlWb f) := by
  intro h e rest he; cases he
  exact wordsM rest rfl fun w ho hu => by simp_all [decodeInstr, Instr.wellFormed, decodeM]

theorem cctlInv (f : MForm) : Statement (.cctlInv f) := by
  intro h e rest he; cases he
  exact wordsM rest rfl fun w ho hu => by simp_all [decodeInstr, Instr.wellFormed, decodeM]

theorem cctlClrp (f : MForm) : Statement (.cctlClrp f) := by
  intro h e rest he; cases he
  exact wordsM rest rfl fun w ho hu => by simp_all [decodeInstr, Instr.wellFormed, decodeM]

theorem tex (f : RForm) : Statement (.tex f) := by
  intro h e rest he; cases he
  exact wordsR rest (lit_none rfl h) fun w ho hu => by simp [decodeInstr, ho, decodeM, hu]

theorem tfetch (f : RForm) : Statement (.tfetch f) := by
  intro h e rest he; cases he
  exact wordsR rest (lit_none rfl h) fun w ho hu => by simp [decodeInstr, ho, decodeM, hu]

theorem imst (f : RForm) : Statement (.imst f) := by
  intro h e rest he; cases he
  exact wordsR rest (lit_none rfl h) fun w ho hu => by simp [decodeInstr, ho, decodeM, hu]

theorem rcp (f : RForm) : Statement (.rcp f) := by
  intro h e rest he; cases he
  exact wordsR rest (lit_none rfl h) fun w ho hu => by simp [decodeInstr, ho, decodeX, hu]

theorem rsq (f : RForm) : Statement (.rsq f) := by
  intro h e rest he; cases he
  exact wordsR rest (lit_none rfl h) fun w ho hu => by simp [decodeInstr, ho, decodeX, hu]

theorem sqrt (f : RForm) : Statement (.sqrt f) := by
  intro h e rest he; cases he
  exact wordsR rest (lit_none rfl h) fun w ho hu => by simp [decodeInstr, ho, decodeX, hu]

theorem exp2 (f : RForm) : Statement (.exp2 f) := by
  intro h e rest he; cases he
  exact wordsR rest (lit_none rfl h) fun w ho hu => by simp [decodeInstr, ho, decodeX, hu]

theorem log2 (f : RForm) : Statement (.log2 f) := by
  intro h e rest he; cases he
  exact wordsR rest (lit_none rfl h) fun w ho hu => by simp [decodeInstr, ho, decodeX, hu]

theorem sin (f : RForm) : Statement (.sin f) := by
  intro h e rest he; cases he
  exact wordsR rest (lit_none rfl h) fun w ho hu => by simp [decodeInstr, ho, decodeX, hu]

theorem cos (f : RForm) : Statement (.cos f) := by
  intro h e rest he; cases he
  exact wordsR rest (lit_none rfl h) fun w ho hu => by simp [decodeInstr, ho, decodeX, hu]

theorem tanh (f : RForm) : Statement (.tanh f) := by
  intro h e rest he; cases he
  exact wordsR rest (lit_none rfl h) fun w ho hu => by simp [decodeInstr, ho, decodeX, hu]

theorem sigm (f : RForm) : Statement (.sigm f) := by
  intro h e rest he; cases he
  exact wordsR rest (lit_none rfl h) fun w ho hu => by simp [decodeInstr, ho, decodeX, hu]

theorem bra (f : IForm) : Statement (.bra f) := by
  intro h e rest he; cases he
  exact wordsI rest (lit_none rfl h) fun w ho hu => by simp [decodeInstr, ho, decodeC, hu]

theorem brz (f : IForm) : Statement (.brz f) := by
  intro h e rest he; cases he
  exact wordsI rest (lit_none rfl h) fun w ho hu => by simp [decodeInstr, ho, decodeC, hu]

theorem brnz (f : IForm) : Statement (.brnz f) := by
  intro h e rest he; cases he
  exact wordsI rest (lit_none rfl h) fun w ho hu => by simp [decodeInstr, ho, decodeC, hu]

theorem call (f : IForm) : Statement (.call f) := by
  intro h e rest he; cases he
  exact wordsI rest (lit_none rfl h) fun w ho hu => by simp [decodeInstr, ho, decodeC, hu]

theorem calli (f : RForm) : Statement (.calli f) := by
  intro h e rest he; cases he
  exact wordsR rest (lit_none rfl h) fun w ho hu => by simp [decodeInstr, ho, decodeC, hu]

theorem ret (f : RForm) : Statement (.ret f) := by
  intro h e rest he; cases he
  exact wordsR rest (lit_none rfl h) fun w ho hu => by simp [decodeInstr, ho, decodeC, hu]

theorem exit (f : RForm) : Statement (.exit f) := by
  intro h e rest he; cases he
  exact wordsR rest (lit_none rfl h) fun w ho hu => by simp [decodeInstr, ho, decodeC, hu]

theorem split (f : IForm) : Statement (.split f) := by
  intro h e rest he; cases he
  exact wordsI rest (lit_none rfl h) fun w ho hu => by simp [decodeInstr, ho, decodeC, hu]

theorem join (f : RForm) : Statement (.join f) := by
  intro h e rest he; cases he
  exact wordsR rest (lit_none rfl h) fun w ho hu => by simp [decodeInstr, ho, decodeC, hu]

theorem yield (f : RForm) : Statement (.yield f) := by
  intro h e rest he; cases he
  exact wordsR rest (lit_none rfl h) fun w ho hu => by simp [decodeInstr, ho, decodeC, hu]

theorem barrive (f : IForm) : Statement (.barrive f) := by
  intro h e rest he; cases he
  exact wordsI rest (lit_none rfl h) fun w ho hu => by simp [decodeInstr, ho, decodeC, hu]

theorem bwait (f : IForm) : Statement (.bwait f) := by
  intro h e rest he; cases he
  exact wordsI rest (lit_none rfl h) fun w ho hu => by simp [decodeInstr, ho, decodeC, hu]

theorem bsync (f : IForm) : Statement (.bsync f) := by
  intro h e rest he; cases he
  exact wordsI rest (lit_none rfl h) fun w ho hu => by simp [decodeInstr, ho, decodeC, hu]

theorem tkget (f : RForm) : Statement (.tkget f) := by
  intro h e rest he; cases he
  exact wordsR rest (lit_none rfl h) fun w ho hu => by simp [decodeInstr, ho, decodeC, hu]

theorem tkwait (f : RForm) : Statement (.tkwait f) := by
  intro h e rest he; cases he
  exact wordsR rest (lit_none rfl h) fun w ho hu => by simp [decodeInstr, ho, decodeC, hu]

theorem tkadv (f : RForm) : Statement (.tkadv f) := by
  intro h e rest he; cases he
  exact wordsR rest (lit_none rfl h) fun w ho hu => by simp [decodeInstr, ho, decodeC, hu]

theorem qpush (f : RForm) : Statement (.qpush f) := by
  intro h e rest he; cases he
  exact wordsR rest (lit_none rfl h) fun w ho hu => by simp [decodeInstr, ho, decodeC, hu]

theorem qpop (f : RForm) : Statement (.qpop f) := by
  intro h e rest he; cases he
  exact wordsR rest (lit_none rfl h) fun w ho hu => by simp [decodeInstr, ho, decodeC, hu]

theorem slice (f : RForm) : Statement (.slice f) := by
  intro h e rest he; cases he
  exact wordsR rest (lit_none rfl h) fun w ho hu => by simp [decodeInstr, ho, decodeC, hu]

theorem grow (f : IForm) : Statement (.grow f) := by
  intro h e rest he; cases he
  exact wordsI rest (lit_allowed rfl h) fun w ho hu => by simp [decodeInstr, ho, decodeC, hu]

theorem trap (f : IForm) : Statement (.trap f) := by
  intro h e rest he; cases he
  exact wordsI rest (lit_none rfl h) fun w ho hu => by simp [decodeInstr, ho, decodeC, hu]

theorem tret (f : RForm) : Statement (.tret f) := by
  intro h e rest he; cases he
  exact wordsR rest (lit_none rfl h) fun w ho hu => by simp [decodeInstr, ho, decodeC, hu]

theorem nop (f : RForm) : Statement (.nop f) := by
  intro h e rest he; cases he
  exact wordsR rest (lit_none rfl h) fun w ho hu => by simp [decodeInstr, ho, decodeC, hu]

theorem sread (f : IForm) : Statement (.sread f) := by
  intro h e rest he; cases he
  exact wordsI rest (lit_none rfl h) fun w ho hu => by simp [decodeInstr, ho, decodeC, hu]

theorem swrite (f : IForm) : Statement (.swrite f) := by
  intro h e rest he; cases he
  exact wordsI rest (lit_none rfl h) fun w ho hu => by simp [decodeInstr, ho, decodeC, hu]

theorem pmap (f : RForm) : Statement (.pmap f) := by
  intro h e rest he; cases he
  exact wordsR rest (lit_none rfl h) fun w ho hu => by simp [decodeInstr, ho, decodeC, hu]

theorem migr (f : RForm) : Statement (.migr f) := by
  intro h e rest he; cases he
  exact wordsR rest (lit_none rfl h) fun w ho hu => by simp [decodeInstr, ho, decodeC, hu]

theorem waitfe (f : RForm) : Statement (.waitfe f) := by
  intro h e rest he; cases he
  exact wordsR rest (lit_none rfl h) fun w ho hu => by simp [decodeInstr, ho, decodeC, hu]

theorem sadd (f : RForm) : Statement (.sadd f) := by
  intro h e rest he; cases he
  exact wordsR rest (lit_allowed rfl h) fun w ho hu => by simp [decodeInstr, ho, decodeS, hu]

theorem ssub (f : RForm) : Statement (.ssub f) := by
  intro h e rest he; cases he
  exact wordsR rest (lit_allowed rfl h) fun w ho hu => by simp [decodeInstr, ho, decodeS, hu]

theorem smul (f : RForm) : Statement (.smul f) := by
  intro h e rest he; cases he
  exact wordsR rest (lit_allowed rfl h) fun w ho hu => by simp [decodeInstr, ho, decodeS, hu]

theorem sand (f : RForm) : Statement (.sand f) := by
  intro h e rest he; cases he
  exact wordsR rest (lit_allowed rfl h) fun w ho hu => by simp [decodeInstr, ho, decodeS, hu]

theorem sor (f : RForm) : Statement (.sor f) := by
  intro h e rest he; cases he
  exact wordsR rest (lit_allowed rfl h) fun w ho hu => by simp [decodeInstr, ho, decodeS, hu]

theorem sxor (f : RForm) : Statement (.sxor f) := by
  intro h e rest he; cases he
  exact wordsR rest (lit_allowed rfl h) fun w ho hu => by simp [decodeInstr, ho, decodeS, hu]

theorem snot (f : RForm) : Statement (.snot f) := by
  intro h e rest he; cases he
  exact wordsR rest (lit_none rfl h) fun w ho hu => by simp [decodeInstr, ho, decodeS, hu]

theorem sandn (f : RForm) : Statement (.sandn f) := by
  intro h e rest he; cases he
  exact wordsR rest (lit_allowed rfl h) fun w ho hu => by simp [decodeInstr, ho, decodeS, hu]

theorem sshl (f : RForm) : Statement (.sshl f) := by
  intro h e rest he; cases he
  exact wordsR rest (lit_allowed rfl h) fun w ho hu => by simp [decodeInstr, ho, decodeS, hu]

theorem sshr (f : RForm) : Statement (.sshr f) := by
  intro h e rest he; cases he
  exact wordsR rest (lit_allowed rfl h) fun w ho hu => by simp [decodeInstr, ho, decodeS, hu]

theorem scmp (f : RForm) : Statement (.scmp f) := by
  intro h e rest he; cases he
  exact wordsR rest (lit_allowed rfl h) fun w ho hu => by simp [decodeInstr, ho, decodeS, hu]

theorem ssel (f : RForm) : Statement (.ssel f) := by
  intro h e rest he; cases he
  exact wordsR rest (lit_allowed rfl h) fun w ho hu => by simp [decodeInstr, ho, decodeS, hu]

theorem spopc (f : RForm) : Statement (.spopc f) := by
  intro h e rest he; cases he
  exact wordsR rest (lit_none rfl h) fun w ho hu => by simp [decodeInstr, ho, decodeS, hu]

theorem sffs (f : RForm) : Statement (.sffs f) := by
  intro h e rest he; cases he
  exact wordsR rest (lit_none rfl h) fun w ho hu => by simp [decodeInstr, ho, decodeS, hu]

theorem smov (f : RForm) : Statement (.smov f) := by
  intro h e rest he; cases he
  exact wordsR rest (lit_none rfl h) fun w ho hu => by simp [decodeInstr, ho, decodeS, hu]

theorem smovi (f : IForm) : Statement (.smovi f) := by
  intro h e rest he; cases he
  exact wordsI rest (lit_allowed rfl h) fun w ho hu => by simp [decodeInstr, ho, decodeS, hu]

theorem sldk (f : MForm) : Statement (.sldk f) := by
  intro h e rest he; cases he
  exact wordsM rest rfl fun w ho hu => by simp_all [decodeInstr, Instr.wellFormed, decodeS]

theorem sld (f : MForm) : Statement (.sld f) := by
  intro h e rest he; cases he
  exact wordsM rest rfl fun w ho hu => by simp_all [decodeInstr, Instr.wellFormed, decodeS]

theorem sst (f : MForm) : Statement (.sst f) := by
  intro h e rest he; cases he
  exact wordsM rest rfl fun w ho hu => by simp_all [decodeInstr, Instr.wellFormed, decodeS]

theorem satom (f : AForm) : Statement (.satom f) := by
  intro h e rest he; cases he
  exact wordsA rest (lit_allowed rfl h) fun w ho hu => by simp [decodeInstr, ho, decodeS, hu]

theorem tdesc (f : IForm) : Statement (.tdesc f) := by
  intro h e rest he; cases he
  exact wordsI rest (lit_allowed rfl h) fun w ho hu => by simp [decodeInstr, ho, decodeT, hu]

theorem mopf (f : RForm) : Statement (.mopf f) := by
  intro h e rest he; cases he
  exact wordsR rest (lit_none rfl h) fun w ho hu => by simp [decodeInstr, ho, decodeT, hu]

theorem mma (f : RForm) : Statement (.mma f) := by
  intro h e rest he; cases he
  exact wordsR rest (lit_none rfl h) fun w ho hu => by simp [decodeInstr, ho, decodeT, hu]

theorem mmasp (f : RForm) : Statement (.mmasp f) := by
  intro h e rest he; cases he
  exact wordsR rest (lit_none rfl h) fun w ho hu => by simp [decodeInstr, ho, decodeT, hu]

theorem mwait (f : RForm) : Statement (.mwait f) := by
  intro h e rest he; cases he
  exact wordsR rest (lit_none rfl h) fun w ho hu => by simp [decodeInstr, ho, decodeT, hu]

theorem mzero (f : RForm) : Statement (.mzero f) := by
  intro h e rest he; cases he
  exact wordsR rest (lit_none rfl h) fun w ho hu => by simp [decodeInstr, ho, decodeT, hu]

theorem epi (f : RForm) : Statement (.epi f) := by
  intro h e rest he; cases he
  exact wordsR rest (lit_none rfl h) fun w ho hu => by simp [decodeInstr, ho, decodeT, hu]

theorem msave (f : RForm) : Statement (.msave f) := by
  intro h e rest he; cases he
  exact wordsR rest (lit_none rfl h) fun w ho hu => by simp [decodeInstr, ho, decodeT, hu]

theorem mrest (f : RForm) : Statement (.mrest f) := by
  intro h e rest he; cases he
  exact wordsR rest (lit_none rfl h) fun w ho hu => by simp [decodeInstr, ho, decodeT, hu]

theorem mstat (f : RForm) : Statement (.mstat f) := by
  intro h e rest he; cases he
  exact wordsR rest (lit_none rfl h) fun w ho hu => by simp [decodeInstr, ho, decodeT, hu]

theorem xcopy (f : RForm) : Statement (.xcopy f) := by
  intro h e rest he; cases he
  exact wordsR rest (lit_none rfl h) fun w ho hu => by simp [decodeInstr, ho, decodeE, hu]

theorem xcopyy (f : IForm) : Statement (.xcopyy f) := by
  intro h e rest he; cases he
  exact wordsI rest (lit_none rfl h) fun w ho hu => by simp [decodeInstr, ho, decodeE, hu]

theorem rinit (f : RForm) : Statement (.rinit f) := by
  intro h e rest he; cases he
  exact wordsR rest (lit_none rfl h) fun w ho hu => by simp [decodeInstr, ho, decodeE, hu]

theorem rawait (f : RForm) : Statement (.rawait f) := by
  intro h e rest he; cases he
  exact wordsR rest (lit_none rfl h) fun w ho hu => by simp [decodeInstr, ho, decodeE, hu]

theorem rrel (f : RForm) : Statement (.rrel f) := by
  intro h e rest he; cases he
  exact wordsR rest (lit_none rfl h) fun w ho hu => by simp [decodeInstr, ho, decodeE, hu]

theorem copen (f : RForm) : Statement (.copen f) := by
  intro h e rest he; cases he
  exact wordsR rest (lit_none rfl h) fun w ho hu => by simp [decodeInstr, ho, decodeE, hu]

theorem cform (f : RForm) : Statement (.cform f) := by
  intro h e rest he; cases he
  exact wordsR rest (lit_none rfl h) fun w ho hu => by simp [decodeInstr, ho, decodeE, hu]

theorem csave (f : RForm) : Statement (.csave f) := by
  intro h e rest he; cases he
  exact wordsR rest (lit_none rfl h) fun w ho hu => by simp [decodeInstr, ho, decodeE, hu]

theorem crest (f : RForm) : Statement (.crest f) := by
  intro h e rest he; cases he
  exact wordsR rest (lit_none rfl h) fun w ho hu => by simp [decodeInstr, ho, decodeE, hu]

theorem hgath (f : RForm) : Statement (.hgath f) := by
  intro h e rest he; cases he
  exact wordsR rest (lit_none rfl h) fun w ho hu => by simp [decodeInstr, ho, decodeE, hu]

theorem hscat (f : RForm) : Statement (.hscat f) := by
  intro h e rest he; cases he
  exact wordsR rest (lit_none rfl h) fun w ho hu => by simp [decodeInstr, ho, decodeE, hu]

theorem trace (f : RForm) : Statement (.trace f) := by
  intro h e rest he; cases he
  exact wordsR rest (lit_none rfl h) fun w ho hu => by simp [decodeInstr, ho, decodeE, hu]

theorem coll (f : RForm) : Statement (.coll f) := by
  intro h e rest he; cases he
  exact wordsR rest (lit_none rfl h) fun w ho hu => by simp [decodeInstr, ho, decodeE, hu]

theorem pcnt (f : RForm) : Statement (.pcnt f) := by
  intro h e rest he; cases he
  exact wordsR rest (lit_none rfl h) fun w ho hu => by simp [decodeInstr, ho, decodeE, hu]

theorem ccancel (f : RForm) : Statement (.ccancel f) := by
  intro h e rest he; cases he
  simp only [Instr.wellFormed, Bool.and_eq_true] at h
  exact wordsR rest (lit_none rfl h.1) fun w ho hu => by simp_all [decodeInstr, decodeE]

theorem ccancelCut (f : RForm) : Statement (.ccancelCut f) := by
  intro h e rest he; cases he
  simp only [Instr.wellFormed, Bool.and_eq_true] at h
  exact wordsR rest (lit_none rfl h.1) fun w ho hu => by simp_all [decodeInstr, decodeE]

theorem nstore (f : RForm) : Statement (.nstore f) := by
  intro h e rest he; cases he
  exact wordsR rest (lit_none rfl h) fun w ho hu => by simp [decodeInstr, ho, decodeE, hu]

theorem nfetchRd (f : RForm) : Statement (.nfetchRd f) := by
  intro h e rest he; cases he
  simp only [Instr.wellFormed, Bool.and_eq_true] at h
  exact wordsR rest (lit_none rfl h.1.1) fun w ho hu => by simp_all [decodeInstr, decodeE]

theorem nfetchAdd (f : RForm) : Statement (.nfetchAdd f) := by
  intro h e rest he; cases he
  simp only [Instr.wellFormed, Bool.and_eq_true] at h
  exact wordsR rest (lit_none rfl h.1) fun w ho hu => by simp_all [decodeInstr, decodeE]

theorem nfetchCas (f : RForm) : Statement (.nfetchCas f) := by
  intro h e rest he; cases he
  simp only [Instr.wellFormed, Bool.and_eq_true] at h
  exact wordsR rest (lit_none rfl h.1) fun w ho hu => by simp_all [decodeInstr, decodeE]

theorem nsig (f : RForm) : Statement (.nsig f) := by
  intro h e rest he; cases he
  exact wordsR rest (lit_none rfl h) fun w ho hu => by simp [decodeInstr, ho, decodeE, hu]

theorem vpubOpen (f : RForm) : Statement (.vpubOpen f) := by
  intro h e rest he; cases he
  simp only [Instr.wellFormed, Bool.and_eq_true] at h
  exact wordsR rest (lit_none rfl h.1) fun w ho hu => by simp_all [decodeInstr, decodeE]

theorem vpubPub (f : RForm) : Statement (.vpubPub f) := by
  intro h e rest he; cases he
  simp only [Instr.wellFormed, Bool.and_eq_true] at h
  exact wordsR rest (lit_none rfl h.1) fun w ho hu => by simp_all [decodeInstr, decodeE]

theorem vpin (f : RForm) : Statement (.vpin f) := by
  intro h e rest he; cases he
  exact wordsR rest (lit_none rfl h) fun w ho hu => by simp [decodeInstr, ho, decodeE, hu]

theorem vunpin (f : RForm) : Statement (.vunpin f) := by
  intro h e rest he; cases he
  exact wordsR rest (lit_none rfl h) fun w ho hu => by simp [decodeInstr, ho, decodeE, hu]

theorem vemit (f : RForm) : Statement (.vemit f) := by
  intro h e rest he; cases he
  exact wordsR rest (lit_none rfl h) fun w ho hu => by simp [decodeInstr, ho, decodeE, hu]

theorem pemit (f : RForm) : Statement (.pemit f) := by
  intro h e rest he; cases he
  exact wordsR rest (lit_none rfl h) fun w ho hu => by simp [decodeInstr, ho, decodeE, hu]

theorem fout (f : RForm) : Statement (.fout f) := by
  intro h e rest he; cases he
  exact wordsR rest (lit_none rfl h) fun w ho hu => by simp [decodeInstr, ho, decodeE, hu]

theorem rfence (f : RForm) : Statement (.rfence f) := by
  intro h e rest he; cases he
  exact wordsR rest (lit_none rfl h) fun w ho hu => by simp [decodeInstr, ho, decodeE, hu]

theorem inputPowerReturn : Statement .inputPowerReturn := by
  intro _ e _ he; cases he

theorem dieLinkFailure : ∀ a, Statement (.dieLinkFailure a) := by
  intros; intro _ e _ he; cases he

theorem msaveMrestTransfer : ∀ a, Statement (.msaveMrestTransfer a) := by
  intros; intro _ e _ he; cases he

theorem badopRequest : Statement .badopRequest := by
  intro _ e _ he; cases he

theorem unassignedOpcode (cls : BitVec 3) (w : W64) : Statement (.unassignedOpcode cls w) := by
  intro h e rest he; cases he
  have h : assignedOp cls.toNat (opField w).toNat = false := by simpa [Instr.wellFormed, opField] using h
  refine decodeWords_of rest ?_ ?_
  · simp [takesLiteral, literal_assigned h]
  · simp only [decodeInstr]
    have := none_unassigned (w := w) (lit := none) h
    split at this <;> simp_all

end Sys2Proof.Laws.RoundTrip
end

