-- ==== Sys2Proof/Tests/Slice0.lean ====
section
/-! SUPPORT. Tests of the model: what well-formedness refuses, words written out from the encoding tables of the spec, and
for each statement states and operands that meet its hypotheses. -/

namespace Sys2Proof.Tests

set_option Elab.async false

open Sys2Proof Sys2Proof.Machine

/-! ## States for tests -/

/-- The unit about which the tests are: group 0 of the team that `withFetchWord` places, or its caller. -/
def unitOf (caller : Bool) : UnitRef := ⟨State.reset.nextId + 1, if caller then none else some 0⟩

/-- The reset machine with a team that stands at an instruction, with its unit and the rest of the machine changed. -/
def about (caller : Bool) (i : Instr) (f : UnitState → UnitState) (g : State → State) : State :=
  match encode i with
  | none => g State.reset
  | some e =>
    let lit : Nat := match e.lit with | some l => l.toNat | none => 0
    let head : Nat := (if e.lit.isSome then 1 else 0) + 16 * e.cls.toNat + (if caller then 128 else 0)
    let s := State.reset.withFetchWord 192 (head + 2 ^ 64 * e.word.toNat + 2 ^ 128 * lit)
    let s := { s with focus := some ⟨unitOf caller, 0⟩ }
    g (s.modUnit (unitOf caller) f)

/-- Whether issue lets an instruction through in that state, with a condition on the context and the state it acts in. -/
def lets (caller : Bool) (i : Instr) (f : UnitState → UnitState) (g : State → State) (p : Ctx → State → Bool) : Bool :=
  match issued i (about caller i f g) with
  | some (c, s0) => p c s0
  | none => false

/-- A group lets an instruction through with every register zero. -/
def runs (i : Instr) : Bool := lets false i id id fun _ _ => true

/-- A caller lets an instruction through with every register zero. -/
def runsC (i : Instr) : Bool := lets true i id id fun _ _ => true

def vec (r : Nat) (v : W32) (u : UnitState) : UnitState := (List.range 32).foldl (fun u l => u.setVreg r l v) u
def scl (r : Nat) (v : W64) (u : UnitState) : UnitState := u.setSreg r v

/-- An R form without a literal. -/
def R (d a b c : BitVec 9) (mod : BitVec 8) : RForm := ⟨d, a, b, c, false, false, false, 0, mod, none⟩

/-- An I or B form without a literal. -/
def I (d a : BitVec 9) (imm : BitVec 18) (mod : BitVec 8) : IForm := ⟨d, a, imm, false, false, false, 0, mod, none⟩

/-- An M form. -/
def M (d a : BitVec 9) (off : BitVec 18) (mod : BitVec 8) : MForm := ⟨d, a, off, false, false, false, 0, mod⟩

/-- An A form without a literal. -/
def A (d a b : BitVec 9) (scope : BitVec 5) (aop : BitVec 4) (mod : BitVec 8) : AForm :=
  ⟨d, a, b, scope, aop, false, false, false, 0, mod, none⟩

/-- A window at virtual address 0 with every permission, the first pages of HBM present behind it, and the notify pages
elsewhere (R56, R128, R132). -/
def mapped (s : State) : State :=
  let s := (s.modTeam (State.reset.nextId + 1) fun t => { t with wins := [(0, 0x2AF)] }).modContext 0 fun x => { x with regs := [(0, 0x2AF)] }
  { s with mgmt := { s.mgmt with nbase := 2 ^ 40 }
           mem := { s.mem with level1 := [(0, 1)], ptes := (List.range 4).map fun k => (k, presentEntry k 0 false) } }

/-- Bytes at an address of those pages. -/
def holding (a : Nat) (bs : Bytes) (s : State) : State :=
  (List.range bs.length).foldl (fun s i => hbmSet s (a + i) (bs.getD i 0)) s

/-! ## Well-formedness (R281, R297, R383, R421, R426, R11, R36, R54) -/

/-- A term for each check that the check refuses. -/
theorem test_wellFormed_refuses :
    ([.iadd (R 4 1 2 0 0x80), .iadd { R 4 1 2 0 0 with lit := some 7 }, .popc { R 4 1 0 0 0 with lit := some 7 },
      .smovi { I 0x104 0 1 0 with lit := some 3 }, .atom { A 10 8 2 3 0 2 with lit := some 1 },
      .cctlInv (M 0x1C0 4 0 0), .cctlClrp (M 0x1C1 4 0 0), .cctlWb (M 0x1C1 4 0 0), .nfetchRd (R 4 0x101 0x102 0 8),
      .nfetchAdd (R 4 0x101 0x102 0 0), .nfetchCas (R 4 0x101 0x102 0 8), .ccancelCut (R 0 0x101 0x102 0 0), .ccancel (R 0 0x101 0x102 0 1),
      .vpubPub (R 0 0x101 0 0 0), .vpubOpen (R 0 0x101 0 0 1), .unassignedOpcode 0 0x001,
      .linkUp 8, .ackTimeout 0 4096, .powerCapCheck 3000 4, .thermalThresholdCrossed 32 20, .mscWayRetirement 64 0, .mscWayRetirement 0 16,
      .entryDecode 4096, .governorPeriod 4096, .clauseSelect 128 0, .clauseSelect 0 16, .pinLandingAdmit 64 0, .copyRecordStart 512,
      .collDataSend 4 0] : List Instr).all (fun i => i.wellFormed = false) = true := by decide +kernel

/-- The same terms with the field in range. -/
theorem test_wellFormed_accepts :
    ([.iadd { R 4 1 2 0 0x80 with lit := some 7 }, .popc (R 4 1 0 0 0), .smovi { I 0x104 0 1 0x80 with lit := some 3 }, .cctlInv (M 0x1C1 4 0 0),
      .cctlClrp (M 0x1C2 4 0 0), .cctlWb (M 0x1C0 4 0 0), .nfetchRd (R 4 0x101 0x102 0 0), .nfetchAdd (R 4 0x101 0x102 0 8),
      .nfetchCas (R 4 0x101 0x102 0 16), .ccancelCut (R 0 0x101 0x102 0 1), .vpubPub (R 0 0x101 0 0 1), .unassignedOpcode 0 0x3FF,
      .linkUp 7, .ackTimeout 7 4095, .powerCapCheck 3000 3, .thermalThresholdCrossed 31 20, .mscWayRetirement 63 15, .entryDecode 4095,
      .clauseSelect 127 15, .pinLandingAdmit 63 0, .copyRecordStart 511, .collDataSend 3 0] : List Instr).all (·.wellFormed) = true := by decide +kernel

/-! ## Words written out from the encoding tables (R276 to R281, R297 to R305) -/

/-- Words of the spec's programs and tables, with the fields at the bits that R276 to R279 give. -/
theorem test_decode_scalar :
    decodeInstr 4 0x030000000C041811 none = .sldk ⟨0x106, 0x180, 0x0, false, false, false, 0, 0x3⟩ ∧
    decodeInstr 4 0x0300001C3C1C1C09 none = .sshl ⟨0x107, 0x183, 0x1c3, 0x0, false, false, false, 0, 0x3, none⟩ ∧
    decodeInstr 4 0x0300186A00041410 none = .smovi ⟨0x105, 0x0, 0x186a0, false, false, false, 0, 0x3, none⟩ ∧
    decodeInstr 4 0x0300000008340C13 none = .sst ⟨0x103, 0x106, 0x0, false, false, false, 0, 0x3⟩ := by decide +kernel

theorem test_decode_vector :
    decodeInstr 0 0x0808000000100C2A none = .scan ⟨0x3, 0x2, 0x0, 0x0, false, false, false, 4, 0x8, none⟩ ∧
    decodeInstr 0 0x2C00010000100421 none = .cvt ⟨0x1, 0x2, 0x0, 0x8, false, false, false, 0, 0x2c, none⟩ := by decide +kernel

theorem test_decode_control :
    decodeInstr 5 0x00000010280C0C03 none = .mma ⟨0x103, 0x101, 0x102, 0x0, false, false, false, 0, 0x0, none⟩ ∧
    decodeInstr 5 0x010000000C000005 none = .mwait ⟨0x0, 0x180, 0x0, 0x0, false, false, false, 0, 0x1, none⟩ ∧
    decodeInstr 3 0x0000000000000007 none = .exit ⟨0x0, 0x0, 0x0, 0x0, false, false, false, 0, 0x0, none⟩ ∧
    decodeInstr 3 0x0000000000000013 none = .slice ⟨0x0, 0x0, 0x0, 0x0, false, false, false, 0, 0x0, none⟩ ∧
    decodeInstr 5 0x0000000000000002 none = .mopf ⟨0x0, 0x0, 0x0, 0x0, false, false, false, 0, 0x0, none⟩ := by decide +kernel

theorem test_decode_engine :
    decodeInstr 6 0x0000001C185E0412 none = .nsig ⟨0x181, 0x10b, 0x1c1, 0x0, false, false, false, 0, 0x0, none⟩ ∧
    decodeInstr 6 0x0000001040A05C0A none = .hgath ⟨0x17, 0x14, 0x104, 0x0, false, false, false, 0, 0x0, none⟩ ∧
    decodeInstr 3 0x000000700000000D none = .bsync ⟨0x0, 0x0, 0x700, false, false, false, 0, 0x0, none⟩ ∧
    decodeInstr 0 0x0828000080602018 none = .fadd ⟨0x8, 0xc, 0x8, 0x0, false, false, false, 20, 0x8, none⟩ := by decide +kernel

/-- R297, R275: an opcode that its class leaves free is an unassigned opcode; a literal that is not there is an error. -/
theorem test_decode_refuses :
    (decodeWords 0 [0x3F]).toOption = some (.unassignedOpcode 0 0x3F, []) ∧ (decodeWords 0 []).toOption = none ∧
    (decodeWords 0 [0x8000000000301401]).toOption = none := by decide +kernel

/-! ## Results on fixed operands, by hand from the rules -/

/-- The words of lane 0 of register 4 after a group has executed an instruction. -/
def result (i : Instr) (f : UnitState → UnitState) (n : Nat := 1) : List W32 :=
  match exec i (about false i f id) with
  | .next t => match t.unit? (unitOf false) with | some u => (List.range n).map fun k => u.vreg (4 + k) 0 | none => []
  | _ => []

/-- Scalar register 4 after a group has executed an instruction. -/
def resultS (i : Instr) (f : UnitState → UnitState) : W64 :=
  match exec i (about false i f id) with
  | .next t => match t.unit? (unitOf false) with | some u => u.sreg 4 | none => 0
  | _ => 0

/-- R346: a sum wraps at 2^32, and is clamped with SAT. -/
theorem test_iadd_wraps : result (.iadd (R 4 1 2 0 0)) (vec 1 0x7FFFFFFF ∘ vec 2 1) = [0x80000000] := by decide +kernel
theorem test_iadd_saturates : result (.iadd (R 4 1 2 0 0x40)) (vec 1 0x7FFFFFFF ∘ vec 2 1) = [0x7FFFFFFF] := by decide +kernel
theorem test_isub_same_source : result (.isub (R 4 4 1 0 1)) (vec 4 3 ∘ vec 1 5) = [0xFFFFFFFE] := by decide +kernel
theorem test_imulhi_signed : result (.imulhi (R 4 1 2 0 0)) (vec 1 0xFFFFFFFF ∘ vec 2 2) = [0xFFFFFFFF] := by decide +kernel
/-- R347: a shift by the width or more gives 0, and SAR the sign. -/
theorem test_shl_by_width : result (.shl (R 4 1 2 0 1)) (vec 1 1 ∘ vec 2 32) = [0] := by decide +kernel
theorem test_sar_by_width : result (.sar (R 4 1 2 0 0)) (vec 1 0x80000000 ∘ vec 2 40) = [0xFFFFFFFF] := by decide +kernel
theorem test_clz_zero : result (.clz (R 4 1 0 0 1)) id = [32] := by decide +kernel
/-- R352: 1 + 2^-24 is a tie and goes to the even 1; R354: one NaN gives the other operand. -/
theorem test_fadd_tie : result (.fadd (R 4 1 2 0 8)) (vec 1 0x3F800000 ∘ vec 2 0x33800000) = [0x3F800000] := by decide +kernel
theorem test_fmin_nan : result (.fmin (R 4 1 2 0 8)) (vec 1 0x7FC00000 ∘ vec 2 0x40000000) = [0x40000000] := by decide +kernel
theorem test_ffma_exact : result (.ffma (R 4 1 2 3 8)) (vec 1 0x40000000 ∘ vec 2 0x40400000 ∘ vec 3 0x3F800000) = [0x40E00000] := by decide +kernel
/-- R351: LEA carries into the high word of its pair. -/
theorem test_lea_carry : result (.lea (R 4 0x101 2 0x102 1)) (scl 1 0xFFFFFFFC ∘ vec 2 1 ∘ scl 2 2) 2 = [0, 1] := by decide +kernel
/-- R313, R314: a scalar result of 32 bits is extended by its sign. -/
theorem test_sadd_extends : resultS (.sadd (R 0x104 0x101 0x102 0 0)) (scl 1 0x7FFFFFFF ∘ scl 2 1) = 0xFFFFFFFF80000000 := by decide +kernel
theorem test_sffs_zero : resultS (.sffs (R 0x104 0x101 0 0 3)) id = 64 := by decide +kernel

/-! ## Witnesses: the hypotheses of the statements about vector and scalar instructions -/

/-- R361: the instructions of each statement, which a group lets through. -/
theorem witness_VectorIntegerArithmetic :
    [Instr.iadd (R 4 1 2 0 0), .isub (R 4 1 2 0 1), .imul (R 4 1 2 0 4), .imulhi (R 4 1 2 0 1), .imad (R 4 1 2 3 0), .imin (R 255 1 2 0 5),
     .imax (R 4 0x101 2 0 0), .iabs (R 4 1 0 0 0)].all runs = true := by decide +kernel

theorem witness_ResultReduction : 0 < (rType (R 4 1 2 0 0)).w := by decide

theorem witness_VectorBitsAndShifts :
    [Instr.andV (R 4 1 2 0 0), .orV (R 4 1 2 0 1), .xorV (R 4 1 2 0 1), .notV (R 4 1 0 0 1), .brev (R 4 1 0 0 1), .mov (R 4 1 0 0 1),
     .shl (R 4 1 2 0 1), .shr (R 4 1 2 0 1), .sar (R 4 1 2 0 0), .bfe (R 4 1 2 0 1), .bfi (R 4 1 2 3 1), .popc (R 4 1 0 0 1),
     .clz (R 4 1 0 0 0)].all runs = true := by decide +kernel

theorem witness_VectorComparisons :
    [Instr.icmp (R 4 1 2 0 0), .icmp (R 0x104 1 2 0 0x50), .fcmp (R 0x104 1 2 0 8), .fcmp (R 4 1 2 0 0x18)].all runs = true := by decide +kernel

theorem witness_VectorSelectionAndMoves :
    [Instr.sel (R 4 1 2 3 0), .sel (R 4 1 2 0x103 0), .fclass (R 4 1 0 0 8), .fsel (R 4 1 2 3 8), .lea (R 4 0x101 2 3 0), .movi (I 4 0 7 0),
     .movi (I 4 0 7 2), .movs (R 0x104 1 0 0 0), .movs (R 4 0x101 0 0 2)].all runs = true := by decide +kernel

theorem witness_VectorFloatResults :
    [Instr.fadd (R 4 1 2 0 8), .fsub (R 4 1 2 0 9), .fmul (R 4 1 2 0 10), .ffma (R 4 1 2 3 8), .frnd (R 4 1 0 0 8), .rcp (R 4 1 0 0 8),
     .rsq (R 4 1 0 0 8), .sqrt (R 4 1 0 0 8), .exp2 (R 4 1 0 0 8), .log2 (R 4 1 0 0 8), .sin (R 4 1 0 0 8), .cos (R 4 1 0 0 8),
     .tanh (R 4 1 0 0 8), .sigm (R 4 1 0 0 8)].all runs = true := by decide +kernel

/-- A launch under policy 2, in which a non-finite result raises cause 0x10 (R183). -/
def policy2 (s : State) : State := s.modLaunch State.reset.nextId fun l => { l with nfpol := 2 }

/-- FloatStep: a result that traps under policy 2, and one that does not. -/
theorem witness_FloatStep_traps :
    lets false (.fadd (R 4 1 2 0 8)) (vec 1 0x7F800000) policy2 (fun c s0 => c.lanes.any fun l =>
      traps c.launch.nfpol .f32 (roundTo .f32 ((valueOf .f32 (opnd s0 c 1 (rType (R 4 1 2 0 8)) l)).add .rne
        (valueOf .f32 (opnd s0 c 2 (rType (R 4 1 2 0 8)) l))) .rne)) = true := by decide +kernel

theorem witness_MinMaxAndDotProduct_traps :
    lets false (.fmin (R 4 1 2 0 8)) (vec 1 0x7FC00000 ∘ vec 2 0x7FC00000) policy2 (fun c s0 =>
      decide (c.launch.nfpol = 2) && c.lanes.any fun l =>
        (minMaxCode false .f32 (opnd s0 c 1 (rType (R 4 1 2 0 8)) l) (opnd s0 c 2 (rType (R 4 1 2 0 8)) l)).2) = true := by decide +kernel

theorem witness_MinMaxAndDotProduct :
    [Instr.fmin (R 4 1 2 0 8), .fmax (R 4 1 2 0 9), .dot4 (R 4 1 2 3 6), .dot4 (R 4 1 2 3 7), .dot4 (R 4 1 2 3 11),
     .dot4 (R 4 1 2 3 12)].all runs = true := by decide +kernel

/-- One form of each conversion with the formats that its clause names. -/
theorem witness_FormatConversions :
    (let cvt := R 4 1 0 8 9; let srnd := R 4 1 2 8 9; let pk := R 4 1 2 8 11; let un := R 4 1 0 32 8; let dq := R 4 1 2 16 8; let qb := R 4 1 0 8 15
     (decide (cvDst cvt = some (.num .f16)) && decide (cvSrc cvt = some (.num .f32)) && runs (.cvt cvt)) &&
     (decide (cvDst srnd = some (.num .f16)) && runs (.srnd srnd)) &&
     ((packRow pk).isSome && runs (.pack pk)) && ((unpackRow un).isSome && runs (.unpack un)) &&
     (decide (cvDst dq = some (.num .f32)) && decide (cvSrc dq = some .mxf4 ∨ cvSrc dq = some .mxi8) && runs (.dqblk dq)) &&
     (decide (cvDst qb = some .mxf4 ∨ cvDst qb = some .mxi8) && decide (cvSrc qb = some (.num .f32)) && runs (.qblk qb))) = true := by decide +kernel

/-- Two packed halves from one pair: the count 2 of SRND. -/
theorem witness_FormatConversions_packed :
    ([11, 12].any fun m => match cvDst (R 4 2 6 8 m) with | some (.packed _) => runs (.srnd (R 4 2 6 8 m)) | _ => false) = true := by decide +kernel

/-- A block that QBLK quantises, and one that it cannot under policy 2. -/
theorem witness_QuantisedBlock :
    (lets false (.qblk (R 4 1 0 8 15)) id id (fun c s0 => c.lanes.all fun l =>
       (quantise c.launch.nfpol false (blockCodes s0 c 1 .f32 (l / 32))).isSome) &&
     lets false (.qblk (R 4 1 0 8 15)) (vec 1 0x7F800000) policy2 (fun c s0 => c.lanes.any fun l =>
       (quantise c.launch.nfpol false (blockCodes s0 c 1 .f32 (l / 32))).isNone)) = true := by decide +kernel

theorem witness_LaneOperations :
    [Instr.shfl (R 4 1 2 0 0), .shfl (R 4 1 2 5 0x10), .vote (R 0x104 1 0 0 0), .vote (R 0x104 1 0 0 0x30), .bcast (R 4 1 0x102 0 0), .rdx (R 4 1 0 0 0),
     .rdx (R 0x104 1 0 0 8), .scan (R 4 1 0 0 0), .scan (R 4 1 0 1 0)].all runs = true := by decide +kernel

/-- BCAST of a dead lane, whose value is free: the team has 32 lanes, and a launch of 8 leaves lane 31 dead. -/
theorem witness_LaneOperations_dead :
    lets false (.bcast (R 4 1 0x102 0 0)) (scl 2 31) (fun s => s.modLaunch State.reset.nextId fun l => { l with tx := 8 }) (fun c s0 =>
      !(decide (c.u.grp.getD 0 * c.w + (sval s0 c 0x102).toNat % 2 ^ 32 % c.w < c.launch.tx * c.launch.ty * c.launch.tz))) = true := by
  decide +kernel

/-- A reduction that does not meet a non-finite combination, and one that does under policy 2. -/
theorem witness_LaneOperations_reduction :
    (lets false (.rdx (R 4 1 0 0 8)) (vec 1 0x3F800000) id (fun c s0 =>
       ((treeReduce (rdxCombine c.launch.nfpol (rType (R 4 1 0 0 8)) (modeField (R 4 1 0 0 8))) (clog2 c.w) (rdxPositions s0 c (R 4 1 0 0 8))).getD (0, true)).2 = false) &&
     lets false (.rdx (R 4 1 0 0 8)) (vec 1 0x7F000000) policy2 (fun c s0 =>
       ((treeReduce (rdxCombine c.launch.nfpol (rType (R 4 1 0 0 8)) (modeField (R 4 1 0 0 8))) (clog2 c.w) (rdxPositions s0 c (R 4 1 0 0 8))).getD (0, false)).2)) =
      true := by decide +kernel

theorem witness_LaneOperations_scan :
    (lets false (.scan (R 4 1 0 0 8)) (vec 1 0x7F000000) policy2 (fun c s0 =>
       ((List.range (clog2 c.w)).foldl (fun v j => scanStep (rdxCombine c.launch.nfpol (rType (R 4 1 0 0 8)) (modeField (R 4 1 0 0 8))) (2 ^ j) v)
         (rdxPositions s0 c (R 4 1 0 0 8))).any fun p => p.any (·.2))) = true := by decide +kernel

theorem witness_ScalarArithmetic :
    [Instr.sadd (R 0x104 0x101 0x102 0 0), .ssub (R 0x104 0x101 0x102 0 1), .smul (R 0x104 0x101 0x102 0 2), .sand (R 0x104 0x101 0x102 0 3),
     .sor (R 0x104 0x101 0x102 0 3), .sxor (R 0x104 0x101 0x102 0 3), .snot (R 0x104 0x101 0 0 3), .sandn (R 0x104 0x101 0x102 0 3),
     .sshl (R 0x104 0x101 0x102 0 3), .sshr (R 0x104 0x101 0x102 0 3), .scmp (R 0x104 0x101 0x102 0 0x23), .ssel (R 0x104 0x101 0x102 0x103 3),
     .spopc (R 0x104 0x101 0 0 3), .sffs (R 0x104 0x101 0 0 3), .smov (R 0x17F 0x101 0 0 3), .smovi (I 0x104 0 0x186A0 3)].all runs = true := by
  decide +kernel

theorem witness_ScalarArithmetic_caller :
    [Instr.sadd (R 0x104 0x101 0x102 0 0), .smovi (I 0x13F 0 1 3)].all runsC = true := by decide +kernel

/-! ## Issue (R283) -/

/-- The context that an instruction meets, and whether it satisfies a condition. -/
def meets (caller : Bool) (i : Instr) (f : UnitState → UnitState) (g : State → State) (p : Ctx → Enc → Bool) : Bool :=
  match entryOf i with
  | none => false
  | some e => match mkCtx (about caller i f g) i e.mask with | some c => p c e | none => false

/-- The condition of `IssueSteps` up to the full/empty bits. -/
def allocated (c : Ctx) (e : Enc) : Bool :=
  (e.uses.all fun u => u.allocated c.caller c.launch.budget) && (decide (e.mask = 0) || decide (e.mask.toNat < c.launch.budget.sregs))

def small (s : State) : State := s.modLaunch State.reset.nextId fun l => { l with budget := ⟨16, 8, 8, 4096⟩ }

/-- One state for each outcome of the gate, at the registers where they change over. -/
theorem witness_IssueSteps :
    (meets false (.iadd (R 4 1 2 5 0)) id id (fun c e => !encLegal c e) &&
     meets false (.iadd (R 16 1 2 0 0)) id small (fun c e => encLegal c e && !allocated c e) &&
     meets false (.iadd (R 15 1 2 0 0)) id small (fun c e => encLegal c e && allocated c e) &&
     meets false (.iadd { R 4 1 2 0 0 with mask := 5 }) (fun u => u.mark 0x105 1 true) id
       (fun c e => encLegal c e && allocated c e && e.mask ≠ 0 && !c.again && c.us.sEmpty.getLsbD e.mask.toNat) &&
     meets false (.iadd { R 4 1 2 0 0 with mask := 5 }) id id (fun c e => encLegal c e && allocated c e && decide (c.em = 0)) &&
     meets false (.iadd (R 4 1 2 0 0)) (fun u => u.mark 1 1 true) id (fun c e => encLegal c e && allocated c e && emptyGate (gateUnit c) c.again e.uses = .wait) &&
     meets false (.iadd { R 4 1 2 0 0 with fea := true }) (fun u => u.mark 1 1 true) id
       (fun c e => encLegal c e && allocated c e && emptyGate (gateUnit c) c.again e.uses = .empty) &&
     meets false (.ld (M 4 8 5 0x0A)) id id (fun c e => encLegal c e && allocated c e && emptyGate (gateUnit c) c.again e.uses = .go &&
       (match e.scope with | some id => !scopeValid c.team.wins id | none => false)) &&
     meets false (.ld (M 4 8 4 0x0A)) id id (fun c e => encLegal c e && allocated c e && emptyGate (gateUnit c) c.again e.uses = .go &&
       (match e.scope with | some id => scopeValid c.team.wins id | none => false)) &&
     meets false (.unassignedOpcode 0 0x3F) id id (fun _ _ => true)) = true := by decide +kernel

/-! ## Witnesses: control flow, traps and system registers -/

/-- The stream of a unit, and a handler in which it stands. -/
def inHandler (k : Byte) (level : Nat) (i : Instr) (u : UnitState) : UnitState :=
  let rep : Replay := { (default : Replay) with instr := some i, em := 3 }
  let p : PendTrap := { (default : PendTrap) with cause := k, level := level, f := 3, rep := rep }
  let h : Handler := { (default : Handler) with th := u.main, x := 1, slot := 0, trap := p }
  { u with handler := some h }

/-- An open SPLIT or CALLI region of two sub-groups, in the first of which the stream stands. -/
def inRegion (kind : Bool) (arr : Bool) (resid : W64) (u : UnitState) : UnitState :=
  let g (th : Thread) (x : W64) (a : Bool) : SubGroup := { (default : SubGroup) with th := th, xmask := x, arr := a }
  { u with region := { (default : Region) with isOpen := true, kind := kind, join := 64, emask := 15, resid := resid
                                               subs := [g u.main 1 false, g (Thread.at 0 0) 2 arr] }
           main := { u.main with run := false } }

/-- The sub-group's stream is the one that issues. -/
def inSub (s : State) : State := { s with focus := some ⟨unitOf false, 1⟩ }
/-- The handler's stream is the one that issues. -/
def inHdl (s : State) : State := { s with focus := some ⟨unitOf false, 5⟩ }

theorem witness_ControlFlow :
    ([Instr.bra (I 0 0 0x3FFFF 0), .brz (I 0 0x104 1 0), .brnz (I 0 0x104 1 1), .call (I 0 0x104 2 0), .call (I 0 4 2 0), .ret (R 0 0x101 0 0 0),
      .ret (R 0 2 0 0 0), .nop (R 0 0 0 0 0), .yield (R 0 0 0 0 0), .waitfe (R 0 1 0x101 0x1FF 0)].all runs &&
     [Instr.bra (I 0 0 1 0), .brz (I 0 0x104 1 0), .call (I 0 0x104 2 0), .ret (R 0 0x101 0 0 0)].all runsC) = true := by decide +kernel

/-- RET of a pair that differs between the lanes of X. -/
theorem witness_ControlFlow_ret :
    lets false (.ret (R 0 2 0 0 0)) (fun u => u.setVreg 2 0 8) id (fun c _ =>
      (lanesOf c.w c.x).any fun l => pairOf c.us 2 l ≠ pairOf c.us 2 0) = true := by decide +kernel

theorem witness_ControlFlow_regions :
    (lets false (.split (I 0 2 4 0)) id id (fun c _ => !c.us.region.isOpen && decide (c.slot = 0)) &&
     lets false (.calli (R 4 2 0 0 0)) (vec 2 0x100) (holding 0xF8 [1] ∘ mapped) (fun c s0 => !c.us.region.isOpen && decide (c.slot = 0) &&
       !acquiring s0 c.u && (match calleeBudgets c (pairOf c.us 2) s0 with
         | (rs, _) => rs.all fun p => (match p.2 with | .word _ => true | _ => false) && !overBudget c p.2)) &&
     lets false (.split (I 0 2 4 0)) (inRegion false false 0) inSub (fun c _ => c.us.region.isOpen) &&
     lets false (.calli (R 4 2 0 0 0)) (inRegion true false 0) inSub (fun c _ => c.us.region.isOpen)) = true := by decide +kernel

theorem witness_ArrivalAndExit :
    (lets false (.join (R 0 0 0 0 0)) id id (fun c _ => !c.us.region.isOpen) &&
     lets false (.join (R 0 0 0 0 0)) (inRegion false false 0) inSub (fun c _ =>
       match c.us.region.subs[c.slot - 1]? with | some _ => (c.us.region.subs.eraseIdx (c.slot - 1)).any fun h => !h.arr | none => false) &&
     lets false (.join (R 0 0 0 0 0)) (inRegion false true 8) inSub (fun c _ => (c.us.region.subs.eraseIdx (c.slot - 1)).all (·.arr) && c.us.region.resid ≠ 0) &&
     lets false (.join (R 0 0 0 0 0)) (inRegion false true 0) inSub (fun c _ => (c.us.region.subs.eraseIdx (c.slot - 1)).all (·.arr) && c.us.region.resid = 0) &&
     lets false (.ret (R 0 0x101 0 0 0)) (inRegion true true 0 ∘ scl 1 1) inSub (fun c s0 =>
       decide (sval s0 c 0x101 = 1) && c.us.region.kind && decide (c.us.region.bmask = 0) && (c.us.region.subs.eraseIdx (c.slot - 1)).all (·.arr)) &&
     lets false (.exit (R 0 0 0 0 0)) id id (fun c _ => !c.caller && decide (c.us.x &&& ~~~c.em = 0)) &&
     lets false (.exit { R 0 0 0 0 0 with mask := 5 }) (scl 5 1) id (fun c _ => !c.us.region.isOpen && decide (c.us.x &&& ~~~c.em ≠ 0)) &&
     lets false (.exit { R 0 0 0 0 0 with mask := 5 }) (scl 5 1 ∘ fun u => { inRegion false false 0 u with region := { (inRegion false false 0 u).region with
         subs := (inRegion false false 0 u).region.subs.map fun g => { g with xmask := 3 } } }) inSub
       (fun c _ => c.us.region.isOpen && decide (c.us.xOf c.slot &&& ~~~c.em ≠ 0)) &&
     lets false (.exit { R 0 0 0 0 0 with mask := 5 }) (inHandler 0x14 1 (.nop (R 0 0 0 0 0))) inHdl (fun c _ =>
       c.inHandler && decide (c.em = 0)) &&
     lets true (.exit (R 0 0 0 0 0)) id id (fun c _ => c.caller)) = true := by decide +kernel

/-- The handler table at 0x1000. -/
def withHtab (s : State) : State := s.modLaunch State.reset.nextId fun l => { l with htab := 0x1000 }

theorem witness_TrapEntryAndReturn :
    (lets false (.trap (I 0 0 5 0)) id (holding (0x1000 + 8 * 0x14) [0x40] ∘ withHtab ∘ mapped) (fun c s0 =>
       !c.us.exited && c.us.handler.isNone && match readHtab s0 c.u 0x14 with | (.entry pc, _) => decide (pc = 0x40) | _ => false) &&
     lets false (.trap (I 0 0 5 0)) id (withHtab ∘ mapped) (fun c s0 => match readHtab s0 c.u 0x14 with | (.zero, _) => true | _ => false) &&
     lets true (.trap (I 0 0 5 0)) id (holding (0x1000 + 8 * 0x94) [0x40] ∘ withHtab ∘ mapped) (fun c s0 =>
       c.caller && match readHtab s0 c.u 0x14 with | (.entry pc, _) => decide (pc = 0x40) | _ => false) &&
     lets false (.tret (R 0 0x101 0 0 0)) (inHandler 0x05 0 (.ld (M 4 8 0 2)) ∘ scl 1 1) inHdl (fun c s0 => match c.us.handler with
       | some h => decide (h.trap.level = 0) && decide (h.trap.f &&& sval s0 c 0x101 ≠ 0) && h.trap.rep.instr.isSome
       | none => false) &&
     lets false (.tret (R 0 0x101 0 0 0)) (inHandler 0x14 1 (.trap (I 0 0 5 0))) inHdl (fun c _ => match c.us.handler with
       | some h => decide (h.trap.level ≠ 0) && c.us.override.isNone && h.trap.rep.instr.isSome && decide (h.slot = 0)
       | none => false)) = true := by decide +kernel

/-- Every system register, at the numbers where the clauses of the statement change over. -/
theorem witness_SystemRegisters :
    ((([0, 1, 2, 3, 4, 8, 9, 10, 11, 0x20, 0x27, 0x28, 0x2F] : List (BitVec 18)).all fun n => runs (.sread (I 0x104 0 n 0))) &&
     lets false (.swrite (I 0 0x101 0 0)) (scl 1 4) id (fun c s0 => (sval s0 c 0x101).getLsbD 2) &&
     lets false (.swrite (I 0 0x101 1 0)) (inHandler 0x05 0 (.nop (R 0 0 0 0 0)) ∘ scl 1 0x8000) inHdl (fun _ _ => true) &&
     runs (.swrite (I 0 0x101 4 0))) = true := by decide +kernel

/-! ## Witnesses: barriers, dispensers, queues, GROW -/

def withBarrier (b : Nat) (w : W64) (s : State) : State := s.setBarrier 0 b w
def withTicket (k : Nat) (w : W64) (s : State) : State := s.setTicket 0 k w
def entries (q : Nat) (l : List W64) (s : State) : State := s.modTeam (State.reset.nextId + 1) fun t => { t with queues := tset [] t.queues q l }
def parkedAt (p : Park) (u : UnitState) : UnitState := u.modThread 0 fun th => { th with park := p }

/-- BARRIVE and BSYNC: a free word, a word of the team, a wrong expectation, and a word that nobody holds; BWAIT with and without
a phase to wait for. The barrier's number is at the end of its range. -/
theorem witness_NamedBarriers :
    (lets false (.barrive (I 0 0 (0x1FF + 2 * 512) 0)) id id (fun c s0 => (s0.barrier c.team.home 255).getLsbD 33 = false && orderWait s0 c true = false) &&
     lets false (.barrive (I 0 0 (0x1FF + 2 * 512) 0)) id (withBarrier 255 (barrierWord 3 0 0 false)) (fun c s0 =>
       (s0.barrier c.team.home 255).getLsbD 33 && bits (s0.barrier c.team.home 255) 0 16 ≠ 2) &&
     lets false (.barrive (I 0 0 0xFF 0)) id (withBarrier 255 (barrierWord 2 1 0 false)) (fun c s0 =>
       heldBy (s0.barrier c.team.home 255) c.place && bits (s0.barrier c.team.home 255) 16 16 + 1 = 2) &&
     lets false (.barrive (I 0 0 0xFF 0)) id id (fun c s0 => !heldBy (s0.barrier c.team.home 255) c.place) &&
     lets false (.bwait (I 0 0 7 0)) id id (fun c s0 => !heldBy (s0.barrier c.team.home 7) c.place && !acquiring s0 c.u) &&
     lets false (.bwait (I 0 0 7 0)) (fun u => { u with records := [(7, 1)] }) (withBarrier 7 (barrierWord 2 1 0 true)) (fun c s0 =>
       heldBy (s0.barrier c.team.home 7) c.place && tget 0 c.us.records 7 ≠ 1 + bits (s0.barrier c.team.home 7) 32 1) &&
     lets false (.bwait (I 0 0 7 0)) (fun u => { u with records := [(7, 1)] }) (withBarrier 7 (barrierWord 2 1 0 false)) (fun c s0 =>
       heldBy (s0.barrier c.team.home 7) c.place && tget 0 c.us.records 7 = 1 + bits (s0.barrier c.team.home 7) 32 1) &&
     lets false (.bsync (I 0 0 7 0)) id (withBarrier 7 (barrierWord 2 1 0 false)) (fun c s0 => (c.us.thread c.slot).park ≠ .barrier 7 &&
       heldBy (s0.barrier c.team.home 7) c.place && orderWait s0 c true = false && decide (c.place < 16)) &&
     lets false (.bsync (I 0 0 7 0)) id (withBarrier 7 (barrierWord 2 0 0 false)) (fun c s0 =>
       heldBy (s0.barrier c.team.home 7) c.place && bits (s0.barrier c.team.home 7) 16 16 + 1 ≠ 2) &&
     lets false (.bsync (I 0 0 7 0)) id id (fun c s0 => !heldBy (s0.barrier c.team.home 7) c.place)) = true := by decide +kernel

theorem witness_DispensersAndQueues_tickets :
    (let mine (w : W64) (c : Ctx) : Bool := w.getLsbD 56 && bits w 57 4 = c.place
     lets false (.tkget (R 0x104 0x101 0 0 0)) (scl 1 64) id (fun c s0 => decide (63 < (sval s0 c 0x101).toNat) && decide (c.place < 16)) &&
     lets false (.tkget (R 0x104 0x101 0 0 0)) (scl 1 63) id (fun c s0 => !(s0.ticket c.team.home 63).getLsbD 56) &&
     lets false (.tkget (R 0x104 0x101 0 0 0)) (scl 1 63) (withTicket 63 (ticketWord 5 3 0)) (fun c s0 => mine (s0.ticket c.team.home 63) c) &&
     lets false (.tkget (R 0x104 0x101 0 0 0)) id (withTicket 0 (ticketWord (2 ^ 23 - 1) 0 0)) (fun c s0 => mine (s0.ticket c.team.home 0) c &&
       (bits (s0.ticket c.team.home 0) 0 24 + 2 ^ 24 - bits (s0.ticket c.team.home 0) 32 24) % 2 ^ 24 = 2 ^ 23 - 1) &&
     lets false (.tkwait (R 0 0x101 0x102 0 0)) (scl 2 3) (withTicket 0 (ticketWord 5 3 0)) (fun c s0 => mine (s0.ticket c.team.home 0) c && !acquiring s0 c.u) &&
     lets false (.tkwait (R 0 0x101 0x102 0 0)) (scl 2 4) (withTicket 0 (ticketWord 5 3 0)) (fun c s0 => mine (s0.ticket c.team.home 0) c &&
       decide (2 ^ 23 ≤ (bits (s0.ticket c.team.home 0) 32 24 + 2 ^ 24 - (sval s0 c 0x102).toNat % 2 ^ 24) % 2 ^ 24)) &&
     lets false (.tkadv (R 0 0x101 0 0 0)) id (withTicket 0 (ticketWord 5 3 0)) (fun c s0 => mine (s0.ticket c.team.home 0) c && orderWait s0 c true = false) &&
     lets false (.tkadv (R 0 0x101 0 0 0)) id (withTicket 0 (ticketWord 5 5 0)) (fun c s0 =>
       bits (s0.ticket c.team.home 0) 32 24 = bits (s0.ticket c.team.home 0) 0 24)) = true := by decide +kernel

theorem witness_DispensersAndQueues_queues :
    (lets false (.qpush (R 0 0x101 0x102 0 0)) (scl 1 8) id (fun c s0 => decide (7 < (sval s0 c 0x101).toNat)) &&
     lets false (.qpush (R 0 0x101 0x102 0 0)) (scl 1 7) id (fun c s0 => decide ((tget [] c.team.queues 7).length < 16) && !orderWait s0 c true &&
       (c.team.popOf 7).isNone) &&
     lets false (.qpush (R 0 0x101 0x102 0 0)) (scl 1 7) (entries 7 (List.replicate 16 1)) (fun c _ => decide (16 ≤ (tget [] c.team.queues 7).length)) &&
     lets false (.qpop (R 0x104 0x101 0 0 0)) (scl 1 7) (entries 7 [9]) (fun c _ => (tget [] c.team.queues 7) ≠ []) &&
     lets false (.qpop (R 0x104 0x101 0 0 0)) (scl 1 7) id (fun c _ => tget [] c.team.queues 7 = []) &&
     lets false (.qpop (R 0x104 0x101 0 0 0)) (scl 1 8) id (fun c s0 => decide (7 < (sval s0 c 0x101).toNat))) = true := by decide +kernel

theorem witness_SliceAndGrow :
    (lets false (.slice (R 0 0 0 0 0)) id id (fun c _ => !c.us.region.isOpen) &&
     lets false (.slice (R 0 0 0 0 0)) (inRegion false false 0) inSub (fun c _ => c.us.region.isOpen && decide (c.slot ≠ 5)) &&
     lets false (.grow (I 0x104 0 3 0)) (parkedAt (.grow (some 9))) id (fun c _ => (c.us.thread c.slot).park = .grow (some 9)) &&
     lets false (.grow (I 0x104 0 3 0)) id id (fun c s0 => decide (c.launch.count + pendingGrowth s0 c.team.launch + 3 ≤ 2 ^ 40) &&
       decide (c.launch.setsz = 1) && decide (c.launch.role = .none)) &&
     lets false (.grow (I 0x104 0 3 0)) id (fun s => s.modLaunch State.reset.nextId fun l => { l with setsz := 2 }) (fun c _ =>
       decide (1 < c.launch.setsz) && decide (3 % c.launch.setsz ≠ 0))) = true := by decide +kernel

/-! ## Witnesses: memory -/

/-- One lane of the group remains. -/
def oneLane (u : UnitState) : UnitState := { u with x := 1 }
def args (s : State) : State := s.modLaunch State.reset.nextId fun l => { l with args := List.replicate 16 7 }

theorem witness_SingleCopyLoads :
    (lets false (.lds (M 4 1 0 2)) id id (fun c s0 => c.lanes.all fun l => (scratchPlace c (offsetAddr s0 c 1 0 l) 4).toOption.isSome) &&
     lets false (.lds (M 4 1 4092 2)) id id (fun c s0 => c.lanes.all fun l => (scratchPlace c (offsetAddr s0 c 1 4092 l) 4).toOption.isSome) &&
     lets false (.ldc (M 4 8 0 3)) id id (fun c s0 => !orderWait s0 c false && c.lanes.all fun l => (setPlace s0 c (globalAddr s0 c 8 0 l) 8).toOption.isSome) &&
     lets false (.lda (M 4 1 0 4)) id id (fun c s0 => c.lanes.all fun l => (actPlace c (offsetAddr s0 c 1 0 l) 16).toOption.isSome) &&
     lets false (.ldk (M 4 1 12 2)) id args (fun c s0 => c.lanes.all fun l => (constPlace c (offsetAddr s0 c 1 12 l) 4).toOption.isSome) &&
     lets false (.sldk (M 0x104 0x101 8 3)) id args (fun c s0 => (constPlace c (((sval s0 c 0x101).toNat : Int) + 8) 8).toOption.isSome)) = true := by
  decide +kernel

theorem witness_GlobalLoads :
    (lets false (.ld (M 4 8 0 2)) id mapped (fun c s0 =>
       (translateLanes c .read 4 false (c.lanes.map fun l => ⟨l, globalAddr s0 c 8 0 l, [], []⟩)).2 = [] && !orderWait s0 c false &&
         s0.pkg.badLines = [] && !c.caller) &&
     lets false (.sld (M 0x104 0x101 0 3)) id mapped (fun c s0 =>
       (translateLanes c .read 8 true [⟨0, (sval s0 c 0x101).toNat, [], []⟩]).2 = [] && !c.caller) &&
     lets true (.sld (M 0x104 0x101 0 3)) (scl 1 0x10000) mapped (fun c s0 => c.caller &&
       (match translateLanes c .read 8 true [⟨0, 0x10000, [], []⟩] with
        | ([q], []) => (match homeCheck s0 c.u c.secure false q.2 with | (.ok, s2) => !loadBad s2 c.core q.2 8 | _ => false)
        | _ => false))) = true := by decide +kernel

theorem witness_SingleCopyStores :
    (lets false (.sts (M 4 1 4092 2)) id id (fun c s0 => !orderWait s0 c false && c.lanes.all fun l => (scratchPlace c (offsetAddr s0 c 1 4092 l) 4).toOption.isSome) &&
     lets false (.stc (M 4 8 0 3)) id id (fun c s0 => c.lanes.all fun l => (setPlace s0 c (globalAddr s0 c 8 0 l) 8).toOption.isSome) &&
     lets false (.sta (M 4 1 0 4)) (fun u => u.setVreg 1 0 (4 * 2 ^ 20 - 16)) id (fun c s0 => c.lanes.all fun l => (actPlace c (offsetAddr s0 c 1 0 l) 16).toOption.isSome)) = true := by
  decide +kernel

/-- The line of intermediate address 0 is in the core's L1. -/
def cached (s : State) : State := l1Fill s 0 0 0

theorem witness_GlobalStores :
    (lets false (.st (M 4 8 0 2)) id (cached ∘ mapped) (fun c s0 =>
       (match translateLanes c .write 4 false (c.lanes.map fun l => ⟨l, globalAddr s0 c 8 0 l, storeData s0 c 4 1 l, []⟩) with
        | (good, bad) => bad = [] && !overlaps s0 c.u true (good.map fun q => (q.2, 4)) && good.all fun q =>
            verdict s0 c.secure true q.2 = .ok && (s0.l1? c.core (lineOf q.2)).isSome && decide (q.2 % 128 + 4 ≤ 128))) &&
     lets false (.sst (M 0x104 0x101 8 3)) id (cached ∘ mapped) (fun c s0 =>
       (match translateLanes c .write 8 true [⟨0, 8, words32 2 (sval s0 c 0x104).toNat, []⟩] with
        | ([q], []) => verdict s0 c.secure true q.2 = .ok && (s0.l1? c.core (lineOf q.2)).isSome | _ => false)) &&
     lets false (.st (M 4 8 0x84 0x1A)) oneLane mapped (fun c s0 => decide (c.lanes.length = 1) && !orderWait s0 c true &&
       (match translateLanes c .write 4 false [⟨0, globalAddr s0 c 8 4 0, storeData s0 c 4 1 0, []⟩] with
        | ([q], []) => !overlaps s0 c.u true [(q.2, 4)] | _ => false)) &&
     lets true (.sst (M 0x104 0x101 0 3)) id mapped (fun c s0 => decide (c.lanes.length = 1) && !orderWait s0 c false)) = true := by decide +kernel

/-- An image of one dimension at 0x10000, its descriptor at 0x100 and a sampler at 0x120 (R384, R386). -/
def imageBytes (fmt : Nat) (write : Bool) : Bytes :=
  bytesOf 16 (0x10000 + 2 ^ 64 * 3 + fmt * 2 ^ 107 + (if write then 2 ^ 111 else 0))
def withImageAt (fmt : Nat) (write : Bool) (s : State) : State := holding 0x100 (imageBytes fmt write) (mapped s)

theorem witness_GlobalStores_image :
    lets false (.imst (R 4 1 0x101 0 0)) (oneLane ∘ scl 1 0x100) (withImageAt 0 true) (fun c s0 =>
      match readAtIssue c (sval s0 c 0x101).toNat 16 s0 with
      | (.ok bs, s1) => (match imageDesc (BitVec.ofNat 128 (natOf bs)) with
        | some d => d.write && coordGate c 1 false (d.dim + 1) = .go && !acquiring s1 c.u && (texelAt s1 c (R 4 1 0x101 0 0) d 0).isSome
        | none => false)
      | _ => false) = true := by decide +kernel

theorem witness_ImageReads :
    (lets false (.tfetch (R 4 1 0x101 0 0)) (oneLane ∘ scl 1 0x100) (withImageAt 0 false) (fun c s0 =>
       match readAtIssue c (sval s0 c 0x101).toNat 16 s0 with
       | (.ok bs, s1) => (match imageDesc (BitVec.ofNat 128 (natOf bs)) with
         | some d => coordGate c 1 false (d.dim + 1) = .go && (texelAt s1 c (R 4 1 0x101 0 0) d 0).isSome && !acquiring s0 c.u &&
             (match texLanes c (fetchLane s1 c (R 4 1 0x101 0 0) d) s1 with | (_, e, w, _) => e = [] && w = [])
         | none => false)
       | _ => false) &&
     lets false (.tfetch (R 4 1 0x101 0 0)) (oneLane ∘ scl 1 0x100 ∘ vec 1 4) (withImageAt 0 false) (fun c s0 =>
       match readAtIssue c (sval s0 c 0x101).toNat 16 s0 with
       | (.ok bs, s1) => (match imageDesc (BitVec.ofNat 128 (natOf bs)) with
         | some d => (texelAt s1 c (R 4 1 0x101 0 0) d 0).isNone | none => false)
       | _ => false)) = true := by decide +kernel

theorem witness_ImageReads_tex :
    lets false (.tex (R 4 1 0x101 0x102 0)) (oneLane ∘ scl 1 0x100 ∘ scl 2 0x120) (withImageAt 0 false) (fun c s0 =>
      match readAtIssue c (sval s0 c 0x101).toNat 16 s0 with
      | (.ok bs, s1) => (match imageDesc (BitVec.ofNat 128 (natOf bs)), readAtIssue c (sval s1 c 0x102).toNat 16 s1 with
        | some d, (.ok bs', s2) => decide (d.fmt ≠ 7) && coordGate c 1 false (d.dim + 1) = .go &&
            (match samplerDesc (BitVec.ofNat 128 (natOf bs')) with
             | some sm => (match texLanes c (fun l r => sample c d sm [f32Rat (c.us.vreg 1 l)] none r) s2 with
               | (lanes, e, w, _) => e = [] && w = [] && lanes.all fun p => p.2.all fun v => !traps c.launch.nfpol .f32 v.toNat)
             | none => false)
        | _, _ => false)
      | _ => false) = true := by decide +kernel

theorem witness_Atomics :
    (lets false (.atom (A 10 8 2 3 0 2)) id mapped (fun c s0 => !orderWait s0 c true &&
       (match splitLanes c (aTy 2).bytes false (c.lanes.map fun l => ⟨l, globalAddr s0 c 8 0 l, [], []⟩) with
        | ([], good, []) => good ≠ [] | _ => false)) &&
     lets false (.atom (A 10 8 2 4 7 2)) (oneLane ∘ fun u => u.setVreg 9 0 0xF0000000) id (fun c s0 => !orderWait s0 c true &&
       (match splitLanes c (aTy 2).bytes false (c.lanes.map fun l => ⟨l, globalAddr s0 c 8 0 l, [], []⟩) with
        | ([(_, .scratch _ _)], [], []) => true | _ => false)) &&
     lets true (.satom (A 0x104 0x101 0x102 4 0 3)) id mapped (fun c s0 => !orderWait s0 c true &&
       (match translateLanes c .rw 8 true [⟨0, (sval s0 c 0x101).toNat, [], []⟩] with
        | ([q], []) => (match homeCheck s0.fresh.2 c.u c.secure true q.2 with
          | (.ok, s2) => !loadBad s2 c.core q.2 8 && decide (q.2 % 128 + 8 ≤ 128) &&
              ((ownLine (releaseL1 s2 c 4) c.core q.2 (scopeLocal (ctxScope s2 c 4) c.core) (ctxScope s2 c 4)).l1? c.core (lineOf q.2)).isSome
          | _ => false)
        | _ => false))) = true := by decide +kernel

theorem witness_Reductions :
    (lets false (.red (A 0 8 2 0 0 2)) id mapped (fun c s0 => !orderWait s0 c false &&
       (match splitLanes c (aTy 2).bytes false (c.lanes.map fun l => ⟨l, globalAddr s0 c 8 0 l, words32 2 (opndLit s0 c 2 none (aTy 2) l), []⟩) with
        | ([], good, []) => (redGroups 0 c.launch.nfpol (aTy 2) good).all fun g => !redTraps c.launch.nfpol (aTy 2) g.v | _ => false)) &&
     lets false (.red (A 0 8 2 0 0 4)) (vec 2 0x7F000000) (policy2 ∘ mapped) (fun c s0 =>
       (match splitLanes c (aTy 4).bytes false (c.lanes.map fun l => ⟨l, globalAddr s0 c 8 0 l, words32 2 (opndLit s0 c 2 none (aTy 4) l), []⟩) with
        | ([], good, []) => (redGroups 0 c.launch.nfpol (aTy 4) good).any fun g => redTraps c.launch.nfpol (aTy 4) g.v | _ => false))) = true := by decide +kernel

theorem witness_FencesAndCacheControl :
    (lets false (.fence (M 0 0x180 4 0x18)) id id (fun c s0 => c.us.net.isNone && !acquiring s0 c.u && storesDone s0 c.u && loadsReturned s0 c.u && !netBusy s0 c.u) &&
     lets false (.fence (M 0 0x180 4 0x18)) (fun u => { u with net := some (5, 2) }) id (fun c _ => c.us.net.isSome) &&
     lets false (.fence (M 0 0x180 3 0x10)) id (fun s => { s with inflight := [{ (default : Access) with
         u := unitOf false, kind := .store false, lanes := [⟨0, 0, 0, 4, [], [], .waiting⟩] }] }) (fun c s0 => !storesDone s0 c.u) &&
     lets false (.pref (M 0x1C0 8 0 0)) id mapped (fun _ _ => true) &&
     ([Instr.cctlWb (M 0x1C0 8 0 0), .cctlInv (M 0x1C1 8 0 0), .cctlClrp (M 0x1C2 8 0 0)].all fun i => lets false i id mapped (fun c s0 =>
       (translateLanes c .read 1 false (c.lanes.map fun l => ⟨l, globalAddr s0 c 8 0 l, [], []⟩)).2 = [] && !acquiring s0 c.u))) = true := by decide +kernel

/-! ## Witnesses: rays, grids, the matrix unit, copies, rings and coordinate streams -/

/-- A grid record of one level at 0x200 (R248). -/
def withGrid (s : State) : State :=
  holding 0x200 (bytesOf 32 1 ++ bytesOf 32 (0x10000 + 2 ^ 64 + 10 * 2 ^ 84)) (mapped s)

theorem witness_RaysAndHashGrids_trace :
    (lets false (.trace (R 4 16 0x104 0 0)) (oneLane ∘ fun u => u.setVreg 16 0 0x7FC00000) mapped (fun c s0 => !acquiring s0 c.u &&
       (match traceLanes c 16 (sval s0 c 0x104).toNat (sval s0 c 0x105).toNat s0 with | (l, e, w, _) => l ≠ [] && e = [] && w = []) &&
       f32Val (c.us.vreg 16 0) = .nan) &&
     lets false (.trace (R 4 16 0x104 0 0)) oneLane mapped (fun c s0 =>
       (match traceLanes c 16 (sval s0 c 0x104).toNat (sval s0 c 0x105).toNat s0 with | (l, e, w, _) => l ≠ [] && e = [] && w = [] && l.all fun p => !traceTraps 0 p.2))) = true := by
  decide +kernel

theorem witness_RaysAndHashGrids_hgath :
    lets false (.hgath (R 4 16 0x104 0 0)) (oneLane ∘ scl 4 0x200) withGrid (fun c s0 =>
      match readGrid c (sval s0 c 0x104).toNat s0 with
      | (.ok ls _, s1) => decide (bits (sval s0 c 0x105) 22 7 + c.w ≤ 128) && !acquiring s0 c.u &&
          decide (bits (sval s0 c 0x105) 0 22 + 512 * ceilDiv ((ls.map (·.feat)).foldl (· + ·) 0) 2 ≤ 2 ^ 22) &&
          (match gatherLanes c ls 16 s1 with
           | (done, e, w, s2) => e = [] && w = [] &&
               done.all fun p => (p.2.zip (racedFeatures s2 s1.nextId p.1 ls)).all fun v => v.2 || !traps c.launch.nfpol v.1.1 v.1.2)
      | _ => false) = true := by decide +kernel

theorem witness_RaysAndHashGrids_hscat :
    lets false (.hscat (R 4 16 0x104 0 0)) (oneLane ∘ scl 4 0x200) withGrid (fun c s0 =>
      match readGrid c (sval s0 c 0x104).toNat s0 with
      | (.ok ls _, _) => (match ls[bits (sval s0 c 0x105) 0 4]? with
        | some g => decide (bits (sval s0 c 0x105) 4 60 = 0) && decide (4 + g.feat ≤ c.launch.budget.vregs) && !c.us.isEmpty 4 g.feat &&
            !acquiring s0 c.u && c.rep.steps.isEmpty &&
            (let lanes := c.lanes.filter fun l => posFinite (position c 16 l)
             lanes ≠ [] && (List.range (8 * g.feat)).all fun k => (scatterGroups c g 16 4 c.launch.nfpol k lanes).all fun r => !redTraps c.launch.nfpol (featTy g.fmt) r.v)
        | none => false)
      | _ => false) = true := by decide +kernel

/-- The team may hold matrix slots (R91). -/
def withSlots (s : State) : State := s.modTeam (State.reset.nextId + 1) fun t => { t with save1 := 2 ^ 48 }
def matq (l : List MatOp) (s : State) : State := s.modCore 0 fun k => { k with matq := l }
/-- A queued operation of the team. -/
def queued (slot : Nat) : MatOp := { (default : MatOp) with team := State.reset.nextId + 1, slot := slot, kind := .zero, tag := 100 }

theorem witness_MatrixInstructions_operations :
    (let ok (x : Except (Byte × W64 × Nat) MatOp) : Bool := x.toOption.isSome
     lets true (.mma (R 0x103 0x101 0x102 0 0)) (scl 3 64 ∘ scl 1 9 ∘ scl 2 9) withSlots (fun c s0 => ok (checkMma false (R 0x103 0x101 0x102 0 0) c s0) &&
       (c.us.thread c.slot).park = .none && matRoom s0 0 (queued 0)) &&
     lets true (.mmasp (R 0x103 0x101 0x102 0 0)) (scl 3 64 ∘ scl 1 9 ∘ scl 2 9) withSlots (fun c s0 => ok (checkMma true (R 0x103 0x101 0x102 0 0) c s0)) &&
     lets true (.mzero (R 0 0x101 0 0 0)) (scl 1 31) withSlots (fun c s0 => ok (checkSlot (sval s0 c 0x101) c s0 .zero)) &&
     lets true (.mzero (R 0 0x101 0 0 0)) (scl 1 32) withSlots (fun c s0 => !ok (checkSlot (sval s0 c 0x101) c s0 .zero)) &&
     lets true (.epi (R 0 0x101 0x102 8 0)) (scl 1 (512 * 2 ^ 20)) withSlots (fun c s0 => ok (checkEpi (R 0 0x101 0x102 8 0) c s0)) &&
     lets true (.msave (R 0 0x101 0x102 0 0)) (scl 2 0x10000) (withSlots ∘ mapped) (fun c s0 =>
       ok (checkImage (R 0 0x101 0x102 0 0) .write (fun va => .save va false false) c s0)) &&
     lets true (.mrest (R 0 0x101 0x102 0 0)) (scl 2 0x10000) (withSlots ∘ mapped) (fun c s0 =>
       ok (checkImage (R 0 0x101 0x102 0 0) .read (fun va => .rest va) c s0)) &&
     lets true (.mzero (R 0 0x101 0 0 0)) (parkedAt .done) withSlots (fun c _ => (c.us.thread c.slot).park = .done) &&
     lets true (.mzero (R 0 0x101 0 0 0)) id (matq [queued 1, queued 2] ∘ withSlots) (fun c s0 => ok (checkSlot (sval s0 c 0x101) c s0 .zero) &&
       !matRoom s0 0 (queued 0))) = true := by decide +kernel

theorem witness_MatrixInstructions :
    (lets true (.tdesc (I 0x104 0x101 0 9)) id id (fun c s0 => (slabElems 9).isSome && decide ((sval s0 c 0x101 + immS (I 0x104 0x101 0 9)).toNat % 512 = 0)) &&
     lets true (.tdesc (I 0x104 0x101 1 9)) id id (fun c s0 => decide ((sval s0 c 0x101 + immS (I 0x104 0x101 1 9)).toNat % 512 ≠ 0)) &&
     lets true (.tdesc (I 0x104 0x101 0 9)) (scl 1 (2 ^ 22)) id (fun c s0 => decide (2 ^ 22 ≤ (sval s0 c 0x101 + immS (I 0x104 0x101 0 9)).toNat)) &&
     lets true (.tdesc (I 0x104 0x101 0 0)) id id (fun _ _ => (slabElems 0).isNone) && runsC (.mopf (R 0 0 0 0 0)) &&
     lets true (.mwait (R 0 0x101 0 0 0)) (scl 1 32) id (fun c s0 => decide (32 ≤ (sval s0 c 0x101).toNat)) &&
     lets true (.mwait (R 0 0x101 0 0 0)) (scl 1 31) (matq [queued 31]) (fun _ s0 => (s0.core 0).matq.all fun m => m.stop.isNone && decide (m.slot < 32)) &&
     lets true (.mwait (R 0 0x180 0 0 1)) id id (fun c s0 => (s0.core 0).matq = [] && c.team.epiNotes = []) &&
     lets true (.mwait (R 0 0x101 0 0 0)) id (matq [queued 31]) (fun c _ => c.team.epiNotes = []) &&
     lets true (.mstat (R 0x104 0x101 0 0 0)) (scl 1 32) id (fun _ _ => true) && lets true (.mstat (R 0x104 0x101 0 0 0)) (scl 1 31) id (fun _ _ => true)) = true := by
  decide +kernel

def withRing (k : Nat) (r : BitVec 256) (s : State) : State := s.setRing 0 k r
/-- A ring of two slots that the team holds, with R, W and RES. -/
def heldRing (r w res : Nat) : BitVec 256 :=
  setBits (setBits (setBits (setBits (setBit (setBits (0 : BitVec 256) 0 57 0x1000) 224 true) 64 4 1) 128 32 r) 160 32 w) 192 32 res

theorem witness_CopyInstructions_chains :
    (lets true (.xcopy (R 0 0x101 0 0 0)) (scl 1 0x10000) mapped (fun c s0 => recordCheck c 0x10000 64 .read 64 = none && !orderWait s0 c true &&
       decide (teamChains s0 c.u.team < 32) && (s0.copyWait.find? fun w => chainReady s0 c.core w) = none && (idleChannel s0 c.core).isSome) &&
     lets true (.xcopy (R 0 0x101 0 0 0)) (scl 1 0x10000) (fun s => { mapped s with channels := (List.range 128).map fun n =>
         (n, { (default : Channel) with st := .reading, team := 9 }) }) (fun c s0 => recordCheck c 0x10000 64 .read 64 = none && (idleChannel s0 c.core).isNone) &&
     lets false (.xcopyy (I 0 0x101 4 63)) (scl 1 0x10000) (withRing 63 (heldRing 0 0 0) ∘ mapped) (fun c s0 => ringHeld s0 c.core 63 c.u.team &&
       recordCheck c 0x10000 64 .read 64 = none && !orderWait s0 c true && (idleChannel s0 c.core).isSome && !ringReady (s0.ring c.core 63)) &&
     lets false (.xcopyy (I 0 0x101 4 0)) (scl 1 0x10000) (withRing 0 (heldRing 0 1 1) ∘ mapped) (fun c s0 => ringHeld s0 c.core 0 c.u.team &&
       ringReady (s0.ring c.core 0))) = true := by decide +kernel

theorem witness_CopyInstructions_rings :
    (lets true (.rinit (R 0 0x101 0x102 0 0)) (scl 1 63 ∘ scl 2 0x1001) mapped (fun c s0 => !ringHeld s0 c.core 63 c.u.team && !rgHeld (s0.ring c.core 63) &&
       rangeCheck c.team.wins c.secure .write 0x1000 64 = none) &&
     lets true (.rinit (R 0 0x101 0x102 0 0)) (scl 1 64 ∘ scl 2 0x1001) mapped (fun c s0 => decide (63 < (sval s0 c 0x101).toNat)) &&
     lets true (.rinit (R 0 0x101 0x102 0 0)) (scl 2 0x100D) mapped (fun c s0 => decide (12 < bits (sval s0 c 0x102) 0 4)) &&
     lets true (.rawait (R 0x104 0x101 0 0 0)) id id (fun c s0 => !ringHeld s0 c.core 0 c.u.team) &&
     lets true (.rawait (R 0x104 0x101 0 0 0)) (scl 1 63) (withRing 63 (heldRing 2 2 2)) (fun c s0 => ringHeld s0 c.core 63 c.u.team && !ringReady (s0.ring c.core 63)) &&
     lets true (.rawait (R 0x104 0x101 0 0 0)) (scl 1 63) (withRing 63 (heldRing 2 3 3)) (fun c s0 => ringReady (s0.ring c.core 63) && !acquiring s0 c.u) &&
     lets true (.rrel (R 0 0x101 0 0 0)) (scl 1 63) (withRing 63 (heldRing 2 3 3)) (fun c s0 => ringHeld s0 c.core 63 c.u.team && loadsReturned s0 c.u) &&
     lets true (.rrel (R 0 0x101 0 0 0)) (scl 1 63) (withRing 63 (heldRing 2 2 2)) (fun c s0 => loadsReturned s0 c.u && !ringReady (s0.ring c.core 63))) = true := by
  decide +kernel

/-- A binding of two empty streams. -/
def bound (s : State) : State := s.modCore 0 fun k => { k with bindings := [(0, { (default : Binding) with op := 0 })] }

theorem witness_CoordinateInstructions :
    (lets true (.copen (R 0 0x101 0 0 0)) (scl 1 0x10000) mapped (fun c s0 => !batchOpen s0 c.u.team && !acquiring s0 c.u &&
       (match readAtIssue c 0x10000 64 s0 with | (.ok bs, _) => (bindingRecord (BitVec.ofNat 512 (natOf bs))).isSome | _ => false)) &&
     lets true (.cform (R 0x103 0x101 0x102 0 0)) id (bound ∘ mapped) (fun c s0 => match bindingOf s0 c, c.team.groups[0]? with
       | some b, some gu => !b.fault && !gu.exited && !gu.isEmpty 0 3 && !gu.isEmpty 0x101 1 && !gu.isEmpty 0x102 1 &&
         (match fillBatch c.team.home c.team.wins b.op c.launch.width [] ⟨b.sa, b.sb⟩ s0 with | (_, e, _, _) => e = .cont || e = .done)
       | _, _ => false) &&
     lets true (.csave (R 0 0x101 0 0 0)) (scl 1 0x10020) mapped (fun c s0 => !batchOpen s0 c.u.team &&
       (match translate c.team.wins c.secure .write 0x10020 32 with
        | .ok ia => !overlaps s0 c.u true [(ia, 32)] && (match homeCheck s0 c.u c.secure true ia with | (.ok, _) => true | _ => false) | _ => false)) &&
     lets true (.crest (R 0 0x101 0 0 0)) (scl 1 0x10020) mapped (fun c s0 =>
       match readAtIssue c 0x10020 32 s0 with | (.ok bs, _) => !(BitVec.ofNat 256 (natOf bs)).getLsbD 0 | _ => false) &&
     lets true (.crest (R 0 0x101 0 0 0)) (scl 1 0x10020) (holding 0x10020 (bytesOf 8 0x10041) ∘ mapped) (fun c s0 =>
       match readAtIssue c 0x10020 32 s0 with
       | (.ok bs, _) => (let v := BitVec.ofNat 256 (natOf bs)
         v.getLsbD 0 && decide (bits v 4 2 ≠ 3) && decide (bits v 100 4 ≤ 6) && decide (bits v 195 5 = 0) &&
         (match readAtIssue c (bits v 6 51 * 64) 64 (acquirePart s0 c 0) with
          | (.ok rs, s2) => (match bindingRecord (BitVec.ofNat 512 (natOf rs)) with
            | some (a, b, _) => (match cursorStream s2 c (streamAt a (v.extractLsb' 64 96)) with
              | (.ok true, s3) => (match cursorStream s3 c (streamAt b (v.extractLsb' 160 96)) with | (.ok x, _) => x | _ => false) | _ => false)
            | none => false)
          | _ => false))
       | _ => false)) = true := by decide +kernel

/-! ## Witnesses: collectives, the network, versions, pages and graphics -/

/-- A REDUCE_ALL of two ranks and one element, at 0x10000 (R256). -/
def collRecord : BitVec 512 := BitVec.ofNat 512 (2 * 2 ^ 25 + 0x10100 * 2 ^ 320 + 0x10200 * 2 ^ 384 + 0x10300 * 2 ^ 448 + 2 ^ 256 + 0x10400 * 2 ^ 192 + 2 ^ 73)
def withColl (s : State) : State := holding 0x10000 (bytesOf 64 collRecord.toNat) (mapped s)
/-- The operation of that record, held by the engine of die 0. -/
def collOp (enc : Nat) : CollOp :=
  { (default : CollOp) with
    recAddr := 0x10000, record := setBits collRecord 2 2 enc, team := State.reset.nextId + 1, opid := coOpid collRecord
    ranks := [2, 0, 2, 0] }
def holdsColl (op : CollOp) (s : State) : State := { withColl s with collOps := [op] }

theorem witness_CollectiveInstructions_coll :
    (lets true (.coll (R 0 0x101 0 0 0)) (scl 1 0x10000) withColl (fun c s0 => recordCheck c 0x10000 64 .read 64 = none &&
       (match readPieces c 0x10000 64 { s := s0, stop := none, addr := 0 } with
        | (bs, r) => r.stop.isNone && (let x : BitVec 512 := BitVec.ofNat 512 (natOf bs)
            !collBad x && (heldOp r.s c.team.ctx 0x10000).isNone && decide ((dieOps r.s 0).length < 16) && !orderWait r.s c true && !coRingen x &&
            (startColl (writebackAll r.s c.core) { (default : CollOp) with
               opid := coOpid x, recAddr := 0x10000, record := x, team := c.u.team, wins := c.team.wins }).isSome))) &&
     lets true (.coll (R 0 0x101 0 0 0)) (scl 1 0x10000) (holdsColl (collOp 0)) (fun c s0 => (heldOp s0 c.team.ctx 0x10000).isSome)) = true := by decide +kernel

theorem witness_CollectiveInstructions :
    (lets true (.pcnt (R 0x104 0x101 0x102 0 0)) (scl 1 0x10000) (holdsColl (collOp 0)) (fun c s0 => !acquiring s0 c.u &&
       (match heldOp s0 c.team.ctx 0x10000 with | some op => decide (0 < op.nt) | none => false) && (unreported s0 c 0x10000).isNone) &&
     lets true (.pcnt (R 0x104 0x101 0x102 0 0)) (scl 1 0x10000 ∘ scl 2 1) (holdsColl (collOp 0)) (fun c s0 =>
       (match heldOp s0 c.team.ctx 0x10000 with | some op => decide (op.nt ≤ 1) | none => false)) &&
     lets true (.ccancel (R 0 0x101 0x102 0 0)) id id (fun c s0 => (heldOp s0 c.team.ctx 0).isNone) &&
     lets true (.ccancelCut (R 0 0x101 0x102 0 1)) (scl 2 32) id (fun c s0 => (heldOp s0 c.team.ctx 0).isNone && decide (bits (sval s0 c 0x102) 0 64 ≤ 32)) &&
     lets true (.ccancel (R 0 0x101 0x102 0 0)) (scl 1 0x10000 ∘ scl 2 2) (holdsColl (collOp 1)) (fun c s0 =>
       (match heldOp s0 c.team.ctx 0x10000 with | some op => decide (op.die = 0) && decide (coP op.record ≤ 2) | none => false)) &&
     lets true (.ccancel (R 0 0x101 0x102 0 0)) (scl 1 0x10000) (holdsColl (collOp 1)) (fun c s0 =>
       (match heldOp s0 c.team.ctx 0x10000 with | some op => decide (op.rank = 0) | none => false)) &&
     lets true (.ccancel (R 0 0x101 0x102 0 0)) (scl 1 0x10000 ∘ scl 2 1) (holdsColl (collOp 1)) (fun c s0 =>
       (match heldOp s0 c.team.ctx 0x10000 with
        | some op => coEnc op.record ≠ 0 && op.cutK.isNone && op.finish.isNone && (match sendBody s0 op 1 .streamStop with
            | (.ok, s1) => (applyTiles s1 { op with scut := op.scut ++ [1] } (List.range op.nt)).isSome | _ => false) | none => false)) &&
     lets true (.ccancelCut (R 0 0x101 0x102 0 1)) (scl 1 0x10000 ∘ scl 2 33) (holdsColl (collOp 1)) (fun c s0 => decide (32 < (sval s0 c 0x102).toNat)) &&
     lets true (.ccancelCut (R 0 0x101 0x102 0 1)) (scl 1 0x10000 ∘ scl 2 1) (holdsColl (collOp 1)) (fun c s0 =>
       (match heldOp s0 c.team.ctx 0x10000 with
        | some op => coEnc op.record ≠ 0 && op.finish.isNone && (match sendBody s0 op 0 (.cutRequest 1) with | (.ok, _) => true | _ => false) | none => false))) = true := by
  decide +kernel

/-- Peer 0 is reached over connection 0 of port 0, which is live (R43, R49). -/
def withPeer0 (s : State) : State :=
  let s := holding 0 (bytesOf 8 1) (mapped s)
  (s.setConn 0 { Conn.reset with entry := setBit Conn.reset.entry 0 true }).setPort 0 { Port.reset with status := setBit Port.reset.status 0 true }

theorem witness_NetworkInstructions :
    (let peer (c : Ctx) (s : State) (b : BitVec 9) (p : Peer → State → Bool) : Bool := match withPeer c b s with | .ok _ q s1 => p q s1 | _ => false
     lets false (.nstore (R 0 0x101 0x102 0 2)) id withPeer0 (fun c s0 => !acquiring s0 c.u && peer c s0 0x102 fun _ s1 =>
       (remoteLanes s1 c 0x101 4).2 = []) &&
     ([Instr.nfetchRd (R 4 0x101 0x102 0 2), .nfetchAdd (R 4 0x101 0x102 0 11), .nfetchCas (R 4 0x101 0x102 0 19)].all fun i =>
       lets false i id withPeer0 (fun c s0 => peer c s0 0x102 fun p s1 => (remoteLanes s1 c 0x101 8).2 = [] && (remoteLanes s1 c 0x101 8).1 ≠ [] &&
         !(s1.conn (connKey p.port p.conn)).err)) &&
     lets false (.nsig (R 0x104 0x101 0x102 0 0)) id withPeer0 (fun c s0 => c.us.net.isNone && !netFaulted s0 c.u && peer c s0 0x102 fun _ s1 => (sval s1 c 0x101).toNat % 8 = 0) &&
    lets false (.nsig (R 0x104 0x101 0x102 0 0)) (fun u => { u with net := some (3, 2) }) withPeer0 (fun c _ => c.us.net.isSome) &&
    lets false (.nsig (R 0x104 0x101 0x102 0 0)) (scl 1 4) withPeer0 (fun c s0 => c.us.net.isNone && !acquiring s0 c.u && !netFaulted s0 c.u &&
      peer c s0 0x102 fun _ s1 => (sval s1 c 0x101).toNat % 8 ≠ 0) &&
    lets false (.nsig (R 0x104 0x101 0x102 0 0)) (scl 1 (2 ^ 57)) withPeer0 (fun c s0 => c.us.net.isNone && !acquiring s0 c.u && !netFaulted s0 c.u &&
      peer c s0 0x102 fun _ s1 => decide (2 ^ 57 ≤ (sval s1 c 0x101).toNat) && (sval s1 c 0x101).toNat % 8 = 0) &&
    lets false (.nsig (R 0x104 0x101 0x102 0 0)) (fun u => { u with pending := [{ (default : PendTrap) with
      rep := { (default : Replay) with instr := some (.nstore (R 0 0x101 0x102 0 2)), acc := some 0 } }] }) withPeer0 (fun c s0 =>
        c.us.net.isNone && netFaulted s0 c.u)) = true := by
  decide +kernel

theorem witness_VersionsAndPages_records :
    ([Instr.vpubOpen (R 0 0x101 0 0 0), .vpubPub (R 0 0x101 0 0 1), .vpin (R 0x104 0x101 0 0 0), .vunpin (R 0 0x101 0x102 0 0)].all fun i =>
      lets true i (scl 1 0x10000) mapped (fun c s0 => recordCheck c 0x10000 64 .rw 64 = none && !orderWait s0 c true &&
        (match translate c.team.wins c.secure .rw 0x10000 64 with
         | .ok ia => !overlaps s0 c.u true [(ia, 24)] && !redAhead s0 c.core ia s0.nextId && (homeSlice ia).isSome &&
             (match homeCheck s0 c.u c.secure true ia with | (.ok, s1) => (List.range 24).all fun j => !homeBad s1 (ia + j) | _ => false)
         | _ => false))) = true := by decide +kernel

theorem witness_VersionsAndPages_pages :
    ([Instr.pmap (R 0x104 0x101 0x102 0 0), .migr (R 0x104 0x101 0x102 0 0)].all fun i =>
      lets false i (inHandler 0x06 0 (.ld (M 4 8 0 2))) (inHdl ∘ mapped) (fun c s0 => (c.us.thread c.slot).park = .none &&
        (match translate c.team.wins c.secure .none 0 1 with
         | .ok ia => (homeSlice ia).isSome && !secureAddr s0 ia && decide ((s0.ctxReg c.team.ctx 0x87).toNat ≤ 0) && decide (bits (pte s0 (pageOf ia)) 8 12 = c.team.ctx)
         | _ => false)) &&
      lets false i (scl 2 (2 ^ 24) ∘ inHandler 0x06 0 (.ld (M 4 8 0 2))) (inHdl ∘ mapped) (fun c s0 => bits (sval s0 c 0x102) 24 40 ≠ 0) &&
      lets false i (fun u => { inHandler 0x06 0 (.ld (M 4 8 0 2)) u with handler := (inHandler 0x06 0 (.ld (M 4 8 0 2)) u).handler.map fun h =>
          { h with th := { h.th with park := .page (some 5) } } }) (inHdl ∘ mapped) (fun c _ => (c.us.thread c.slot).park = .page (some 5))) = true := by decide +kernel

/-- A raster stream whose launch the team belongs to. -/
def inStream (role : RasterRole) (s : State) : State :=
  let s := s.modLaunch State.reset.nextId fun l => { l with role := role }
  { s with streams := [(7, { (default : Stream) with desc := BitVec.ofNat 512 (2 ^ 441), draws := [(1, 0)], rsdesc := 0x1000 })] }

theorem witness_GraphicsInstructions :
    (lets false (.vemit (R 0 16 0x101 0 0)) id id (fun c s0 => (geometryOf s0 c).isNone) &&
     lets false (.vemit (R 0 16 0x101 0 0)) (scl 1 224) (inStream (.geometry 7 0)) (fun c s0 => (match geometryOf s0 c with
       | some (_, _, _, n) => coordGate c 16 false (4 + n) = .go && c.lanes.all fun l => decide ((sval s0 c 0x101).toNat + l ≤ 255) | none => false)) &&
     lets false (.vemit (R 0 16 0x101 0 0)) (scl 1 225) (inStream (.geometry 7 0)) (fun c s0 => c.lanes.any fun l => decide (255 < (sval s0 c 0x101).toNat + l)) &&
     lets false (.pemit (R 0 16 0x101 0 0)) id (inStream (.geometry 7 0)) (fun c s0 => (geometryOf s0 c).isSome && decide (c.team.emits + c.lanes.length ≤ 4096)) &&
     lets false (.pemit (R 0 16 0x101 0 0)) id (fun s => (inStream (.geometry 7 0) s).modTeam (State.reset.nextId + 1) fun t => { t with emits := 4065 })
       (fun c _ => decide (4096 < c.team.emits + c.lanes.length)) &&
     lets false (.fout (R 4 0x101 0 0 0)) id id (fun c _ => c.launch.role = .none) &&
     lets false (.fout (R 4 0x101 0 0 0)) (scl 1 1) (inStream (.fragment 7 0)) (fun c s0 => c.launch.role = .fragment 7 0 &&
       (match s0.stream? 7 with | some st => decide (1 ≤ rsRtn st) | none => false)) &&
     lets false (.fout (R 4 0x101 0 0 0)) (scl 1 2) (inStream (.fragment 7 0)) (fun _ s0 => (match s0.stream? 7 with | some st => decide (rsRtn st < 2) | none => false)) &&
     lets false (.rfence (R 0 0x101 0x102 0 0)) id id (fun c s0 => s0.streams = [] && !acquiring s0 c.u) &&
     lets false (.rfence (R 0 0x101 0x102 0 0)) (scl 1 0x1000 ∘ scl 2 9) (fun s => (inStream .none s).modStream 7 fun st => { st with sources := [(0, { (default : Source) with w := some 3 })] })
       (fun c s0 => s0.streams.any fun p => p.2.ctx = c.team.ctx && p.2.rsdesc = 0x1000 && !performedUpTo p.2 9)) = true := by decide +kernel

/-! ## Witnesses: further forms of the statements above -/

/-- R30: a source with uncorrectable data in one lane, in every lane, and in the caller. -/
theorem witness_IssueSteps_bad :
    (meets false (.iadd (R 4 1 2 0 0)) (fun u => { u with badRegs := [(1, 3)] }) id
       (fun c e => gate c e = .bad && decide (badLanes c e = 8) && c.em &&& ~~~(badLanes c e) ≠ 0 && !c.us.exited) &&
     meets false (.sadd (R 0x104 0x101 0x102 0 0)) (fun u => { u with badRegs := [(0x101, 0)] }) id
       (fun c e => gate c e = .bad && decide (c.em &&& ~~~(badLanes c e) = 0)) &&
     meets true (.sadd (R 0x104 0x101 0x102 0 0)) (fun u => { u with badRegs := [(0x101, 0)] }) id
       (fun c e => encLegal c e && allocated c e && emptyGate (gateUnit c) c.again e.uses = .go && badLanes c e ≠ 0 && c.caller) &&
     meets false (.iadd (R 4 1 2 0 0)) (fun u => { u with badRegs := [(4, 0)] }) id (fun c e => gate c e = .go && badLanes c e = 0)) = true := by
  decide +kernel

/-- A handler that has opened a region of two sub-groups, in the first of which it stands. -/
def ownRegion (arr : Bool) (resid : W64) (u : UnitState) : UnitState :=
  let u := inHandler 0x05 1 (.nop (R 0 0 0 0 0)) u
  { inRegion false arr resid u with region := { (inRegion false arr resid u).region with byHandler := true } }

/-- The first sub-group of a handler is the stream that issues. -/
def inHdlSub (s : State) : State := { s with focus := some ⟨unitOf false, 6⟩ }

/-- A residue of a region that issues again, with its whole mask and its join address (R114, R122). -/
def residue (u : UnitState) : UnitState :=
  { inHandler 0x14 1 (.split (I 0 2 4 0)) u with region := { (default : Region) with emask := 15, join := 64 } }

/-- R114 to R116, R122, R227: regions of a handler, RET of a vector pair in a CALLI region, and the three kinds of return. -/
theorem witness_ControlFlow_handler :
    (lets false (.split (I 0 2 4 0)) (inHandler 0x05 1 (.nop (R 0 0 0 0 0))) inHdl (fun c _ => !c.nested && decide (c.slot = 5)) &&
     lets false (.calli (R 4 2 0 0 0)) (inHandler 0x05 1 (.nop (R 0 0 0 0 0))) inHdl (fun c _ => !c.nested && decide (c.slot = 5)) &&
     lets false (.split (I 0 2 4 0)) (ownRegion false 0) inHdlSub (fun c _ => c.nested) &&
     ([(false, (0 : W64)), (true, 8), (true, 0)].all fun p => lets false (.join (R 0 0 0 0 0)) (ownRegion p.1 p.2) inHdlSub (fun c _ =>
       c.us.inRegion && !c.us.region.kind && (c.us.region.subs[subIdx c.slot]?).isSome && c.us.region.byHandler &&
       ((c.us.region.subs.eraseIdx (subIdx c.slot)).all (·.arr)) = p.1 && decide (c.us.region.resid = p.2))) &&
     lets false (.join (R 0 0 0 0 0)) (inHandler 0x05 1 (.nop (R 0 0 0 0 0)) ∘ inRegion false false 0) inHdl (fun c _ => !c.us.inRegion) &&
     lets false (.ret (R 0 2 0 0 0)) (inRegion true true 0 ∘ vec 2 1) inSub (fun c _ =>
       c.us.inRegion && c.us.region.kind && (lanesOf c.w c.x).all fun l => pairOf c.us 2 l = 1) &&
     lets true (.tret (R 0 0x101 0 0 0)) (fun u => { inHandler 0x0A 2 (.copen (R 0 0x101 0 0 0)) u with
         handler := (inHandler 0x0A 2 (.copen (R 0 0x101 0 0 0)) u).handler.map fun h => { h with trap := { h.trap with rep := { h.trap.rep with acc := some 7 } } } })
       (fun s => { s with focus := some ⟨unitOf true, 5⟩ }) (fun c _ => c.caller && !c.us.tinfo.getLsbD 15 && (match c.us.handler with | some h => h.trap.rep.acc.isSome | none => false)) &&
     ([[], [{ (default : Replay) with acc := some 3 }]].all fun l =>
       let tex (u : UnitState) : UnitState := inHandler 0x10 1 (.tex (R 4 8 0x101 0 0)) u
       lets false (.tret (R 0 0x101 0 0 0)) (fun u => { tex u with
           replays := l, handler := (tex u).handler.map fun h => { h with trap := { h.trap with rep := { h.trap.rep with acc := some 7 } } } })
         inHdl (fun c _ => !c.us.tinfo.getLsbD 15 && (match c.us.handler with
           | some h => decide (h.trap.level = 1) && h.trap.rep.acc = some 7 && (l = [] || c.us.replays.any fun o => o.acc = some 3) | none => false))) &&
     lets false (.tret (R 0 0x101 0 0 0)) residue inHdl (fun c _ => !c.us.region.isOpen && !c.us.region.byHandler && c.us.region.emask ≠ 0 &&
       !c.us.region.kind && (match c.us.handler with | some h => decide (h.slot = 0) && decide (h.trap.cause = 0x14) && decide (h.trap.level ≠ 0) | none => false))) =
    true := by decide +kernel

/-- R30, R52, R136, R166, R317: the premises about parity, the caller's parked access and pending reductions. -/
theorem witness_Memory_more :
    (lets false (.lds (M 4 1 0 2)) id id (fun c s0 => c.lanes.all fun l =>
       match scratchPlace c (offsetAddr s0 c 1 0 l) 4 with | .ok p => !placeBad s0 p 4 | _ => false) &&
     lets true (.sld (M 0x104 0x101 0 3)) (scl 1 0x10008) mapped (fun c s0 => match translateLanes c .read 8 true [⟨0, 0x10008, [], []⟩] with
       | ([q], []) => !redAhead s0 c.core q.2 s0.nextId && (match scalarHome c false q.2 0x10008 8 s0 with
           | .ok s2 => !loadBad s2 c.core q.2 8 | _ => false)
       | _ => false) &&
     lets true (.sst (M 0x104 0x101 0 3)) (scl 1 0x10008) (cached ∘ mapped) (fun c s0 => (probeOf s0 c).isNone &&
       (match translateLanes c .write 8 true [⟨0, 0x10008, words32 2 (sval s0 c 0x104).toNat, []⟩] with
        | ([q], []) => (match scalarHome c true q.2 0x10008 8 s0 with | .ok _ => true | _ => false) | _ => false)) &&
     lets true (.satom (A 0x104 0x101 0x102 4 0 3)) id mapped (fun c s0 => match translateLanes c .rw 8 true [⟨0, 0, [], []⟩] with
       | ([q], []) => !redAhead s0 c.core q.2 s0.fresh.2.nextId && (match scalarHome c true q.2 0 8 s0.fresh.2 with
           | .ok s2 => !loadBad s2 c.core q.2 8 | _ => false)
       | _ => false) &&
     lets false (.atom (A 10 8 2 4 7 2)) (oneLane ∘ fun u => u.setVreg 9 0 0xF0000000) id (fun _ s0 => !placeBad s0 (.scratch 0 0) 4)) = true := by
  decide +kernel

/-- R164: a fence at scope 4 before its wait, during it and after it, with the group's status set; and one that waits. -/
theorem witness_FencesAndCacheControl_net :
    (let busy (s : State) : State := { s with inflight := [{ (default : Access) with u := unitOf false, kind := .store false, lanes := [⟨0, 0, 0, 4, [], [], .waiting⟩] }] }
     let set (u : UnitState) : UnitState := { u with net := some (5, 2) }
     lets false (.fence (M 0 0x180 4 0x18)) set busy (fun c s0 => c.us.net.isSome && (c.us.thread c.slot).park ≠ .fence && !storesDone s0 c.u) &&
     lets false (.fence (M 0 0x180 4 0x18)) (set ∘ parkedAt .fence) busy (fun c s0 => c.us.net.isSome && (c.us.thread c.slot).park = .fence && !storesDone s0 c.u) &&
     lets false (.fence (M 0 0x180 4 0x18)) (set ∘ parkedAt .fence) id (fun c s0 => c.us.net.isSome && (c.us.thread c.slot).park = .fence &&
       storesDone s0 c.u && loadsReturned s0 c.u && !acquiring s0 c.u && !netBusy s0 c.u)) = true := by decide +kernel

/-- An acquiring load of a unit is in flight. -/
def acquiringBy (caller : Bool) (s : State) : State := { s with inflight := s.inflight ++ [{ (default : Access) with u := unitOf caller, kind := .load true }] }

theorem witness_MatrixInstructions_waits :
    (lets true (.mzero (R 0 0x101 0 0 0)) id (acquiringBy true ∘ withSlots) (fun c s0 => acquiring s0 c.u && (c.us.thread c.slot).park = .none &&
       (checkSlot (sval s0 c 0x101) c s0 .zero).toOption.isSome) &&
     lets true (.mzero (R 0 0x101 0 0 0)) (parkedAt (.matrix (queued 0))) withSlots (fun c _ => (c.us.thread c.slot).park = .matrix (queued 0)) &&
     lets true (.mopf (R 0 0 0 0 0)) id (acquiringBy true) (fun c s0 => acquiring s0 c.u) &&
     lets true (.mopf (R 0 0 0 0 0)) id id (fun c s0 => !acquiring s0 c.u) &&
     lets true (.mzero (R 0 0x101 0 0 0)) id (fun s => (withSlots s).modCore 0 (fun k => { k with stamps := [(0, [0])] }) |>.learn (.mopf (State.reset.nextId + 1)) [0])
       (fun c s0 => !acquiring s0 c.u && (c.us.thread c.slot).park = .none && (s0.known (.mopf c.u.team)).contains 0)) = true := by decide +kernel

/-- R109, R157, R169, R399: an STA of a group, its arrival at a barrier, the caller's wait and its MOPF: the product is not marked by the
write; and without the barrier it is. -/
theorem test_mopf_orders :
    (let t := State.reset.nextId + 1
     let g : UnitRef := ⟨t, some 0⟩
     let caller : UnitRef := ⟨t, none⟩
     let s := storeWrite State.reset 0 0 0 (.unit g) [1]
     let met := (arriveSync s g 0 3 (barrierWord 1 0 0 false)).pass (.phase 0 3 0) (.unit caller)
     (met.pass (.unit caller) (.mopf t)).known (.mopf t) = [0] ∧ (s.pass (.unit caller) (.mopf t)).known (.mopf t) = [] ∧
       tget [] (s.core 0).stamps 0 = [0]) := by decide +kernel

/-- R157: an acquire that reads what a release left follows it; one that reads anything else, or whose scope leaves the core out, does not. -/
theorem test_acquire_reads :
    (let w : UnitRef := ⟨1, some 0⟩
     let r : UnitRef := ⟨1, none⟩
     let s := storeSync (storeWrite State.reset 0 0 0 (.unit w) [1]) w 0 (some (.unit w)) 0x80 [5, 0, 0, 0]
     (readSync s r 0 (some [0]) 0x80 [5, 0, 0, 0]).known (.unit r) = [0] ∧ (readSync s r 0 (some [0]) 0x80 [4, 0, 0, 0]).known (.unit r) = [] ∧
       (readSync s r 1 (some [1]) 0x80 [5, 0, 0, 0]).known (.unit r) = [] ∧
       (fenceSync (readSync s r 0 none 0x80 [5, 0, 0, 0]) r 0 [0]).known (.unit r) = [0]) := by decide +kernel

/-- R221, R227, R228: what the heads that CREST reads afresh can be: streams that have ended, an index, an offending index that is still
bad (for a binding of the caller, and for one of a group), and a unit on a moving page. -/
theorem witness_CoordinateInstructions_heads :
    (let at0 (cur rec idx : Nat) (ptes : List Nat) (p : Team → Option (Binding × Option CStop) → Bool) : Bool :=
       lets true (.crest (R 0 0x101 0 0 0)) (scl 1 0x10020)
         (fun s => let s := holding 0x10020 (bytesOf 32 cur) (holding 0x10040 (bytesOf 64 rec) (holding 0x20000 (bytesOf 4 idx) (mapped s)))
           { s with mem := { s.mem with ptes := s.mem.ptes.map fun e => if ptes.contains e.1 then (e.1, (e.2 &&& ~~~7) ||| 3) else e } })
         fun c s0 =>
           !coordWait s0 c &&
           (match readAtIssue c 0x10020 32 (crestAcquire c 0x10020 s0) with
            | (.ok bs, s1) =>
              let v : BitVec 256 := BitVec.ofNat 256 (natOf bs)
              v.getLsbD 0 && decide (bits v 4 2 ≠ 3) && decide (bits v 100 4 ≤ 6) && decide (bits v 195 5 = 0) &&
              (match readAtIssue c (bits v 6 51 * 64) 64 s1 with
               | (.ok rs, s2) => (match bindingRecord (BitVec.ofNat 512 (natOf rs)) with
                 | some (a, b, _) => (match cursorStream s2 c (streamAt a (v.extractLsb' 64 96)) with
                   | (.ok true, s3) => (match cursorStream s3 c (streamAt b (v.extractLsb' 160 96)) with
                     | (.ok true, s4) => p c.team (freshHeads s4 c
                         { (default : Binding) with
                           byCaller := v.getLsbD 3, op := bits v 4 2, brec := bits v 6 51 * 64, opGrp := bits v 57 7, emit := v.getLsbD 99
                           sa := streamAt a (v.extractLsb' 64 96), sb := streamAt b (v.extractLsb' 160 96)
                           copen := tget { copenRep c with instr := none } c.team.copens (bits v 57 7) }).1
                     | _ => false) | _ => false)
                 | none => false)
               | _ => false)
            | _ => false)
     let one : Nat := 0x20000 + 2 ^ 64
     let last5 : Nat := 2 ^ 97 + 5 * 2 ^ 128
     at0 0x10041 0 3 [] (fun _ r => match r with | some (y, none) => y.sa.head.isNone && y.sa.fin | _ => false) &&
     at0 0x10041 one 3 [] (fun _ r => match r with | some (y, none) => decide (y.sa.head = some 3) | _ => false) &&
     at0 (0x10049 + last5) one 3 [] (fun t r => match r with | some (y, some e) => e.cause = 0x0B && y.fault && byCallerNow t y | _ => false) &&
     at0 (0x10041 + last5) one 3 [] (fun t r => match r with | some (y, some _) => !byCallerNow t y | _ => false) &&
     at0 0x10041 one 3 [2] (fun _ r => r.isNone)) = true := by decide +kernel

/-- R219, R221, R225, R228: what COPEN, CSAVE and CREST wait for, and the outcomes of CFORM. -/
theorem witness_CoordinateInstructions_waits :
    (let ahead (s : State) : State := { s with inflight := [{ (default : Access) with u := ⟨99, none⟩, kind := .form 0 0 [] }] }
     ([Instr.copen (R 0 0x101 0 0 0), .csave (R 0 0x101 0 0 0), .crest (R 0 0x101 0 0 0)].all fun i =>
       lets true i (scl 1 0x10000) mapped (fun c s0 => !coordWait s0 c) && lets true i (scl 1 0x10000) (ahead ∘ mapped) (fun c s0 => coordWait s0 c)) &&
     (let at0 (f : UnitState → UnitState) (g : State → State) (p : Ctx → State → Binding → UnitState → Bool) : Bool :=
        lets true (.cform (R 0x103 0x101 0x102 0 0)) id (g ∘ bound ∘ (fun s => s.modUnit (unitOf false) f) ∘ mapped) fun c s0 =>
          match bindingOf s0 c, s0.unit? ⟨c.u.team, some 0⟩ with | some b, some gu => !c.again && !b.fault && p c s0 b gu | _, _ => false
      at0 id id (fun c s0 _ gu => (formAhead s0 c.team.home).isNone && !gu.exited && !gu.isEmpty 0 3 && !gu.isEmpty 0x101 1 && !gu.isEmpty 0x102 1) &&
      at0 id ahead (fun c s0 _ gu => (formAhead s0 c.team.home).isSome && !gu.exited && !gu.isEmpty 0 3 && !gu.isEmpty 0x101 1 && !gu.isEmpty 0x102 1) &&
      at0 (fun u => { u with exited := true }) id (fun _ _ _ gu => gu.exited) &&
      at0 (fun u => u.mark 0x102 1 true) id (fun _ _ _ gu => !gu.exited && gu.isEmpty 0x102 1)) &&
     lets true (.cform (R 0x103 0x101 0x102 0 0)) id mapped (fun c s0 => !c.again && (bindingOf s0 c).isNone) &&
     lets true (.csave (R 0 0x101 0 0 0)) (scl 1 0x10020) mapped (fun c s0 => !coordWait s0 c &&
       (match translate c.team.wins c.secure .write 0x10020 32 with
        | .ok ia => (homeSlice ia).isSome && !overlaps s0 c.u true [(ia, 32)] && (match scalarHome c true ia 0x10020 32 s0 with | .ok _ => true | _ => false)
        | _ => false)) &&
     lets true (.crest (R 0 0x101 0 0 0)) (scl 1 0x10020) mapped (fun c s0 => !coordWait s0 c &&
       (match readAtIssue c 0x10020 32 (crestAcquire c 0x10020 s0) with | (.ok bs, _) => !(BitVec.ofNat 256 (natOf bs)).getLsbD 0 | _ => false))) = true := by
  decide +kernel

theorem witness_Network_more :
    (lets true (.ccancel (R 0 0x101 0x102 0 0)) (scl 1 0x10000) (holdsColl (collOp 1)) (fun c s0 => (cancelledOp s0 c 0x10000).isSome) &&
     lets false (.nsig (R 0x104 0x101 0x102 0 0)) id withPeer0 (fun c s0 => c.us.net.isNone && !acquiring s0 c.u) &&
     ([Instr.vpubOpen (R 0 0x101 0 0 0), .vpin (R 0x104 0x101 0 0 0)].all fun i => lets true i (scl 1 0x10000) mapped (fun c s0 =>
       match translate c.team.wins c.secure .rw 0x10000 64 with
       | .ok ia => (match scalarHome c true ia 0x10000 24 s0 with | .ok s1 => (List.range 24).all fun j => !homeBad s1 (ia + j) | _ => false)
       | _ => false))) = true := by decide +kernel

/-- R184, R234, R242: a PEMIT of a team that is not its die's oldest, and outputs that are not finite. -/
theorem witness_GraphicsInstructions_more :
    (let geo (s : State) : State := (inStream (.geometry 7 0) (mapped s)).modStream 7 fun st => { st with wins := [(0, 0x2AF)] }
     let ready (p : Ctx → State → Bool) (g : State → State) : Bool := lets false (.pemit (R 0 16 0x101 0 0)) id (g ∘ geo) p
     ready (fun c s0 => match s0.stream? 7 with | some st => !forwards st (c.core / 32) c.u.team | none => false) id &&
     (let frag (s : State) : State := policy2 ((inStream (.fragment 7 0) s).modStream 7 fun st => { st with targets := [[], [0, 0, 0, 0, 0xF003]] })
      let send (v : W32) (p : Ctx → List Nat → Bool) : Bool := lets false (.fout (R 4 0x101 0 0 0)) (scl 1 1 ∘ vec 4 v) frag fun c s0 =>
        match s0.stream? 7 with
        | some st => decide (1 ≤ rsRtn st) && c.launch.nfpol = 2 && c.us.handler.isNone && !c.us.exited &&
            p c (c.lanes.filter fun l => sendsNonFinite (targetWord st 1) (dataWords s0 c 4 4 l))
        | none => false
      send 0x3F800000 (fun _ bad => bad = []) && send 0x7F800000 (fun _ bad => bad ≠ []))) = true := by decide +kernel

/-! ## Witnesses: the machine as a whole -/

/-- The team of the tests at an instruction, with its first move on the agenda. -/
def atIssue (f : UnitState → UnitState) : State := about false (.nop (R 0 0 0 0 0)) f id

theorem witness_StepRunsDecoded :
    ((match (atIssue id).agenda, (atIssue id).unit? (unitOf false) with
      | [.issue r slot], some u => r = unitOf false && unitRuns (atIssue id) r && (firstDue (atIssue id) u).isNone && u.override.isNone &&
          u.replays = [] && u.streamLive slot && (u.thread slot).run &&
          (decodeWords (u.thread slot).header.cls ((u.thread slot).words.drop (u.thread slot).idx)).toOption.map (·.1) = some (.nop (R 0 0 0 0 0))
      | _, _ => false) &&
     (let s := atIssue fun u => u.modThread 0 fun th => { th with park := .retry, run := false }
      match s.unit? (unitOf false) with
      | some u => portFree s (unitOf false) 0 u && (u.thread 0).park.retests && !(u.thread 0).run && (u.thread 0).words ≠ [] | none => false) &&
     (encode .mapperPass).isNone && State.reset.agenda = [] && State.reset.pkg.power = .active && !clocked .powerActive && clocked (.l1Writeback 0 0)) = true := by decide +kernel

theorem witness_StepKeepsMemory :
    let s := { hbmSet State.reset 5 1 with agenda := [.occur .mapperPass] }
    s.memOk ∧ (match step s with | .next _ => true | _ => false) = true :=
  ⟨reset_memOk.hbmSet 5 1, by decide +kernel⟩

/-- A machine whose world is locked. -/
def locked : State := { State.reset with pkg := { State.reset.pkg with worldLock := true } }

theorem witness_WorldLock :
    (locked.pkg.worldLock && (match exec (.registerWrite .worldLock 0) locked with | .next _ => true | _ => false)) = true := by
  decide +kernel

theorem witness_RoundTrip :
    ((Instr.sadd (R 0x106 0x106 0x107 0 3)).wellFormed && (encode (Instr.sadd (R 0x106 0x106 0x107 0 3))).isSome &&
     decide ((none : Option W64).isSome = takesLiteral 6 0x0400001C18902010)) = true := by decide +kernel

/-! ## Witnesses: the package and the ports -/

def withPkg (f : Package → Package) : State := { State.reset with pkg := f State.reset.pkg }

/-- R14 to R20: four dies, one of them hot, one hotter still, a part that is off, and queues that a halt tells. -/
theorem witness_PowerAndClocks :
    (decide (State.reset.pkg.dies.length = 4) && decide (hottest (State.reset.die 3) < 95) &&
     decide (95 ≤ hottest { State.reset.die 3 with temps := (State.reset.die 3).temps.set 7 95 }) && !(State.reset.die 3).hot &&
     (withPkg fun p => { p with power := .off }).pkg.power = .off && State.reset.pkg.power ≠ .off) = true := by decide +kernel

/-- A halt: a queue on port 1 with a running entry, its connection valid. -/
def running : State :=
  let e : Entry := ⟨0, [], 0, .started, 0⟩
  let s := State.reset.setQueue 3 { (default : Queue) with desc := BitVec.ofNat 512 (2 ^ 192 + 2 ^ 196), window := [e] }
  s.setConn (connKey 1 1) { Conn.reset with entry := 1 }

theorem witness_PowerAndClocks_halt :
    (let x := running.queue 3
     let c := running.conn (connKey (bits x.desc 192 3) (bits x.desc 196 12))
     x.window.any (fun e => e.st = .started) && !x.halt && c.valid && !c.err && c.waiting = [] && !(running.port 1).paused &&
     running.queues.map (·.1) = [3]) = true := by decide +kernel

/-- A module that holds a wrong image in either slot. -/
def otherKeys (p : Package) : Package := { p with fusedSlh := 1 }

theorem witness_BootAndSideband :
    ((withPkg otherKeys).pkg.power ≠ .off && (withPkg otherKeys).pkg.flashA.keySlh ≠ (withPkg otherKeys).pkg.fusedSlh &&
     (withPkg otherKeys).pkg.flashB.keySlh ≠ (withPkg otherKeys).pkg.fusedSlh &&
     (withPkg fun p => { p with i3c := some 8 }).pkg.i3c.isSome && State.reset.pkg.i3c.isNone) = true := by decide +kernel

set_option exponentiation.threshold 400 in
/-- An image is accepted where both signatures verify; what they give is the configuration's (log 11). -/
theorem witness_BootAndSideband_image
    (h : Config.verifyRsa 0 (Config.headerBytes default ++ (default : Image).bytes) (default : Image).sigRsa = true ∧
      Config.verifySlh 0 (Config.headerBytes default ++ (default : Image).bytes) (default : Image).sigSlh = true) :
    let s := withPkg fun p => { p with boot := .recovery, i3c := some 8 }
    let img : Image := default
    s.pkg.boot = .recovery ∧ img.keyRsa = s.pkg.fusedRsa ∧ img.keySlh = s.pkg.fusedSlh ∧
      Config.verifyRsa img.keyRsa (Config.headerBytes img ++ img.bytes) img.sigRsa = true ∧
      Config.verifySlh img.keySlh (Config.headerBytes img ++ img.bytes) img.sigSlh = true ∧ s.pkg.fusedSvn.toNat ≤ img.svn.toNat :=
  ⟨rfl, rfl, rfl, h.1, h.2, Nat.le_refl _⟩

/-- R27 to R29: a window that is full, an address that has been counted, a way whose lines are pinned and one whose lines are
not, and the last number of a die-to-die link. -/
theorem witness_ErrorsAndRetirement :
    (let x : Ceu := ⟨0x802, (List.range 8).map fun k => ⟨k, 1, 0⟩⟩
     let opened := x.track.filter fun t => decide (3 < t.start + 2 ^ bits x.cfg 8 6)
     decide (opened.length = 8) && decide (bits x.cfg 0 8 = 2) && (opened.find? fun t => t.addr = 5).isSome && (opened.find? fun t => t.addr = 9).isNone &&
     [0, 1].all fun pins =>
       let s := { State.reset with mem := { State.reset.mem with msc := [(0, { (default : MscLine) with way := 2, pins := pins })] } }
       let here := s.mem.msc.filter fun l => homeSlice (128 * l.1) = homeSlice 0 && l.2.way = 2
       here ≠ [] && (here.any fun l => decide (l.2.pins ≠ 0 || l.2.landing ≠ 0)) = decide (pins = 1)) = true := by decide +kernel

/-- A unit of HBM with a row to be retired: which structure a unit is and which frames a row holds, the package's numbering says
(logs 11, 56). -/
theorem witness_ErrorsAndRetirement_unit (h : ceuKind 4 = 8) (hb : ceuBlock 4 = 0) (hr : Config.hbmRow 4 7 2 = true) :
    let s := { mapped State.reset with pkg := { State.reset.pkg with retire := [(4, 7)], reserve := [9] } }
    ceuKind 4 = 8 ∧ (∃ a, (4, a) ∈ s.pkg.retire ∧ 2 ∈ rowPages s (4, a)) ∧ pageState s 2 = 1 ∧ s.mem.changes = [] := by
  refine ⟨h, ⟨7, by decide, ?_⟩, by decide +kernel, by decide⟩
  refine List.mem_map.2 ⟨(2, presentEntry 2 0 false), List.mem_filter.2 ⟨by decide +kernel, ?_⟩, rfl⟩
  have e : bits (pte { mapped State.reset with pkg := { State.reset.pkg with retire := [(4, 7)], reserve := [9] } } 2) 20 24 = 2 := by decide +kernel
  simp only [e, hb, hr]
  decide +kernel

theorem witness_LinksAndRates :
    (let s := (State.reset.setPort 1 { State.reset.port 1 with holding := true, status := 9 }).setConn (connKey 1 5) { Conn.reset with entry := 1 }
     (s.port 1).holding && (s.port 1).status.getLsbD 0 && (s.port 1).status.getLsbD 3 && s.conns.any (fun c => c.1 / 4096 = 1 && c.2.valid && !c.2.err && s.conn c.1 = c.2) &&
     decide (4095 < 4096)) = true := by decide +kernel

/-- A port that is up with a live connection and a region of every kind of access over the first page. -/
def linked (c : Conn) : State :=
  let s := (mapped State.reset).setPort 0 { State.reset.port 0 with status := 1 }
  s.setConn (connKey 0 1) { c with entry := Conn.reset.entry ||| 1 }

def request (key : W32) (va : Nat) (data : Bytes) : InPacket :=
  { (default : InPacket) with port := 0, conn := 1, rkey := key, va := va, data := data }

/-- An entry of the region table over the first 64 KiB with every permission, or a notify page (R44). -/
def regionEntry (kind base len : Nat) : BitVec 256 :=
  BitVec.ofNat 256 (2 ^ 64 * base + 2 ^ 116 * kind + 2 ^ 120 * 15 + 2 ^ 128 * len + 2 ^ 192 * 5)

def withRegion (kind base len : Nat) (s : State) : State :=
  { s with regions := [(0, regionEntry kind base len)], mgmt := { s.mgmt with nbase := 0x4000 } }

def isOk : InAns → Bool | .ok _ _ => true | _ => false
def isRefused : InAns → Bool | .refuse _ => true | _ => false

theorem witness_InboundRequests :
    (let s := withRegion 0 0 65536 (linked Conn.reset)
     let n := withRegion 2 0x4000 4096 (linked Conn.reset)
     let c := s.conn (connKey 0 1)
     c.valid && !c.err && (s.port 0).status.getLsbD 0 && !c.mgmt && decide (c.expect = (request 5 0 []).psn) && !(request 5 0 []).marked &&
     (request 5 0 []).imm.isNone && isOk (inCheck s 0 5 64 8 .write) && isRefused (inCheck s 0 5 65532 8 .write) && isOk (inCheck n 0 5 0 8 .write) &&
     isOk (inCheck s 0 5 65528 8 .read) && isOk (inCheck s 0 5 65528 8 .atomic) && !(iaRead s 65528 8).1 && !State.reset.conns.any (fun c => c.2.valid)) =
    true := by decide +kernel

/-- R36, R38, R41, R47: requests that are too many or too long, one that a moving page holds, one that stands behind it, the
management region, and packets out of sequence. -/
theorem witness_InboundRequests_more :
    (let s := withRegion 0 0 65536 (linked Conn.reset)
     let p := request 5 64 [1, 2]
     let moves (s : State) : State := { s with mem := { s.mem with ptes := tset 0 s.mem.ptes 0 (presentEntry 0 0 false ||| 3) } }
     let key := connKey 0 1
     let taken (s : State) (r : InReq) : State :=
       (relieve (noteMarked s 0 1 false) 0).modConn key fun y => { y with expect := y.expect + BitVec.ofNat 24 (r.packets (s.conn key)), nakSent := false }
     let behind (n : Nat) (s : State) : State := s.modConn key fun c => { c with parked := (List.range n).map fun k => (k, .read p 8) }
     s.pkg.power = .active && decide (2 ^ 31 < (InReq.read p (2 ^ 31 + 1)).bytes) && (InReq.read p 8).limited &&
     decide (16 ≤ (((behind 16 s).conn key).parked.filter fun q => q.2.limited).length) && ((behind 1 s).conn key).parked ≠ [] &&
     (perform (taken (moves s) (.write p)) (.write p)).isNone && (perform (taken s (.write p)) (.write p)).isSome &&
     (let m := (linked Conn.reset).modConn key fun c => { c with entry := c.entry ||| 4 }
      let q := request m.mgmt.key 0x100 [1]
      let c := m.conn key
      c.valid && c.mgmt && forMgmt m (.write q) && c.parked = [] && decide (q.va + 1 ≤ 0x200000)) &&
     (let old := (behind 1 s).modConn key fun c => { c with expect := 3, cache := [(1, [7])] }
      let c := old.conn key
      decide ((c.expect - (2 : BitVec 24)).toNat = 1) && (c.parked.any fun q => decide (((0 : BitVec 24) - q.2.packet.psn).toNat < q.2.packets c)) &&
      c.cache.any (fun e => decide (((1 : BitVec 24) - e.1).toNat < max 1 (ceilDiv e.2.length c.mtu))))) = true := by decide +kernel

/-- A SEND that carries a message of a collective engine: the format is the configuration's (log 36). -/
theorem witness_InboundRequests_send (b : Bytes) (l : List Nat) (h : Config.collDecode b = some l)
    (m : CollMsg) (hm : msgOfNats 0 0 l = some m) : (Config.collDecode b).bind (fun l => msgOfNats 0 0 l) = some m := by
  rw [h]; exact hm

/-- A connection with one request outstanding at its first PSN, and one that waits. -/
def busyConn (retries : Nat) : Conn :=
  { Conn.reset with outstanding := [{ psn := 0, npkt := 1, op := .read 0 5 8, owner := .mgmt 0 }], waiting := [(.write 0 5 [1] none, .mgmt 0)], psn := 1, retries := retries }

theorem witness_Requester :
    ([0, 6, 7].all fun n =>
      let s := linked (busyConn n)
      let c := s.conn (connKey 0 1)
      c.valid && !c.err && (s.port 0).status.getLsbD 0 && !(s.port 0).holding && c.outstanding ≠ [] && c.waiting ≠ [] &&
      (c.outstanding.any fun q => decide (((0 : BitVec 24) - q.psn).toNat < q.npkt) && q.op.limited && decide (q.op.answer = 8)) &&
      (decide (c.retries < bits c.entry 11 3) = decide (n < 7)) && decide ((c.outstanding.filter fun q => q.op.limited).length < 16)) = true := by
  decide +kernel

/-- R38: answers that end a request, that bring a part of a READ, and that cover a part of a WRITE. -/
theorem witness_Requester_more :
    (let c (op : NetOp) (npkt acked : Nat) (got : Bytes) : Conn := { Conn.reset with outstanding := [{ psn := 5, npkt := npkt, op := op, owner := .mgmt 0, acked := acked, got := got }] }
     let rd : NetOp := .read 0 5 8192
     let wr : NetOp := .write 0 5 (List.replicate 8192 1) none
     let at0 (c : Conn) (psn : BitVec 24) (p : Conn → Request → Nat → Bool) : Bool :=
       let y := (linked c).conn (connKey 0 1)
       match y.outstanding with | q :: _ => y.valid && !y.err && decide ((psn - q.psn).toNat < q.npkt) && decide (q.acked < q.npkt) && p y q (psn - q.psn).toNat | [] => false
     at0 (c rd 2 1 (List.replicate 4096 1)) 6 (fun _ q k => q.op.limited && decide (k = q.acked) && decide ((q.got ++ List.replicate 4096 (2 : Byte)).length = q.op.answer)) &&
     at0 (c rd 2 0 []) 5 (fun y q k => q.op.limited && decide (k = q.acked) && decide (4096 % y.mtu = 0) && decide (4096 < q.op.answer)) &&
     at0 (c wr 2 0 []) 6 (fun _ q k => !q.op.limited && decide (k + 1 = q.npkt)) &&
     at0 (c wr 2 0 []) 5 (fun _ q k => !q.op.limited && decide (q.acked ≤ k) && decide (k + 1 < q.npkt)) &&
     ((linked Conn.reset).conn (connKey 0 1)).outstanding = [] && ((linked Conn.reset).conn (connKey 0 1)).waiting = []) = true := by decide +kernel

/-! ## Witnesses: the management processor -/

/-- The request that is next: OPC, INDEX, context and body. -/
def asked (opc index ctx : Nat) (body : Bytes) (s : State) : State :=
  let r : MgmtReq := ⟨0, 0, 1, BitVec.ofNat 512 (opc + 2 ^ 32 * body.length + 2 ^ 64 * index + 2 ^ 128 * ctx), body, 0⟩
  { s with mgmt := { s.mgmt with current := some r } }

def answers (opc : Nat) (s : State) (p : MgmtReq → Bool) : Bool :=
  match nextReq s with | some r => decide (r.opc = opc) && !r.reserved && decide (r.len ≤ 4032) && p r | none => false

theorem witness_ManagementOfNetwork :
    (([1, 2, 4, 5, 6, 7, 8, 9, 10, 11].all fun opc => answers opc (asked opc 0 0 (List.replicate 64 0) State.reset) fun _ => true) &&
     answers 3 (asked 3 0x10000 0 [] (linked (busyConn 0))) (fun r =>
       decide (r.index = r.index % 8 + r.index / 65536 % 4096 * 65536) && ((linked (busyConn 0)).conn (connKey 0 1)).valid)) = true := by decide +kernel

theorem witness_ManagementOfMachine :
    (([12, 13, 14, 15, 16, 17, 19, 20, 21, 22, 23, 24, 25, 26, 27].all fun opc => answers opc (asked opc 0 0 (List.replicate 64 0) State.reset) fun r => decide (48 ≤ r.len)) &&
     answers 18 (asked 18 0 0 (List.replicate 16 0) (mapped State.reset)) (fun r => decide (r.len % 16 = 0) && decide (r.body.length = 16) &&
       decide (tget 0 (mapped State.reset).mem.level1 0 ≠ 0)) &&
     answers 14 (asked 14 0x85 0 [2, 0, 0, 0, 0, 0, 0, 0] State.reset) (fun r => ctxRegOk 0x85 && (r.word 0).getLsbD 1 && !ctxRegBad 0x85 (r.word 0)) &&
     ([0, 1, 2, 3].all fun i => answers 25 (asked 25 i 0 [] State.reset) fun r => decide (r.index = i) && State.reset.residents = [])) = true := by
  decide +kernel

/-! ## Witnesses: queues, launches and teams -/

/-- Queue 3: valid and enabled, 16 entries from the page at 0x10000. -/
def queueOf (f : Queue → Queue) (s : State) : State :=
  s.setQueue 3 (f { (default : Queue) with desc := BitVec.ofNat 512 (3 + 2 ^ 5 * 4 + 2 ^ 64 * 0x10000), widx := 1 })

theorem witness_QueuesAndLaunches :
    (let s := queueOf id (mapped State.reset)
     let t := queueOf (fun x => { x with slot := some 0 }) (mapped State.reset)
     let x := s.queue 3
     let y := t.queue 3
     congBad 0x5050208 = false && !devRegBad 0x25 7 && ctxRegOk 0x85 && !ctxRegBad 0x85 1 && !partBusy State.reset 0 0x85 1 &&
     State.reset.mem.notify = [] && x.desc.getLsbD 0 && x.desc.getLsbD 1 && (descBad s x).isNone && decide (bits x.desc 5 5 = 4) &&
     s.queues.map (·.1) = [3] && x.slot.isNone && x.fidx ≠ x.widx && x.window = [] && !x.halt &&
     y.slot.isSome && !y.stopping && s.pkg.power = .active &&
     (match readRingEntry t y (y.rbase + 128 * (y.fidx.toNat % 2 ^ bits y.desc 5 5)) with
      | (some (_, _), s1) => s1.queue 3 = y && y.arrivals = [] | _ => false)) = true := by decide +kernel

theorem witness_QueuesAndLaunches_entries :
    ((let s := queueOf (fun x => { x with desc := setBits x.desc 10 6 1 }) (mapped State.reset)
      (s.queue 3).desc.getLsbD 0 && descBad s (s.queue 3) = some 1) &&
     [0, 1, 2, 3].all fun type =>
      let s0 := queueOf (fun x => { x with slot := some 0 }) (mapped State.reset)
      let x := s0.queue 3
      let s := agentWrite s0 (x.rbase + 128 * (x.fidx.toNat % 16)) 0 (bytesOf 8 type)
      s.queue 3 = x && x.slot.isSome && x.window = [] && x.arrivals = [] && x.ridx = x.fidx &&
      (match readRingEntry s x (x.rbase + 128 * (x.fidx.toNat % 16)) with
       | (some (ws, fmt), s1) => s1.queue 3 = x && (if type = 0 then fmt = 1 else fmt = 0 && decide (bits (ws.getD 0 0) 0 8 = type)) &&
          (type ≠ 3 ||
            (let e : Entry := ⟨x.fidx.toNat, ws, 0, .decoded, s1.arrivals⟩
             (pollBarrier s1 x.ctx e).1 = none || (pollBarrier s1 x.ctx e).1 = some 0))
       | _ => false)) = true := by decide +kernel

/-- A launch record of one team of 32 lanes with the kernel record at 0x200, which has these words. -/
def launchEntry (words : List Nat) : Entry :=
  ⟨0, [1, 0x200, 1 + 2 ^ 32 + 2 ^ 48, 32 + 2 ^ 11 + 2 ^ 22 + 2 ^ 36, 0, 0, 0, 0, 0].map (BitVec.ofNat 64) ++ words.map (BitVec.ofNat 64), 0, .decoded, 0⟩

def toLaunch (kernel : List Nat) (slots : Nat) (e : Entry) : State :=
  let s := queueOf (fun x => { x with slot := some 0, window := [e] }) (mapped State.reset)
  let s := s.modContext 0 fun c => { c with regs := tset 0 c.regs 0x82 (BitVec.ofNat 64 (100 + 2 ^ 32 * slots)) }
  holding 0x200 (kernel.flatMap (bytesOf 8)) s

theorem witness_QueuesAndLaunches_start :
    ((let e := launchEntry []
      let s := toLaunch [0x40, 0x80, 0, 0x400000 + 8 + 2 ^ 8 * 4] 1 e
      let x := s.queue 3
      mayStart x e && e.fmt = 0 && e.type = 1 && decide (e.idx = x.ridx.toNat) && !launchBad e &&
      (match readCtx s x.ctx true (e.word 1).toNat 64 with
       | (.ok kb, s1) => s1.launches = s.launches && !kernelBad (wordsOf kb) && (match mergeBudget (e.word 4) ((wordsOf kb).getD 3 0) with
          | some b => slotsFit s1 x.ctx 1 32 b && (match readCtx s1 x.ctx false (e.word 7).toNat (e.word 8).toNat with | (.ok _, _) => true | _ => false)
          | none => false)
       | _ => false)) &&
     launchBad (launchEntry [1]) &&
     (match readCtx (toLaunch [0x40, 0, 0, 0] 1 (launchEntry [])) 0 true 0x200 64 with | (.ok kb, _) => kernelBad (wordsOf kb) | _ => false) &&
     (match readCtx (toLaunch [] 1 (launchEntry [])) 0 true 0x80000 64 with | (.bad _, _) => true | _ => false) &&
     (mergeBudget 1 (0x400000 + 8 + 2 ^ 8 * 4)).isNone && !slotsFit (toLaunch [] 0 (launchEntry [])) 0 1 32 ⟨64, 64, 64, 0⟩) = true := by decide +kernel

def teamId : Nat := State.reset.nextId + 1
def launchId : Nat := State.reset.nextId

/-- The team of the tests with its launch and its team changed. -/
def teamOf (f : Launch → Launch) (g : Team → Team) : State :=
  (mapped (about false (.nop (R 0 0 0 0 0)) id fun s => (s.modLaunch launchId f).modTeam teamId g))

/-- A launch of the test's kernel that is ready on a queue that holds a slot. -/
def readyState (slots : Nat) (f : Launch → Launch) : State :=
  (queueOf (fun x => { x with slot := some 0 }) (toLaunch [] slots (launchEntry []))) |> fun s =>
    let l : Launch := { (default : Launch) with queue := 3, tx := 32, ty := 1, tz := 1, setsz := 1, width := 32, count := 2, budget := ⟨64, 64, 64, 0⟩ }
    { s with launches := [(5, f l)], nextId := 6, pkg := { s.pkg with noPlace := (List.range 127).map (· + 1) } }

theorem witness_Distribution_decision :
    (let order (s : State) := (s.launches.filter fun p => isReady s p.1 p.2).foldl (fun l x => insertLaunch s x l) []
     let s2 (s : State) : State := let s1 := restartChains (answerGrow s)
       { s1 with launches := s1.launches.map fun p => if isReady s1 p.1 p.2 then p else (p.1, { p.2 with skips := 0 }) }
     let a := s2 (readyState 4 id)
     let b := s2 (readyState 0 fun l => { l with skips := 255 })
     State.reset.pkg.power = .active && order (s2 State.reset) = [] && (order a).map (·.1) = [5] &&
     (match a.launch? 5 with
      | some l => l.requeued = [] && decide (l.setsz = 1) && l.role = .none && a.teams = [] &&
          (match fitUnit a l [.fresh l.next] with | some [_] => true | _ => false)
      | none => false) &&
     (match b.launch? 5 with | some l => (order b).map (·.1) = [5] && (fitUnit b l [.fresh l.next]).isNone && decide (255 ≤ l.skips) | none => false)) = true := by
  decide +kernel

theorem witness_Distribution :
    (let ok (s : State) (p : Team → Launch → Bool) : Bool := match s.team? teamId with
       | some t => (match s.launch? t.launch with | some l => p t l | none => false)
       | none => false
     let atSl (u : UnitState) : UnitState := u.modThread 0 fun th => { th with park := .slice, run := false }
     let gone (u : UnitState) : UnitState := { u with exited := true }
     ok (teamOf (fun l => { l with cbudget := 9 }) fun t => { t with budget := 5 }) (fun t l =>
       t.life = .running && decide (l.cbudget ≠ 0) && decide (t.budget ≠ 0) && !t.raised && !t.allExited) &&
     ok (teamOf id fun t => { t with grace := some 0 }) (fun t _ => t.grace = some 0 && !setAtSlice (teamOf id fun t => { t with grace := some 0 }) teamId && !t.allExited) &&
     ok (teamOf id fun t => { t with caller := atSl t.caller, groups := t.groups.map atSl }) (fun t _ =>
       t.atSlice && !t.allExited && !t.raised && (marked (teamOf id fun t => t) t).isNone) &&
     ok (teamOf id fun t => { t with raisedBudget := true, caller := atSl t.caller, groups := t.groups.map atSl }) (fun t _ =>
       t.atSlice && t.raised && setAtSlice (teamOf id fun t => { t with raisedBudget := true, caller := atSl t.caller, groups := t.groups.map atSl }) teamId) &&
     ok (teamOf id fun t => { t with life := .saving }) (fun t l => let s1 := saveSteps (teamOf id fun t => { t with life := .saving }) teamId t
       match s1.team? teamId with | some t1 => t.life = .saving && !saveWaits s1 teamId t1 && slotCheck s1 t1 l true = .ok | none => false) &&
     ok (teamOf id fun t => { t with caller := gone t.caller, groups := t.groups.map gone }) (fun t l =>
       t.resident && t.life ≠ .saving && t.allExited && l.role = .none &&
       (State.reset.core t.home).matq = [] && (t.refs teamId).all fun r => !netBusy (teamOf id id) r)) = true := by decide +kernel

theorem witness_Distribution_more :
    (let s := (teamOf (fun l => { l with queue := 3 }) id).setQueue 3 { (default : Queue) with desc := BitVec.ofNat 512 (2 ^ 256 * 4096), allow := 512 }
     let g := { s with growReqs := [⟨unitOf false, 0, 2⟩] }
     let u := g.modUnit (unitOf false) fun u => u.modThread 0 fun th => { th with park := .grow none, run := false }
     (match s.team? teamId with
      | some t => (match s.launch? t.launch with
         | some l => decide ((s.queue l.queue).allowance ≠ 0) && decide (0 < (s.queue l.queue).allow) && decide ((s.queue l.queue).allow ≤ 1024) && !t.raised
         | none => false)
      | none => false) &&
     (match u.unit? (unitOf false) with | some v => v.hasStream 0 && (v.thread 0).park = .grow none | none => false)) = true := by decide +kernel

/-- A context with two stages, the first with nothing to do and the second with too much. -/
def staged (f : Context → Context) : State :=
  let stage (occ : Nat) : List Nat := [occ, 8 + 2 ^ 32 * 2, 1 + 2 ^ 16 * 8 + 2 ^ 32, 0]
  let s := mapped State.reset
  let s := s.modContext 0 fun c => f { c with regs := tset 0 (tset 0 c.regs 0x83 (1 + 2 ^ 16)) 0x84 0x1000 }
  let l (n : Nat) : Launch := { (default : Launch) with stage := n, count := 4 }
  holding 0x2000 (bytesOf 8 9) (holding 0x1000 ((stage 0x2008 ++ stage 0x2000).flatMap (bytesOf 8)) { s with launches := [(1, l 0), (2, l 1)] })

/-- R84: both stages are read, one of them can give up a team and the other needs one; a swap whose team is gone, one that
waits and one that has waited for 16 periods. R101: a counter of core 127 that has wrapped. -/
theorem witness_GovernorAndEvents :
    ((match readStages 0 (List.range 8) (staged id) with
      | some (now, s1) => (s1.context 0).swap.isNone && (s1.ctxReg 0 0x83).getLsbD 0 &&
          now.any (fun x => decide (x.st.high ≤ x.o) && decide (x.t < x.st.max)) && now.any (fun x => decide (x.o ≤ x.st.low) && decide (x.st.min < x.t))
      | none => false) &&
     ([(some 77, 3), (none, 3), (none, 15)].all fun w =>
       match readStages 0 (List.range 8) (staged fun c => { c with swap := some ⟨0, 1, w.2, w.1⟩ }) with
       | some (_, s1) => (match (s1.context 0).swap with
         | some x => (match x.taken with | some id => hasExited s1 id && (runningStage s1 0 x.a).isSome | none => true)
         | none => false)
       | none => false) &&
     (let s := (State.reset.modCore 127 fun c => { c with overflow := [(5, 3)] }).setConn (connKey 0 0) { Conn.reset with entry := 1 }
      (s.core 127).overflow.find? (fun o => o.1 = 5) = some (5, 3) && (s.conn (connKey 0 0)).valid && (s.core 126).overflow = [])) = true := by decide +kernel

/-- A clause of one word at address 64: its header and a NOP, or words that the header or the class does not allow. -/
def clauseAt (h : Nat) (w : W64) (f : UnitState → UnitState) : State :=
  let there (u : UnitState) : UnitState := f (u.modThread 0 fun th => { th with pc := 64, words := [], run := false, met := false })
  holding 64 (bytesOf 8 h ++ bytesOf 8 w.toNat) (mapped (about false (.nop (R 0 0 0 0 0)) there id))

/-- The header of a control clause of one word without waits. -/
def plainHeader : Nat := 3 * 16 + 0x180 * 2 ^ 28 + 0x180 * 2 ^ 37 + 0x180 * 2 ^ 46

theorem witness_ClausesAndTraps_fetch :
    (let ok (s : State) (p : Team → UnitState → Launch → Bool) : Bool := match s.team? teamId, s.unit? (unitOf false), s.launch? launchId with
       | some t, some u, some l => u.streamLive 0 && (u.thread 0).words = [] && mayIssue s (unitOf false) u && u.pending = [] && p t u l
       | _, _, _ => false
     let fetched (s : State) (p : List W64 → State → Launch → UnitState → Bool) : Bool := ok s fun t u l =>
       match fetchClause s (unitOf false) t u.core 0 (u.thread 0).pc with | (.ok ws, s1) => p ws s1 l u | _ => false
     let nop : W64 := 0x14
     fetched (clauseAt plainHeader 0x19 id) (fun ws s1 l u => (headerCause s1 (unitOf false) u.core l.budget (decodeHeader (ws.headD 0))).isNone &&
       wordsOk 3 16 (ws.drop 1) && !atJoin u 0 64 && (s1.unit? (unitOf false)) = some u) &&
     fetched (clauseAt (plainHeader + 2 ^ 62) nop id) (fun ws _ _ _ => decide ((decodeHeader (ws.headD 0)).reserved ≠ 0)) &&
     fetched (clauseAt (0x1FF * 2 ^ 28 + 3 * 16 + 2 ^ 13 + 0x180 * 2 ^ 37 + 0x180 * 2 ^ 46) nop id) (fun ws s1 l u =>
       headerCause s1 (unitOf false) u.core l.budget (decodeHeader (ws.headD 0)) = some 7) &&
     fetched (clauseAt (plainHeader - 3 * 16) (0x8000000000301401 : W64) id) (fun ws _ _ _ => !wordsOk 0 16 (ws.drop 1)) &&
     ok (clauseAt plainHeader nop fun u => u.modThread 0 fun th => { th with pc := 2 ^ 40 }) (fun t u _ =>
       match fetchClause (clauseAt plainHeader nop id) (unitOf false) t u.core 0 (2 ^ 40) with | (.error (.fault _ _ _), _) => true | _ => false) &&
     ok (clauseAt plainHeader nop fun u => u.modThread 0 fun th => { th with pc := 4 }) (fun _ u _ => decide ((u.thread 0).pc % 8 ≠ 0))) = true := by
  decide +kernel

/-- The clause that follows the one that issues: it can be read, or its page lets it wait. A fetch that stands on a fault entry. -/
theorem witness_ClausesAndTraps_ahead :
    (let issuing (u : UnitState) : UnitState := u.modThread 0 fun th => { th with words := [BitVec.ofNat 64 plainHeader, 0x19], run := true }
     let ahead (g : State → State) (p : Except WordAns (List W64) → State → UnitState → Bool) : Bool :=
       let s := g (clauseAt plainHeader 0x19 issuing)
       match s.team? teamId, s.unit? (unitOf false) with
       | some t, some u => u.streamLive 0 && mayIssue s (unitOf false) u && decide ((u.thread 0).nextPc = 80) && (u.thread 0).ahead = [] &&
           (match fetchClause s (unitOf false) t u.core 0 80 with | (a, s1) => p a s1 u)
       | _, _ => false
     let moving (s : State) : State := { s with mem := { s.mem with ptes := [(0, (presentEntry 0 0 false &&& ~~~7) ||| 3)] } }
     ahead id (fun a s1 u => (match a with | .ok _ => true | _ => false) && s1.unit? (unitOf false) = some u) &&
     ahead moving (fun a s1 _ => (match a with | .error .wait => true | _ => false) && s1.mem.movePark ≠ [] &&
       !fetchStirs s1 (unitOf false) 0 80)) = true := by decide +kernel

theorem witness_ClausesAndTraps_select :
    ([false, true].all fun caller =>
      let idle (u : UnitState) : UnitState := u.modThread 0 fun th => { th with run := false, words := [BitVec.ofNat 64 plainHeader, 0x19], idx := 1, met := false }
      let s := { about caller (.nop (R 0 0 0 0 0)) idle id with agenda := [] }
      let s := s.modCore 0 fun c => { c with parts := [], callerPort := default }
      match s.team? teamId, s.unit? (unitOf caller) with
      | some t, some u => readyOf s (unitOf caller) = some 0 && decide (t.home = 0) && (s.onCore 0).any (fun p => p.1 = teamId) && decide (u.core = 0) &&
          !(u.thread 0).header.barw && !(u.thread 0).header.ringw &&
          (caller || (let ready := (partGroups s 0 u.part).filterMap fun r => (readyOf s r).map fun k => (r, k)
                      ready = [(unitOf false, 0)] && (slotPartner s ready (unitOf false, 0)).isNone))
      | _, _ => false) = true := by decide +kernel

theorem witness_ClausesAndTraps_delivery :
    ([0, 2].all fun level =>
      let rep : Replay := { (default : Replay) with instr := some (.nop (R 0 0 0 0 0)), em := 3 }
      let p : PendTrap := { (default : PendTrap) with cause := 0x0D, level := level, f := 3, rep := rep }
      let waits (u : UnitState) : UnitState := { u.modThread 0 fun th => { th with words := [], run := false, met := false } with pending := [p] }
      let s := holding (0x1000 + 8 * 0x0D) [0x40] (withHtab (mapped (about false (.nop (R 0 0 0 0 0)) waits id)))
      match s.unit? (unitOf false) with
      | some u => firstDue s u = some p && (match readHtab s (unitOf false) 0x0D with | (.entry pc, _) => decide (pc = 0x40) | _ => false) &&
          (match readHtab (withHtab (mapped (about false (.nop (R 0 0 0 0 0)) waits id))) (unitOf false) 0x0D with | (.zero, _) => true | _ => false)
      | none => false) = true := by decide +kernel

/-! ## Witnesses: the memory side -/

/-- An access of one lane in flight, to the byte at `ia` behind the window of `mapped`. -/
def flying (k : AccKind) (l : LaneAcc) : Access :=
  { (default : Access) with id := 3, u := unitOf false, kind := k, dst := some 4, regs := 1, lanes := [l], rep := { (default : Replay) with em := 1 } }

def laneAt (ia : Nat) (st : LaneStatus) : LaneAcc := ⟨0, ia, ia, 4, [7], [1], st⟩

def inAir (a : Access) (g : State → State) : State := g { mapped (about false (.nop (R 0 0 0 0 0)) id id) with inflight := [a] }

theorem witness_AccessesAtHome :
    (let turn (a : Access) (l : LaneAcc) (g : State → State) (p : State → HomeAns × State → Bool) : Bool :=
       let s := inAir a g
       match s.access? a.id, s.unit? a.u with
       | some b, some u => b.lane? l.lane = some l && decide (l.st = .waiting) && replayTurn s a.id l.lane (pageOf l.ia) && !redAhead s a.core l.ia a.id &&
           !olderOpen s a.u a.id l.ia l.size && a.u.grp.isSome && laneMask a l ≠ 0 && !u.exited && u.pending = [] && decide (a.rep.slot ≠ 5) && s.pkg.badLines = [] &&
           p s (homeCheck (replayDone s a.id l.lane) a.u (s.coreSecure a.core) (match a.kind with | .load _ => false | _ => true) l.ia)
       | _, _ => false
     let fine (s : State) (ans : HomeAns × State) : Bool := ans.1 = .ok && !loadBad ans.2 0 (64 : Nat) 4 && s.pkg.badLines = []
     let here := laneAt 64 .waiting
     let away := laneAt (5 * 65536) .waiting
     let moves (s : State) : State := { s with mem := { s.mem with ptes := tset 0 s.mem.ptes 0 3 } }
     ([false, true].all fun b => turn (flying (.load b) here) here id fine && turn (flying (.store b) here) here id fine) &&
     ([AccKind.load true, .store true].all fun k => turn (flying k { here with size := 16 }) { here with size := 16 } id fine) &&
     turn (flying (.red 0 2) here) here id fine && turn (flying (.atom 0 2 false) here) here id fine &&
     turn (flying (.load false) away) away id (fun _ ans => match ans.1 with | .fault _ _ => true | _ => false) &&
     turn (flying (.load false) here) here moves (fun _ ans => match ans.1 with | .park .moving => true | _ => false) &&
     turn (flying (.load false) away) away (fun s => { s with mem := { s.mem with faults := [⟨5, ⟨99, none⟩, []⟩] } })
       (fun _ ans => match ans.1 with | .park (.entry 5) => true | _ => false)) = true := by decide +kernel

theorem witness_AccessesAtHome_writeback :
    ([(4, false), (4, true), (0x104, false)].all fun d =>
      let a := { flying (.load false) (laneAt 64 (.done [9, 8])) with dst := some d.1, uni := d.2 }
      let s := inAir a id
      match s.access? 3, s.unit? (unitOf false) with
      | some b, some u => b.kind.isLoad && b.lanes.all (fun y => !y.open && decide (y.lane < 64)) && !u.exited && u.pending = [] && u.replays = [] &&
          u.override.isNone && u.handler.isNone && s.inflight.length = 1
      | _, _ => false) = true := by decide +kernel

/-- R156: a lane behind an earlier one of its unit to the same byte. -/
theorem witness_AccessesAtHome_behind :
    (let l := laneAt 64 .waiting
     let s := inAir (flying (.load false) l) fun s => { s with inflight := { flying (.load false) l with id := 1 } :: s.inflight }
     match s.access? 3 with
     | some a => a.lane? 0 = some l && olderOpen s a.u 3 64 4
     | none => false) = true := by decide +kernel

/-- R247: a TRACE in flight one of whose bytes another unit writes, and its write-back. -/
theorem witness_RaysAndHashGrids_raced :
    (let trace : Instr := .trace (R 4 16 0x104 0 0)
     let r : Replay := { (default : Replay) with instr := some trace, em := 1 }
     let b : Access := flying .unit (laneAt 0 (.done [1, 2, 3, 4, 5, 6, 7]))
     let a : Access := { b with dst := some 4, regs := 7, uni := false, rep := r }
     let s := inAir a fun s => { s with order := { s.order with reads := [⟨3, 0, 0, 0x100, 64⟩] } }
     let t := writeMark s (.unit ⟨99, none⟩) 0x120 4
     match t.access? 3, t.unit? (unitOf false) with
     | some b, some u => b.lanes.length = 1 && !u.exited && u.live.getLsbD 0 && t.isRaced 3 0 0 && !(writeMark s (.unit (unitOf false)) 0x120 4).isRaced 3 0 0 &&
         (noteRead t (unitOf false) ⟨4, 0, 0, 0x100, 64⟩).isRaced 4 0 0 && !(noteRead t (unitOf false) ⟨4, 0, 0, 0x130, 64⟩).isRaced 4 0 0
     | _, _ => false) = true := by decide +kernel

/-- Pages that wait for a change, one that moves, and the first line of page 0 in the memory-side cache. -/
def changing (l : List Change) (g : State → State) : State :=
  let s := mapped State.reset
  g { s with mem := { s.mem with changes := l } }

theorem witness_PagesAndWritebacks :
    (let line : L1Line := { (default : L1Line) with dirty := 1, valid := 1 }
     let wb (g : State → State) : State := g ((mapped State.reset).setL1 0 0 line)
     let lost (s : State) : State := { s with mem := { s.mem with ptes := [] } }
     ([wb id, wb lost].all fun s => match s.l1? 0 0 with
       | some l => decide (l.dirty ≠ 0) && !l.lrel && !l.localAtom && (ownerOf s 0 (some 0)).isNone && (homeSlice 0).isSome && s.pkg.badLines = [] | none => false) &&
     decide (pageState (wb id) 0 = 1) && pageState (wb lost) 0 ∉ [1, 3] &&
     (let parked (u : UnitState) : UnitState := u.modThread 0 fun th => { th with park := .page none, run := false }
      let c : Change := ⟨5, presentEntry 9 0 false, .pmap (unitOf false) 0⟩
      let s := mapped (about false (.nop (R 0 0 0 0 0)) parked fun s => { s with mem := { s.mem with changes := [c] } })
      s.mem.changes.find? (fun c => c.page = 5) = some c && decide (pageState s 5 ≠ 3) && decide (tget 0 s.mem.level1 (5 / 16384) ≠ 0) &&
      (match s.unit? (unitOf false) with | some u => u.hasStream 0 && (u.thread 0).park = .page none | none => false)) &&
     (let c : Change := ⟨1, presentEntry 9 0 false, .migr none⟩
      let s := changing [c] id
      s.mem.changes.find? (fun c => c.page = 1) = some c && decide (pageState s 1 = 1)) &&
     ([(false, false), (true, true)].all fun f =>
       let m : Migration := ⟨1, 9, f.1, 1, none, [], none, f.2⟩
       let s := changing [] fun s => { s with mem := { s.mem with migrations := [m], ptes := tset 0 s.mem.ptes 1 (setBits (pte s 1) 0 3 3) } }
       s.mem.migrations.find? (fun m => m.page = 1) = some m && !moveBad s 1 1 && decide (bits (pte s 1) 0 3 = 3) && decide (tget 0 s.mem.level1 0 ≠ 0))) = true := by decide +kernel

theorem witness_PagesAndWritebacks_pin :
    let s := changing [] fun s => { s with mem := { s.mem with msc := [(0, default)], pinWait := [(0, false, 0, 3)] } }
    ∃ slice, (s.mem.pinWait.find? fun w => homeSlice (128 * w.1) = some slice && mscSetOf w.1 = mscSetOf 0) = some (0, false, 0, 3) ∧
      pinsInSet s 0 < pinLimit s 0 0 ∧ s.msc? 0 = some default := by
  refine ⟨(homeSlice 0).getD 0, ?_, ?_, by decide +kernel⟩
  · simp [changing, mapped]; decide +kernel
  · exact Nat.lt_of_le_of_lt (List.length_filter_le _ _) (by decide +kernel)

/-! ## Witnesses: copy channels and the matrix unit -/

/-- Channel 0 of the test's team, about to read the record at 0x400. -/
def chained (r : Nat) (f : Channel → Channel) : State :=
  let ch : Channel := { (default : Channel) with st := .reading, cur := 0x400, wins := [(0, 0x2AF)], team := teamId }
  holding 0x400 (bytesOf 64 r) { mapped State.reset with channels := [(0, f ch)] }

/-- A run of 64 bytes from 0x1000 to 0x2000, with OWN. -/
def runRecord : Nat := 1 + 2 ^ 128 * 0x1000 + 2 ^ 192 * 0x2000 + 2 ^ 256 * 64 + 2 ^ 320 * 0

theorem witness_CopyRecords :
    (let ready (s : State) (p : BitVec 512 → State → Bool) : Bool :=
       let ch := s.channel 0
       ch.st = .reading && engineCheck s ch.wins false false ch.cur 64 = .ok && engineCheck s ch.wins false true ch.cur 8 = .ok &&
       (match engineRead s ch.wins false ch.cur 64 0 with | (false, bs, s1) => p (BitVec.ofNat 512 (natOf bs)) s1 | _ => false)
     ready (chained runRecord id) (fun r s1 => r.getLsbD 0 && !recordBad r && !rRingen r && decide (rMode r = 0) && scopeValid (s1.channel 0).wins (rScope r) &&
       (match planRuns (s1.modChannel 0 fun c => { c with record := r }) ((s1.modChannel 0 fun c => { c with record := r }).channel 0) r with
        | (.ok pl, _) => pl.pieces ≠ [] && pl.pieces.all fun p => !p.remoteSrc && !p.remoteDst | _ => false)) &&
     ready (chained (runRecord + 2 ^ 29) id) (fun r _ => r.getLsbD 0 && recordBad r && !rRingen r) &&
     ready (chained (runRecord + 2 ^ 15) id) (fun r s1 => r.getLsbD 0 && !recordBad r && rRingen r && !ringHeld s1 0 (rRing r) teamId) &&
     ready (chained (runRecord - 1) id) (fun r _ => !r.getLsbD 0) &&
     (match engineCheck (chained 0 fun c => { c with cur := 2 ^ 40 }) [(0, 0x2AF)] false false (2 ^ 40) 64 with | .stop _ _ _ => true | _ => false)) = true := by
  decide +kernel

/-- Channel 0 moving the record `r`, all in local memory and the stores of core 0. -/
def movingRecord (r : Nat) (plan : List Piece) (f : Channel → Channel) : State :=
  chained 0 fun c => f { c with st := .moving, record := BitVec.ofNat 512 r, plan := plan }

theorem witness_CopyRecords_end :
    ([Loc.mem 0x2000, .mem (2 ^ 40)].all fun d =>
      let s := movingRecord runRecord [{ pos := 0, len := 64, src := .mem 0x1000, dst := d }] id
      let ch := s.channel 0
      let m := readSource ch ch.plan s
      let s1 := goOnWriting 0 (m.s.modChannel 0 fun c => { c with writes := some m.writes, err := m.err })
      ch.st = .moving && decide (ch.got_n = 0) && ch.failed.isNone && ch.planEnd.isNone && ch.writes.isNone && !m.wait && m.err.isNone &&
      decide ((s1.channel 0).writes = some []) && !endWaits s1 (s1.channel 0) ch.record && (s1.channel 0).err.isNone = decide (d = .mem 0x2000) &&
      decide (rStaddr ch.record = 0) && ch.slot.isNone && ch.landing = [] && !endWaits s ch ch.record &&
      (match cpRead s ch (ch.cur + 8) 8 with | (.ok _, _) => true | _ => false)) = true := by decide +kernel

theorem witness_CopyRecords_waits :
    (let s := movingRecord runRecord [{ pos := 0, len := 64, src := .mem 0x1000, dst := .mem 0x2000 }] id
     let s := { s with mem := { s.mem with ptes := tset 0 s.mem.ptes 0 (setBits (pte s 0) 0 3 3) } }
     (readSource (s.channel 0) (s.channel 0).plan s).wait &&
     (let s := movingRecord runRecord [] fun c => { c with writes := some [⟨0, 0, .mem (2 ^ 40), [1], true⟩] }
      match engineCheck s (s.channel 0).wins false true (2 ^ 40) 1 with
      | .stop _ _ _ => !endWaits s (s.channel 0) (s.channel 0).record
      | _ => false)) = true := by decide +kernel

/-- R197: 32 blocks of F32 in the activation store, quantised to MXI8 into the weight store with their scales in the scale store. -/
theorem witness_CopyRecords_modes :
    (let s := movingRecord (1 + 2 * 3 + 2 ^ 6 + 2 ^ 8 * 2 + 2 ^ 24 + 2 ^ 256 * 4096) [] id
     let ch := s.channel 0
     let m := moveQuantise ch ch.record { writes := [], err := none, s := s }
     decide (rSsp ch.record = 1) && !locBad (.store 0 (rSrc ch.record)) (rLen ch.record) && !locBad (locOf (rDsp ch.record) none (rDst ch.record)) 1024 &&
     !locBad (locOf 3 none (rAux ch.record)) 32 && !wordsBad s 0 0 0 4096 && decide (m.writes.length = 64) &&
     (planeEncode (List.replicate 1024 1)).length = 1024 &&
     (let s := movingRecord runRecord [] fun c => { c with got := [(0, List.replicate 64 5)] }
      decide (((s.channel 0).got.find? fun g => g.1 = 0) = some (0, List.replicate 64 5)))) = true := by decide +kernel

theorem witness_CopyRecords_stores :
    (!locBad (.store 0 (2 ^ 22 - 32)) 32 && !locBad (.store 2 0) 32 && decide ((0 : Nat) ≠ 2) && !wordsBad State.reset 0 0 (2 ^ 22 - 32) 32) = true := by decide +kernel

/-- An operation of the test's team at the head of the matrix queue of core 0, which its slot is held for. -/
def queuedOp (op : MatOp) (g : State → State) : State :=
  let s := g (mapped (about true (.nop (R 0 0 0 0 0)) id id))
  s.modCore 0 fun c => { c with matq := [{ op with team := teamId, tag := 1 }], reel := [(0, { (default : ReelSlot) with holder := some teamId })] }

/-- A product of one slab of two-byte codes, from the stores or in direct mode. -/
def product (direct : Bool) : MatOp := { (default : MatOp) with kind := .mma false 0 (if direct then 0x40 else 0) 0 [0], started := true }

theorem witness_MatrixUnit :
    ((let wait (u : UnitState) : UnitState := u.modThread 0 fun th => { th with park := .matrix (product false), run := false }
      let s := about true (.nop (R 0 0 0 0 0)) wait id
      match s.unit? (unitOf true) with
      | some us => us.handler.isNone && (us.thread 0).park = .matrix (product false) && matRoom s us.core (product false) && !us.exited &&
          (match s.team? (unitOf true).team with | some tm => tm.life = .running | none => false)
      | none => false) &&
     (match runningOp ((queuedOp { (default : MatOp) with kind := .zero } id).core 0).matq true with | some op => op.kind = .zero | none => false) &&
     (let s := queuedOp (product false) id
      match runningOp (s.core 0).matq true with
      | some op => op.started && decide (op.taintR = 0) && decide (op.taintC = 0) && decide (op.step = 0) &&
          (slabData s 0 op 0 false 0).isSome && (slabData s 0 op 0 true 0).isSome
      | none => false) &&
     (let s := queuedOp (product true) id
      match runningOp (s.core 0).matq true with
      | some op => (slabData s 0 op 0x40 false 0).isNone && (match startOp s 0 op with
          | (op1, s1) => (match nextLine s1 0 op1 with
            | some (_, _, va) => engineCheck s1 (opWins s1 op1) false false va 128 = .ok && s1.mem.pinWait = []
            | none => false))
      | none => false) &&
     (let s := queuedOp { (default : MatOp) with kind := .epi 0 5 0 0 0 } id
      match runningOp (s.core 0).matq false with
      | some op => (match op.kind with | .epi _ _ _ b _ => !ewMem b | _ => false) | none => false) &&
     (let s := queuedOp { (default : MatOp) with kind := .save 0x2000 false false, row := 126 } id
      match runningOp (s.core 0).matq false with
      | some op => (s.core 0).matq.find? (fun m => m.tag = op.tag) = some op && decide (op.row < 127) &&
          engineCheck s (opWins s op) false true (0x2000 + 512 * op.row) 512 = .ok
      | none => false) &&
     (let s := queuedOp { (default : MatOp) with kind := .rest 0x2000, row := 127 } id
      match runningOp (s.core 0).matq true with
      | some op => (runningOp (s.core 0).matq false).isNone && engineCheck s (opWins s op) false false (0x2000 + 512 * op.row) 512 = .ok
      | none => false) &&
     (let s := queuedOp (product false) id
      (s.core 0).matq.any (fun m => m.started && m.stop.isNone) && heldSlots s 0 teamId ≠ [] && (s.residents.map (·.1)) = [teamId] &&
      (match s.unit? (unitOf true) with | some u => u.handler.isNone && !u.exited | none => false))) = true := by decide +kernel

/-! ## Witnesses: raster streams and collectives -/

def prim (seq : Nat) : Prim := { (default : Prim) with seq := seq, xs := [(0, 0), (256, 0), (0, 256)] }

/-- A stream of 64 by 64 pixels in one view, a depth target at 0x4000 and the records at 0x8000. -/
def stream (f : Stream → Stream) (g : State → State) : State :=
  let d := 2 ^ 64 + 2 ^ 80 * 64 + 2 ^ 96 * 64 + 2 ^ 320 * 0x8000 + 2 ^ 377 * 4
  let st : Stream := { (default : Stream) with desc := BitVec.ofNat 512 d, wins := [(0, 0x2AF)], targets := [[0x4000, 0, 0, 0, 1]] }
  g { mapped State.reset with streams := [(2, f st)] }

def emitted : Emit := { seq := 0, mask := 0, nattr := 0, verts := [] }

/-- R236: PEMITs that are forwarded from their record, and one whose record is on a page that moves. -/
theorem witness_RasterStreams_spilled :
    (let s := stream id id
     let m : Emit := { seq := 5, mask := 1, nattr := 0, verts := List.replicate 3 (List.replicate 4 7), record := some 0x2000 }
     let moving : State := { s with mem := { s.mem with ptes := tset 0 s.mem.ptes 0 (setBits (pte s 0) 0 3 3) } }
     (match s.stream? 2 with
      | some st => (match spilledEmit s 2 st m with | some (some _, _) => true | _ => false) && (spilledEmit moving 2 st m).isNone &&
          (match spilledEmit s 2 st { m with record := some (2 ^ 45) } with | some (none, _) => true | _ => false)
      | none => false) && decide (m.verts.length = 3) && m.verts.all (fun v => decide (v.length = 4 + m.nattr))) = true := by decide +kernel

theorem witness_RasterStreams :
    (let at2 (s : State) (p : Stream → Bool) : Bool := match s.stream? 2 with | some st => p st | none => false
     let live (st : Stream) : Stream := { st with live := [(0, [7])] }
     at2 (stream id id) (fun st => tget [] st.live 0 = [] && (mergeHead (tget default st.owners 0)).isNone && (tget default st.owners 0).frags = []) &&
     at2 (stream live id) (fun st => tget [] st.live 0 = [7] && (tget default st.sources 0).emits = [] && geometryEnded (stream live id) 7) &&
     (let one (st : Stream) : Stream := { live st with sources := [(0, { (default : Source) with emits := [(7, emitted)] })] }
      at2 (stream one id) fun st => (tget default st.sources 0).emits.find? (fun e => e.1 = 7) = some (7, emitted) &&
        (match forwardEmit 2 0 emitted (stream one id) with | (.ok, s1) => (s1.stream? 2).isSome | _ => false)) &&
     (let one (st : Stream) : Stream := { st with owners := [(0, { (default : Owner) with inbound := [(3, [prim 5])] })]
                                                  sources := (List.range 4).map fun i => (i, { (default : Source) with w := none }) }
      at2 (stream one id) fun st =>
        let o := tget default st.owners 0
        (match mergeHead o with
         | some (j, p) => decide (j = 3) && decide (p.seq = 5) && mayMerge st o p && !ringBusy st 0 o && decide (o.last ≠ some (p.seq, p.view, p.part)) &&
             (rasterWrite (stream one id) 2 st (ringRecord st 0 o.wptr) (primRecord p)).isSome
         | none => false)) &&
     (let f : FragWait := { (default : FragWait) with seq := 5 }
      let l : Launch := { (default : Launch) with role := .fragment 2 0 }
      let one (st : Stream) : Stream := { st with owners := [(0, { (default : Owner) with frags := [f], live := [(5, 0, 0, 0)], ready := [(⟨0, 0, f⟩, [])] })] }
      let s := stream one fun s => { s with launches := [(4, l)] }
      s.launches.find? (fun p => p.2.role = .fragment 2 0) = some (4, l) && s.launch? 4 = some l &&
      at2 s fun st => itsTurn (tget default st.owners 0) f && (tget default st.owners 0).frags = [f] && decide (bits (targetWord st 0) 0 4 = 1) &&
        (match targetRead s st (pixelAddr st 0 0 0 0 0 2) 2 with | (.ok bs, _) => !depthTest 1 0 (depthCode 1 0) (natOf bs) | _ => false))) = true := by
  decide +kernel

theorem witness_SharedEdges :
    let a : Int × Int := (0, 0)
    let b : Int × Int := (256, 0)
    let p : Int × Int := (128, 0)
    0 < edge a b (0, 256) ∧ edge a b (0, -256) < 0 ∧ edge a b p = 0 ∧
      0 < (p.1 - a.1) * (b.1 - a.1) + (p.2 - a.2) * (b.2 - a.2) ∧
      (p.1 - a.1) * (b.1 - a.1) + (p.2 - a.2) * (b.2 - a.2) < (b.1 - a.1) ^ 2 + (b.2 - a.2) ^ 2 := by decide +kernel

/-- Rank `rank` of an operation of two ranks over one tile, and a message for it. -/
def collOf (rank enc : Nat) (f : CollOp → CollOp) : CollOp :=
  f { (default : CollOp) with record := BitVec.ofNat 512 (2 ^ 2 * enc + 2 ^ 15 * rank + 2 ^ 25 * 2 + 2 ^ 256 * 256 + 2 ^ 384 * 0x6000)
                              wins := [(0, 0x2AF)], ranks := [2, 0, 2 + 2 ^ 2, 0] }

def begun (op : CollOp) : CollOp := { op with begun := true }

def collective (op : List CollOp) (b : List CollBody) : State :=
  { mapped State.reset with collOps := op, collMsgs := b.map fun b => { (default : CollMsg) with sender := 1, body := b } }

theorem witness_Collectives_arrivals :
    (([CollBody.join 2 0 1 256, .exponent 0 5 2 0 1 256, .planes 0 1 1 (List.replicate 32 7) 2 0 1 256, .standard 0 1 (List.replicate 1024 0), .cutRequest 9,
       .cutK 9, .streamStop, .freeze 9].all fun b =>
        let s := collective [collOf 0 1 begun] [b]
        match s.collMsgs[0]? with
        | some m => !behind s 0 m && (match opOf (collective [collOf 0 1 id] [b]) m with | some op => op.finish.isNone && !op.begun | none => false) &&
          (match opOf s m with
            | some op => op.finish.isNone && op.begun && decide (op.rank = 0) && op.cutAccepted.isNone && agrees op 2 0 1 256 && op.scut = [] && (op.tile 0).order = [] && !agrees op 3 0 1 256
            | none => false) && (opOf (collective [] [b]) m).isNone && (ended (collective [] [b]) m).isNone
        | none => false) &&
     (match sendBody (collective [collOf 0 1 id] []) (collOf 0 1 id) 0 (.freezeReply 0) with | (.ok, _) => true | _ => false)) = true := by decide +kernel

theorem witness_Collectives_sends :
    (([0, 1, 2].all fun enc =>
        let op := collOf 0 enc fun op => { op with joined := [1], begun := true }
        let s := collective [op] []
        (dieOps s 0)[0]? = some op && op.finish.isNone && op.outbox = [] && !op.due && nextReceiver op = some 1 &&
        stepReady op (sendStep op 1 (tget 0 op.sent 1)) &&
        (match sendStep op 1 0 with
         | .tile p t => enc = 0 && (match sendData (s.draw 8192).2 op 1 t p 0 [] (bytesOf 1024 7) (.standard t p []) with | (.ok, _) => true | _ => false)
         | .plane j t => enc = 1 && (match sendData s op 1 t op.rank (32 * (j - 1)) [] [] (.planes t op.rank j [] 2 0 1 256) with | (.ok, _) => true | _ => false)
         | .exponent t => enc = 2 && (match sendBody s op 1 (.exponent t 0 2 0 2 256) with | (.ok, _) => true | _ => false)) &&
        (nextReceiver { op with joined := [] }).isNone && !{ op with begun := false }.begun) &&
     (let op := collOf 0 1 fun op => { op with begun := true, outbox := [(1, .streamStop)] }
      (match sendBody (collective [op] []) op 1 .streamStop with | (.ok, _) => true | _ => false)) &&
     (let op := collOf 0 1 fun op => { op with begun := true, due := true }
      op.outbox = [] && (applyTiles (collective [op] []) { op with due := false } (List.range op.nt)).isSome) &&
     (let op := collOf 0 1 fun op => { op with cutAccepted := some 3 }
      let s := collective [op] [.freezeReply 2]
      decide (op.rank = 0) && op.cutK.isNone && !failing op.finish && (freezeReplies s op) ≠ [] && (contributorsOf op).length = 2) &&
     (let op := collOf 0 0 fun op => { op with sent := [(1, 1)], tiles := [(0, { (default : CollTile) with done := true })], joined := [1], begun := true }
      op.allFinal && (List.range 2).all (sendsDone op) && op.begun && op.joined = [1] && !(1 ∈ { op with joined := [] }.joined) && op.finish.isNone && op.cutAccepted.isNone && !coRingen op.record && !(collOf 0 0 id).allFinal)) = true := by
  decide +kernel

/-- R264: V(2) of two parties with E = 0, whose own element is -1.0 (code -2^29) and the other's code is 0x50000000: -2^30 + 2^30 is 0. -/
theorem witness_Collectives_sum :
    (let op := collOf 0 2 fun op => { op with
       src := [(0, List.replicate 256 0xBF800000)]
       tiles := [(0, { (default : CollTile) with exps := [(0, 1), (1, 1)], parts := [(1, List.replicate 256 0x50000000)] })] }
     decide (coEnc op.record = 2) && (agreed op 0 = some 0) && decide (tileSum op 0 1 0 = -2 ^ 31) && (tileValues op 0 2).getD 0 7 = 0 &&
     (tileValues op 0 1).getD 0 7 = 0xC0800000) = true := by decide +kernel

/-- R268: the link between dies 0 and 1 fails while rank 0 on die 0 still sends to rank 1 on die 1. -/
theorem witness_ErrorsAndRetirement_link :
    (let x := collOf 0 1 id
     x.finish.isNone && x.ranks ≠ [] && decide (1 < coP x.record) && decide (1 ≠ x.rank) && entryLocal (x.ranks.getD 2 0) && losesWith State.reset x 1 &&
     ((x.die, entryDie (x.ranks.getD 2 0)) ∈ [linkEnds 0, ((linkEnds 0).2, (linkEnds 0).1)])) = true := by decide +kernel

/-! ## Witnesses: further premises of the statements about the machine -/

/-- R15, R18, R80 to R82: clocks that run, a set at its SLICE, cycles that wait to be charged, and a stage without a launch. -/
theorem witness_Distribution_clocks :
    (let ok (s : State) (p : State → Team → Launch → Bool) : Bool := match s.team? teamId with
       | some t => (match s.launch? t.launch with | some l => p s t l | none => false)
       | none => false
     let atSl (u : UnitState) : UnitState := u.modThread 0 fun th => { th with park := .slice, run := false }
     ok (teamOf (fun l => { l with cbudget := 9 }) fun t => { t with budget := 5 }) (fun s t l =>
       t.life = .running && decide (l.cbudget ≠ 0) && decide (t.budget ≠ 0) && s.coreClocked t.home) &&
     ok (teamOf (fun l => { l with cbudget := 9 }) fun t => { t with expired := true }) (fun _ t _ => t.expired) &&
     ok (teamOf id fun t => { t with grace := some 7, caller := atSl t.caller, groups := t.groups.map atSl }) (fun s t _ =>
       t.grace = some 7 && setAtSlice s teamId) &&
     ok (teamOf id fun t => { t with grace := some 7 }) (fun s t _ => !setAtSlice s teamId && s.coreClocked t.home && !t.allExited) &&
     ok (teamOf (fun l => { l with queue := 3 }) fun t => { t with uncharged := 1024 }) (fun s t l => decide (1024 ≤ t.uncharged) && s.coreClocked t.home &&
       decide (l.queue = 3)) &&
     ok (teamOf id fun t => { t with life := .saving }) (fun s t l =>
       let s1 := saveSteps s teamId t
       match s1.team? teamId with | some t1 => t.life = .saving && !saveWaits s1 teamId t1 && slotCheck s1 t1 l true = .ok | none => false)) = true := by decide +kernel

theorem witness_GovernorAndEvents_gone :
    (match readStages 0 (List.range 8) { staged (fun c => { c with swap := some ⟨0, 1, 3, some 77⟩ }) with launches := [] } with
     | some (_, s1) => (match (s1.context 0).swap with
       | some x => (match x.taken with | some id => hasExited s1 id && (runningStage s1 0 x.a).isNone | none => false)
       | none => false)
     | none => false) = true := by decide +kernel

/-- R15, R42: an error unit's register with the worlds locked, and the power requests in Retention. -/
theorem witness_ManagementOfMachine_power :
    (let ret := { State.reset with pkg := { State.reset.pkg with power := .retention } }
     answers 25 (asked 25 0 0 [] ret) (fun r => decide (r.index = 0) && ret.pkg.power = .retention) &&
     State.reset.pkg.power ≠ .retention && (State.reset.core 0).l1 = [] && State.reset.mem.dir = [] && State.reset.mem.msc = [] &&
     answers 16 (asked 16 0x1000 0 (List.replicate 8 0) locked) (fun r => locked.pkg.worldLock && decide (r.index = 0x1000))) = true := by decide +kernel

/-- R30, R139, R145: lines that keep their bytes, a line found bad, a page that a peer has sent, and a line that is not stale. -/
theorem witness_PagesAndWritebacks_more :
    (let line : L1Line := { (default : L1Line) with dirty := 1, valid := 1 }
     let wb : State := (mapped State.reset).setL1 0 0 line
     let bad := { wb with pkg := { wb.pkg with badLines := [(0, 0)] } }
     (match ((mapped State.reset).setL1 0 0 { line with localAtom := true }).l1? 0 0 with | some l => l.localAtom | none => false) &&
     decide (pageState wb 0 = 1) && wb.mem.migrations = [] && wb.mem.msc.all (fun p => decide (p.2.dirty = 0)) &&
     (match bad.l1? 0 0 with | some l => decide (l.dirty ≠ 0) && !l.lrel && !l.localAtom && decide ((0, 0) ∈ bad.pkg.badLines) | none => false) &&
     (ownerOf bad 0 (some 0)).isNone && decide (tget 0 bad.mem.level1 0 ≠ 0) &&
     (let m : Migration := ⟨1, 9, true, 1, none, [3], some (List.replicate 65536 7), false⟩
      let s := changing [] fun s => { s with mem := { s.mem with migrations := [m], ptes := tset 0 s.mem.ptes 1 (setBits (pte s 1) 0 3 3) } }
      (match s.mem.migrations.find? (fun m => m.page = 1) with | some m => m.fromPeer && m.fetched.isSome && !m.failed && decide (m.frame < 2 ^ 24) | none => false) && decide (bits (pte s 1) 0 3 = 3) && decide (tget 0 s.mem.level1 0 ≠ 0)) &&
     (let s := changing [] fun s => { s with mem := { s.mem with msc := [(0, default)], pinWait := [(0, false, 0, 3)] } }
      match s.msc? 0 with | some x => !mscStale s 0 x | none => false)) = true ∧ (List.replicate 65536 (7 : Byte)).length = 65536 := ⟨by decide +kernel, List.length_replicate ..⟩

/-- R193, R195, R199: records that wait for a moving page, that do not stand where a record may, whose scope is not valid, and one
whose plan needs nothing of a moving page. -/
theorem witness_CopyRecords_more :
    (let ready (s : State) (p : BitVec 512 → State → State → Bool) : Bool :=
       let ch := s.channel 0
       ch.st = .reading && decide (ch.cur % 64 = 0) && engineCheck s ch.wins false false ch.cur 64 = .ok && engineCheck s ch.wins false true ch.cur 8 = .ok &&
       (match engineRead s ch.wins false ch.cur 64 0 with
        | (false, bs, s1) => let r : BitVec 512 := BitVec.ofNat 512 (natOf bs)
          p r s1 (s1.modChannel 0 fun c => { c with record := r })
        | _ => false)
     ready (chained runRecord id) (fun r _ s3 => r.getLsbD 0 && !rRingen r && !endWaits s3 (s3.channel 0) r && !recordBad r &&
       (match planRuns s3 (s3.channel 0) r with | (.ok pl, s4) => !startWaits s4 (s3.channel 0) pl.pieces && !remoteBad r pl | _ => false)) &&
     ready (chained (runRecord + 31 * 2 ^ 10) id) (fun r s1 s3 => !recordBad r && !scopeValid (s1.channel 0).wins (rScope r) && !endWaits s3 (s3.channel 0) r && !rRingen r) &&
     (let s := chained runRecord fun c => { c with cur := 0x420 }
      (s.channel 0).st = .reading && decide ((s.channel 0).cur % 64 ≠ 0)) &&
     (let s := chained 0 fun c => { c with st := .moving, record := BitVec.ofNat 512 runRecord, plan := [{ pos := 0, len := 64, src := .mem 0x1000, dst := .mem 0x2000 }] }
      let ch := s.channel 0
      !endWaits s ch ch.record && decide (ch.got_n = 0))) = true := by decide +kernel

/-- R205, R215, R217: an operation that an engine has taken up, an MREST that no RED holds up, and a core whose clock runs. -/
theorem witness_MatrixUnit_more :
    (let s := queuedOp { product false with active := true } id
     (match runningOp (s.core 0).matq true with | some op => op.active && op.stop.isNone | none => false) &&
     (match startOp s 0 { product false with active := true } with | (op1, s1) => op1.started && op1.active && (s1.core 0).matq = (s.core 0).matq) &&
     s.coreClocked 0 &&
     (let s := queuedOp { (default : MatOp) with kind := .rest 0x2000, row := 127 } id
      match runningOp (s.core 0).matq true with
      | some op => (match startOp s 0 op with
        | (op1, s1) => engineCoreCheck s1 0 (opWins s1 op1) false (0x2000 + 512 * op.row) 512 = .ok && op1.active)
      | none => false)) = true := by decide +kernel

/-- R268, R269: an operation that ends, one whose stream is lost, and one that still waits for its cut. -/
theorem witness_Collectives_ends :
    (let op := collOf 0 0 fun op => { op with sent := [(1, 1)], tiles := [(0, { (default : CollTile) with done := true })], joined := [1], begun := true }
     let s := collective [op] []
     op.finish.isNone && op.outbox = [] && !op.due && op.freeze.isNone && (lostStream s op).isNone && op.allFinal && (List.range 2).all (sendsDone op) && op.cutAccepted.isNone &&
     (match collFinish s op with | some (x, st) => (putStatuses s (x.closed st)).isSome | none => false) && !coRingen op.record &&
     engineCheck s op.wins (engineSecure s op) true (coStaddr op.record) 16 ≠ .wait &&
     (let lost := collOf 0 1 fun op => { op with broken := [(1, 8)] }
      lostStream s lost = some (1, 8) && lost.finish.isNone) &&
     (let cut := { op with cutAccepted := some 3 }
      (collFinish s { cut with finish := some 0x0B }).isSome && cut.cutK.isNone) &&
     (let part := collOf 0 1 fun op => { op with joined := [1], src := [(0, List.replicate 256 1)] }
      !failing part.finish && (putStatus (collective [part] []) part 0).isSome)) = true := by decide +kernel

/-! ## Witnesses: waits for a moving page -/

/-- Page `p` of HBM moves (R139). -/
def moving (p : Nat) (s : State) : State :=
  { s with mem := { s.mem with ptes := tset 0 s.mem.ptes p ((presentEntry p 0 false &&& ~~~7) ||| 3) } }

/-- R135, R389, R393: a lane of TFETCH, TEX, TRACE and HGATH on a moving page is held, and the page of a PCNT and a VPIN keeps them in
flight. -/
theorem witness_Engines_held :
    (lets false (.tfetch (R 4 1 0x101 0 0)) (oneLane ∘ scl 1 0x100) (moving 1 ∘ withImageAt 0 false) (fun c s0 =>
       match readAtIssue c (sval s0 c 0x101).toNat 16 s0 with
       | (.ok bs, s1) => (match imageDesc (BitVec.ofNat 128 (natOf bs)) with
         | some d => (match texLanes c (fetchLane s1 c (R 4 1 0x101 0 0) d) s1 with | (l, e, w, _) => l = [] && e = [] && w.length = 1)
         | none => false)
       | _ => false) &&
     lets false (.tex (R 4 1 0x101 0x102 0)) (oneLane ∘ scl 1 0x100 ∘ scl 2 0x120) (moving 1 ∘ withImageAt 0 false) (fun c s0 =>
       match readAtIssue c (sval s0 c 0x101).toNat 16 s0 with
       | (.ok bs, s1) => (match imageDesc (BitVec.ofNat 128 (natOf bs)), readAtIssue c (sval s1 c 0x102).toNat 16 s1 with
         | some d, (.ok bs', s2) => (match samplerDesc (BitVec.ofNat 128 (natOf bs')) with
             | some sm => (match texLanes c (fun l r => sample c d sm [f32Rat (c.us.vreg 1 l)] none r) s2 with | (_, e, w, _) => e = [] && w ≠ [])
             | none => false)
         | _, _ => false)
       | _ => false) &&
     lets false (.trace (R 4 16 0x104 0 0)) (oneLane ∘ scl 4 0x10000) (moving 1 ∘ mapped) (fun c s0 =>
       match traceLanes c 16 (sval s0 c 0x104).toNat (sval s0 c 0x105).toNat s0 with | (_, e, w, _) => e = [] && w ≠ []) &&
     lets false (.hgath (R 4 16 0x104 0 0)) (oneLane ∘ scl 4 0x200) (moving 1 ∘ withGrid) (fun c s0 =>
       match readGrid c (sval s0 c 0x104).toNat s0 with
       | (.ok ls _, s1) => (match gatherLanes c ls 16 s1 with | (_, e, w, _) => e = [] && w ≠ [])
       | _ => false) &&
     lets false (.pcnt (R 0x104 0x101 0x102 0 0)) (scl 1 0x10000) (moving 1 ∘ mapped) (fun c s0 => !acquiring s0 c.u &&
       (match pcntRun c s0.nextId 0x10000 0 s0 with | (.wait _, _) => true | _ => false)) &&
     lets false (.vpin (R 0x104 0x101 0 0 0)) (scl 1 0x10000) (moving 1 ∘ mapped) (fun c s0 => recordCheck c 0x10000 64 .rw 64 = none && !orderWait s0 c false &&
       (match translate c.team.wins c.secure .rw 0x10000 64 with
        | .ok ia => !overlaps s0 c.u true [(ia, 24)] && !redAhead s0 c.core ia s0.nextId && (homeSlice ia).isSome &&
            (match homeCheck s0 c.u c.secure true ia with | (.park _, _) => true | _ => false)
        | _ => false))) = true := by decide +kernel

/-- R183: an image of one F32 infinity, and a hit of a triangle at a parameter that rounds to infinity, under policy 2. -/
theorem witness_Engines_traps :
    lets false (.tex (R 4 1 0x101 0x102 0)) (oneLane ∘ scl 1 0x100 ∘ scl 2 0x120) (policy2 ∘ holding 0x10000 [0, 0, 0x80, 0x7F] ∘ withImageAt 5 false) (fun c s0 =>
      match readAtIssue c (sval s0 c 0x101).toNat 16 s0 with
      | (.ok bs, s1) => (match imageDesc (BitVec.ofNat 128 (natOf bs)), readAtIssue c (sval s1 c 0x102).toNat 16 s1 with
        | some d, (.ok bs', s2) => (match samplerDesc (BitVec.ofNat 128 (natOf bs')) with
            | some sm => (match texLanes c (fun l r => sample c d sm [f32Rat (c.us.vreg 1 l)] none r) s2 with
              | (lanes, e, w, _) => e = [] && w = [] && lanes.any fun p => p.2.any fun v => traps c.launch.nfpol .f32 v.toNat)
            | none => false)
        | _, _ => false)
      | _ => false) = true := by decide +kernel

/-- A node at 0x10000 over one leaf with one triangle, 128 in front of the ray (R244). -/
def withTriangle (s : State) : State :=
  let f (l : List Nat) : Bytes := l.flatMap fun x => bytesOf 4 x
  holding 0x10000 (List.replicate 12 0 ++ [127, 127, 127, 0] ++ bytesOf 8 0x10000 ++ [0, 255, 0, 255, 0, 255] ++ List.replicate 18 0 ++ f [6, 0, 0, 0] ++
    bytesOf 16 1 ++ f [0, 0, 0x43000000, 0x42800000, 0, 0x43000000, 0, 0x42800000, 0x43000000, 7, 9, 0]) (mapped s)

/-- A ray from (1, 1, 0) along z with component `d` and no end. -/
def aimed (d : W32) (u : UnitState) : UnitState :=
  [(16, (0x3F800000 : W32)), (17, 0x3F800000), (22, d), (23, 0x7F800000), (24, 0xFF)].foldl (fun u p => u.setVreg p.1 0 p.2) u

/-- R183, R245: a hit at 128 under policy 2, and one at a parameter that rounds to infinity. -/
theorem witness_Engines_ray :
    (let trace (d : W32) (p : Nat → List W32 × Bool → Bool) : Bool :=
       lets false (.trace (R 4 16 0x104 0 0)) (oneLane ∘ scl 4 0x10000 ∘ aimed d) (policy2 ∘ withTriangle) fun c s0 =>
         match traceLanes c 16 (sval s0 c 0x104).toNat (sval s0 c 0x105).toNat s0 with
         | (l, e, w, _) => l ≠ [] && e = [] && w = [] && l.all fun x => p c.launch.nfpol x.2
     trace 0x3F800000 (fun pol r => !traceTraps pol r && r.1 = [1, 0x43000000, 0x3C800000, 0x3C800000, 0xFFFFFF, 9, 7]) &&
     trace 0x00800000 traceTraps) = true := by decide +kernel

/-- R393, R419, R426: a PCNT and a VPIN that waited, whose page lets them go on. -/
theorem witness_Requests_late :
    (let turn (i : Instr) (scal : List W64) (size : Nat) (p : Ctx → State → LaneAcc → Bool) : Bool :=
       let l : LaneAcc := { laneAt 0x10000 .waiting with size := size }
       let s := inAir { flying .request l with dst := some 0x104, uni := true, scope := 3, heldS := scal, rep := { (default : Replay) with instr := some i, em := 1 } }
         (fun s => holding 0x10000 (bytesOf 64 collRecord.toNat) s)
       match s.access? 3 with
       | some a => (match engineCtx s a, a.lane? 0 with
         | some c, some l => a.kind = .request && a.lanes = [l] && decide (l.lane = 0) && l.st = .waiting && replayTurn s a.id 0 (pageOf l.ia) &&
             !redAhead s a.core l.ia a.id && !olderOpen s a.u a.id l.ia l.size && p c (replayDone s a.id 0) l
         | _, _ => false)
       | none => false
     turn (.pcnt (R 0x104 0x101 0x102 0 0)) [0x10000, 0] 8 (fun c s _ => match pcntRun c 3 0x10000 0 s with | (.word _, _) => true | _ => false) &&
     turn (.pcnt (R 0x104 0x101 0x102 0 0)) [0x10000, 1] 8 (fun c s _ => match pcntRun c 3 0x10000 1 s with | (.tile, _) => true | _ => false) &&
     turn (.vpin (R 0x104 0x101 0 0 0)) [] 24 (fun c s l =>
       match homeCheck (holding 0x10000 (bytesOf 64 0) s) ⟨State.reset.nextId + 1, some 0⟩ c.secure true l.ia with
       | (.ok, s1) => (List.range 24).all (fun j => !homeBad s1 (l.ia + j)) &&
           (match versionAct s1 ⟨State.reset.nextId + 1, some 0⟩ 0 l.ia (ctxScope s1 c 3) pinned with | (some _, _) => true | _ => false)
       | _ => false)) = true := by decide +kernel

/-- R269, R418, R419: a COLL whose ring its team does not hold, and one whose rank table is on a moving page; what a PCNT meets. -/
theorem witness_CollectiveInstructions_waits :
    (let coll (r : BitVec 512) (g : State → State) (p : State → CollOp → Bool) : Bool :=
       lets true (.coll (R 0 0x101 0 0 0)) (scl 1 0x100) (g ∘ holding 0x100 (bytesOf 64 r.toNat) ∘ mapped) fun c s0 =>
         recordCheck c 0x100 64 .read 64 = none && (match readPieces c 0x100 64 { s := s0, stop := none, addr := 0 } with
         | (bs, q) => q.stop.isNone && (let x : BitVec 512 := BitVec.ofNat 512 (natOf bs)
             !collBad x && (heldOp q.s c.team.ctx 0x100).isNone && !orderWait q.s c true &&
             p (writebackAll q.s c.core) { (default : CollOp) with
               opid := coOpid x, recAddr := 0x100, record := x, team := c.u.team, failRank := coRank x, wins := c.team.wins }))
     coll (setBit collRecord 8 true) id (fun s op => coRingen op.record && !ringHeld s 0 (coRing op.record) op.team) &&
     coll collRecord (moving 1) (fun s op => !coRingen op.record && (startColl { s with collOps := [op] } op).isNone) &&
     coll collRecord id (fun s op => !coRingen op.record && (startColl { s with collOps := [op] } op).isSome)) = true := by decide +kernel

theorem witness_CollectiveInstructions_counts :
    (let pcnt (t : W64) (g : State → State) (p : PcntAns → Bool) : Bool :=
       lets true (.pcnt (R 0x104 0x101 0x102 0 0)) (scl 1 0x10000 ∘ scl 2 t) g fun c s0 => !acquiring s0 c.u && p (pcntRun c s0.nextId 0x10000 t.toNat s0).1
     pcnt 0 withColl (fun a => match a with | .word _ => true | _ => false) &&
     pcnt 1 withColl (· = .tile) &&
     pcnt 0 (holdsColl { collOp 0 with finish := some 8 }) (fun a => match a with | .failed _ => true | _ => false) &&
     (let cancel (op : CollOp) (i : Instr) (p : State → Bool) : Bool := lets true i (scl 1 0x10000 ∘ scl 2 1) (holdsColl op) fun c s0 =>
        (cancelledOp s0 c 0x10000).isSome && p s0
      let op := begun (collOp 1)
      let stop := Instr.ccancel (R 0 0x101 0x102 0 0)
      cancel op stop (fun s0 => op.begun && op.outbox = [] && (match sendBody s0 op 1 .streamStop with | (.ok, _) => true | _ => false) &&
        (match sendOrQueue s0 { op with scut := [1] } 1 .streamStop with | (op1, s1) => (applyTiles s1 op1 (List.range op1.nt)).isSome)) &&
      cancel (collOp 1) stop (fun _ => !(collOp 1).begun) &&
      cancel { op with outbox := [(1, .streamStop)] } (.ccancelCut (R 0 0x101 0x102 0 1)) (fun _ => op.finish.isNone && coEnc op.record ≠ 0))) = true := by
  decide +kernel

/-- R252, R253: the reduction of an HSCAT's step whose home performs it, and one whose page moves. -/
theorem witness_RaysAndHashGrids_scatter :
    (let step (g : State → State) (p : ScatterAns → Bool) : Bool :=
       let a : Access := { flying (.scatter false false) (laneAt 64 .waiting) with
         dst := none, regs := 0, lanes := [{ laneAt 64 .waiting with size := 2 }], rep := { (default : Replay) with instr := some (.hscat (R 4 16 0x104 0 0)), em := 1 } }
       let s := inAir a g
       match s.access? 3 with
       | some b => (match engineCtx s b, scatterNow b with
         | some c, some (k, ls) =>
           let lvl : GridLevel := { (default : GridLevel) with fmt := .f16, home1 := false }
           decide (k = 0) && (match redGroups 0 b.pol (featTy lvl.fmt) (ls.map fun x => ((⟨x.lane % 64, (x.va : Int), x.data, []⟩ : LaneReq), ())) with
           | [r] => (match b.lane? (r.lane + 64 * k) with
             | some l => l.st ≠ .parked && replayTurn s 3 l.lane (pageOf l.ia) && p (scatterCheck c lvl 3 r.va (replayDone s 3 l.lane)).1
             | none => false)
           | _ => false)
         | _, _ => false)
       | none => false
     step id (fun a => match a with | .ok => true | _ => false) && step (moving 0) (fun a => match a with | .held (some _) => true | _ => false)) = true := by decide +kernel

/-- R325: BSYNC issued again while its team is parked at the barrier, before and after the phase, and an ARRIVED count at its end. -/
theorem witness_NamedBarriers_again :
    (let again (w : W64) (p : W64 → Bool) : Bool :=
       lets false (.bsync (I 0 0 7 0)) (parkedAt (.barrier 7) ∘ fun u => { u with records := [(7, 1)] }) (withBarrier 7 w) fun c s0 =>
         (c.us.thread c.slot).park = .barrier 7 && p (s0.barrier c.team.home 7) && tget 0 c.us.records 7 = 1
     again (barrierWord 2 1 0 true) (fun w => heldBy w 0 && w.getLsbD 32) && again (barrierWord 2 1 0 false) (fun w => heldBy w 0 && !w.getLsbD 32) &&
     again 0 (fun w => !heldBy w 0) &&
     lets false (.barrive (I 0 0 7 0)) id (withBarrier 7 (barrierWord 5 0xFFFF 0 false)) (fun c s0 => heldBy (s0.barrier c.team.home 7) c.place &&
       bits (s0.barrier c.team.home 7) 16 16 + 1 = 0x10000 && !syncWait s0 c)) = true := by decide +kernel

/-- R110, R329: a QPUSH that meets the pop of its own group, and of another unit. -/
theorem witness_DispensersAndQueues_meets :
    ([unitOf false, ⟨State.reset.nextId + 1, none⟩].all fun r =>
      lets false (.qpush (R 0 0x101 0x102 0 0)) (scl 1 7) (fun s => s.modTeam (State.reset.nextId + 1) fun t => { t with pops := [(r, 7, 0x104)] }) fun c s0 =>
        c.team.popOf 7 = some (r, 7, 0x104) && !syncWait s0 c && (s0.unit? r).isSome && decide (r.team = c.u.team)) = true := by decide +kernel

/-- R115: a sub-group that loses its last lane, while another runs, has arrived, and with a residue. -/
theorem witness_ArrivalAndExit_last :
    (let last (arr : Bool) (resid : W64) (p : Ctx → Bool) : Bool := lets false (.exit (R 0 0 0 0 0)) (inRegion false arr resid) inSub fun c _ =>
       !c.caller && decide (c.slot < 5) && c.us.region.isOpen && !c.us.region.byHandler && decide (c.us.xOf c.slot &&& ~~~c.em = 0) &&
         (c.us.region.subs[subIdx c.slot]?).isSome && decide (c.us.region.emask &&& ~~~c.em ≠ 0) && p c
     let others (c : Ctx) : List Bool := (c.us.region.subs.eraseIdx (subIdx c.slot)).map fun h => h.arr || decide (h.xmask &&& ~~~c.em = 0)
     last false 0 (fun c => false ∈ others c) && last true 8 (fun c => false ∉ others c && c.us.region.resid &&& ~~~c.em ≠ 0) &&
     last true 0 (fun c => false ∉ others c && c.us.region.resid &&& ~~~c.em = 0)) = true := by decide +kernel

/-- R375: ordered accesses of 128 bits at issue: their upper halves wait. -/
theorem witness_Memory_halves :
    (lets false (.lds (M 4 1 0 0x1C)) id id (fun c s0 => !orderWait s0 c false && c.lanes.all fun l =>
       match scratchPlace c (offsetAddr s0 c 1 0 l) 16 with | .ok p => !placeBad s0 p 16 | _ => false) &&
     lets false (.sts (M 4 1 0 0x1C)) id id (fun c s0 => mOrder (M 4 1 0 0x1C) ≠ 0 && !orderWait s0 c true && c.lanes.all fun l =>
       (scratchPlace c (offsetAddr s0 c 1 0 l) 16).toOption.isSome) &&
     lets false (.ld (M 4 8 0x80 0x1C)) id mapped (fun c s0 => mOrder (M 4 8 0x80 0x1C) ≠ 0 && !orderWait s0 c false &&
       (translateLanes c .read 16 false (c.lanes.map fun l => ⟨l, globalAddr s0 c 8 0 l, [], []⟩)).2 = []) &&
     lets false (.st (M 4 8 0x80 0x1C)) oneLane mapped (fun c s0 => mOrder (M 4 8 0x80 0x1C) ≠ 0 && !orderWait s0 c true && !c.caller &&
       decide (c.lanes.length = 1) &&
       (match translateLanes c .write 16 false [⟨0, globalAddr s0 c 8 0 0, storeData s0 c 4 4 0, []⟩] with
        | ([q], []) => !overlaps s0 c.u true [(q.2, 16)] && (match homeCheck (releaseL1 s0 c (mScope (M 4 8 0x80 0x1C))).fresh.2 c.u c.secure true q.2 with
            | (.ok, _) => true | _ => false)
        | _ => false))) = true := by decide +kernel

end Sys2Proof.Tests
end

section
/-! PROOFS. The package: loss of power, the input supply, the power cap and the junction sensors (R14 to R16, R20). -/

namespace Sys2Proof.Machine

/-! ## Dies and their steps (R17, R19) -/

theorem die_setDie_same {s : State} {d : Nat} (x : Die) (hd : d < s.pkg.dies.length) : (s.setDie d x).die d = x := by
  simp [State.die, State.setDie, List.getD, hd]

theorem setDie_setDie (s : State) (d : Nat) (x y : Die) : (s.setDie d x).setDie d y = s.setDie d y := by
  simp [State.setDie]

/-- A step taken by a die that has just been written. -/
theorem setStep_setDie {s : State} {d : Nat} (x : Die) (n : Nat) (hd : d < s.pkg.dies.length) :
    (s.setDie d x).setStep d n = s.setDie d { x with step := n, chg := x.chg || decide (n ≠ x.step) } := by
  rw [State.setStep, die_setDie_same x hd, setDie_setDie]

/-- Every die of the module at the 400 MHz step. -/
theorem slowAll_eq {s : State} (h : s.pkg.dies.length = 4) :
    slowAll s = { s with pkg := { s.pkg with
      dies := s.pkg.dies.map fun x => { x with step := 3, chg := x.chg || decide (3 ≠ x.step) } } } := by
  match hl : s.pkg.dies, h with
  | [a, b, c, d], _ => simp [slowAll, List.range, List.range.loop, State.setStep, State.setDie, State.die, hl]

/-! ## Losing power (R14, R15) -/

theorem powerLost_powerLoss (s : State) (b : BootState) (input : Bool) :
    PowerLost s .off b input (powerLoss s b input) :=
  ⟨rfl, rfl, rfl, rfl, rfl, rfl, rfl, rfl, rfl, rfl, rfl, rfl, rfl, rfl⟩

/-- INPUT_POWER_RETURN (R15). -/
theorem inputPowerReturn_next (s : State) : ∃ t, exec .inputPowerReturn s = .next t ∧
    if s.pkg.power = .off then PowerLost s .active .inReset false t else t = s := by
  refine ⟨_, rfl, ?_⟩
  split
  · exact ⟨rfl, rfl, rfl, rfl, rfl, rfl, rfl, rfl, rfl, rfl, rfl, rfl, rfl, rfl⟩
  · rfl

/-- INPUT_VOLTAGE_LOW_BAND and INPUT_DROPOUT (R14). -/
theorem inputLow_keeps {s : State} (h : s.pkg.dies.length = 4) :
    { inputLow s with pkg := s.pkg } = s ∧
    (inputLow s).pkg = { s.pkg with
      inputHold := true, inputHigh := false, alerts := { s.pkg.alerts with voltage := true }
      dies := s.pkg.dies.map fun x => { x with step := 3, chg := x.chg || decide (3 ≠ x.step) } } := by
  unfold inputLow
  rw [slowAll_eq (by exact h)]
  exact ⟨rfl, rfl⟩

/-! ## Power cap and cooling (R16, R20) -/

/-- POWER_CAP_CHECK (R16). -/
theorem powerCapCheck_next {s : State} {d : Nat} (w : Nat) (hd : d < s.pkg.dies.length) :
    let x := s.die d
    let n := min 3 (x.step + 1)
    exec (.powerCapCheck w d) s = .next (s.setDie d (if s.pkg.cap < w then
      { x with step := n, capFloor := n, chg := x.chg || decide (n ≠ x.step) } else { x with capFloor := 0 })) := by
  show Host.Outcome.next (if s.pkg.cap < w then _ else _) = _
  split
  · rw [setStep_setDie _ _ hd]
  · rfl

/-- A step down for heat, with the alert. -/
theorem dropStep_setDie {s : State} {d : Nat} (x : Die) (hd : d < s.pkg.dies.length) :
    let n := min 3 (x.step + 1)
    dropStep (s.setDie d x) d =
      (s.setDie d { x with step := n, chg := x.chg || decide (n ≠ x.step) }).alert fun a => { a with thermal := true } := by
  rw [dropStep, die_setDie_same x hd, setStep_setDie x _ hd]

/-- THERMAL_THRESHOLD_CROSSED (R20) at sensor `k` of die `d`. -/
theorem thermalThresholdCrossed_next {s : State} {d k : Nat} (temp : Nat) (hd : d < s.pkg.dies.length) (hk : k < 8) :
    let y := { s.die d with temps := (s.die d).temps.set k temp }
    let n := min 3 (y.step + 1)
    exec (.thermalThresholdCrossed (8 * d + k) temp) s = .next (
      if 95 ≤ hottest y then
        if (s.die d).hot = true then s.setDie d { y with hot := true }
        else (s.setDie d { y with hot := true, step := n, chg := y.chg || decide (n ≠ y.step) }).alert
          fun a => { a with thermal := true }
      else s.setDie d { y with hot := false }) := by
  intro y n
  have hdie : (8 * d + k) / 8 = d := by omega
  have hsensor : (8 * d + k) % 8 = k := by omega
  show execThermalThresholdCrossed _ _ s = _
  unfold execThermalThresholdCrossed
  rw [hdie, hsensor]
  show Host.Outcome.next (if (decide (95 ≤ hottest y) && !(s.die d).hot) = true then
    dropStep (s.setDie d { y with hot := decide (95 ≤ hottest y) }) d
    else s.setDie d { y with hot := decide (95 ≤ hottest y) }) = _
  by_cases hhot : 95 ≤ hottest y
  · cases hx : (s.die d).hot
    · simp only [hhot, decide_true, Bool.not_false, Bool.and_self, if_true, dropStep_setDie _ hd, Bool.false_eq_true, if_false]
      rfl
    · simp [hhot]
  · simp [hhot]

end Sys2Proof.Machine
end

section
/-! PROOFS. What the thermal halt sends (R20, R37, R68): a completion word goes on the wire, waits on its connection, or is held
by its paused port, until the halt sends what waits and ends the pauses. -/

namespace Sys2Proof.Machine

/-! ## Folds and tables -/

/-- A fold reaches `Q` where every step keeps `P` or reaches `Q`, the step of one element of the list reaches it, and every step
keeps it. -/
theorem foldl_reaches {σ β : Type} {P Q : σ → Prop} {f : σ → β → σ} {a : β} (hP : ∀ s b, P s → P (f s b) ∨ Q (f s b))
    (hit : ∀ s, P s → Q (f s a)) (hQ : ∀ s b, Q s → Q (f s b)) :
    ∀ (l : List β) (s : σ), a ∈ l → P s → Q (l.foldl f s)
  | b :: l, s, ha, hs => by
    have keeps : ∀ (l : List β) (s : σ), Q s → Q (l.foldl f s) := fun l s h => List.foldlRecOn l f h fun s h b _ => hQ s b h
    obtain rfl | ha := List.mem_cons.mp ha
    · exact keeps l _ (hit s hs)
    · obtain hp | hq := hP s b hs
      · exact foldl_reaches hP hit hQ l _ ha hp
      · exact keeps l _ hq

theorem mem_of_tfind {α : Type} {t : Table α} {k : Nat} {v : α} (h : tfind t k = some v) : (k, v) ∈ t := by
  induction t with
  | nil => cases h
  | cons e t ih =>
    obtain ⟨j, u⟩ := e
    by_cases hj : j = k
    · simp_all [tfind]
    · simp_all [tfind]

theorem tfind_of_mem {α : Type} {t : Table α} {k : Nat} {v : α} (hm : (k, v) ∈ t) (hk : t.Pairwise fun a b => a.1 ≠ b.1) :
    tfind t k = some v := by
  induction t with
  | nil => cases hm
  | cons e t ih =>
    obtain ⟨hne, ht⟩ := List.pairwise_cons.mp hk
    obtain rfl | hm := List.mem_cons.mp hm
    · simp [tfind]
    · simp [tfind, hne _ hm, ih hm ht]

/-! ## What a port has sent, or holds while it is paused (R34, R37) -/

/-- A packet is on the wire, or held by its port until the end of a pause. -/
def Leaves (m : Packet) (s : State) : Prop := m ∈ s.wire ∨ m ∈ (s.port m.port).held

theorem emit_wire (s : State) (p : Packet) : (s.emit p).wire = p :: s.wire := rfl
@[simp] theorem emit_ports (s : State) (p : Packet) : (s.emit p).ports = s.ports := rfl
@[simp] theorem emit_conns (s : State) (p : Packet) : (s.emit p).conns = s.conns := rfl
@[simp] theorem emit_queues (s : State) (p : Packet) : (s.emit p).queues = s.queues := rfl
@[simp] theorem emit_pkg (s : State) (p : Packet) : (s.emit p).pkg = s.pkg := rfl

theorem port_setPort (s : State) (k n : Nat) (x : Port) : (s.setPort k x).port n = if n = k then x else s.port n :=
  tget_tset ..

/-- A packet that a port is given is sent, or held by a paused port; a pause frame is always sent. -/
theorem send_cases (s : State) (p : Packet) :
    s.send p = s.emit p ∨ s.send p = s.setPort p.port { s.port p.port with held := (s.port p.port).held ++ [p] } := by
  unfold State.send
  split
  · exact .inl rfl
  · by_cases hp : (s.port p.port).paused = true
    · exact .inr (if_pos hp)
    · exact .inl (if_neg hp)

@[simp] theorem send_conns (s : State) (p : Packet) : (s.send p).conns = s.conns := by
  obtain h | h := send_cases s p <;> rw [h] <;> rfl

@[simp] theorem send_queues (s : State) (p : Packet) : (s.send p).queues = s.queues := by
  obtain h | h := send_cases s p <;> rw [h] <;> rfl

@[simp] theorem send_pkg (s : State) (p : Packet) : (s.send p).pkg = s.pkg := by
  obtain h | h := send_cases s p <;> rw [h] <;> rfl

theorem leaves_send_self (s : State) (p : Packet) : Leaves p (s.send p) := by
  obtain h | h := send_cases s p <;> rw [h]
  · exact .inl (by simp [emit_wire])
  · exact .inr (by simp [port_setPort])

theorem Leaves.send {m : Packet} {s : State} (h : Leaves m s) (p : Packet) : Leaves m (s.send p) := by
  obtain he | he := send_cases s p <;> rw [he]
  · exact h.imp (by simp +contextual [emit_wire]) id
  · refine h.imp id fun h => ?_
    rw [port_setPort]
    split
    · rename_i hp; simp [← hp, h]
    · exact h

/-- The end of a pause sends what its port holds. -/
theorem unpause_eq (s : State) (p : Nat) :
    (unpause s p).wire = (s.port p).held.reverse ++ s.wire ∧
    (unpause s p).ports = (s.setPort p { s.port p with paused := false, held := [] }).ports ∧
    (unpause s p).pkg = s.pkg := by
  have wire : ∀ (l : List Packet) (s : State), (l.foldl State.emit s).wire = l.reverse ++ s.wire := fun l => by
    induction l with
    | nil => intro s; rfl
    | cons m l ih => intro s; simp [ih, emit_wire]
  exact ⟨wire .., foldl_keeps State.ports State.emit emit_ports .., foldl_keeps State.pkg State.emit emit_pkg ..⟩

theorem Leaves.unpause {m : Packet} {s : State} (h : Leaves m s) (p : Nat) : Leaves m (unpause s p) := by
  obtain ⟨hw, hp, -⟩ := unpause_eq s p
  obtain h | h := h
  · exact .inl (by simp [hw, h])
  · by_cases hm : m.port = p
    · subst hm; exact .inl (by simp [hw, h])
    · refine .inr ?_
      rwa [State.port, hp, ← State.port, port_setPort, if_neg hm]

/-- Once no port is paused, what was to leave is on the wire. -/
theorem Leaves.wire_unpaused {m : Packet} {s : State} (h : Leaves m s) (hm : m.port < 8) :
    m ∈ ((List.range 8).foldl Machine.unpause s).wire := by
  refine foldl_reaches (P := Leaves m) (Q := fun s => m ∈ s.wire) (a := m.port) (fun s p h => .inl (h.unpause p))
    (fun s h => ?_) (fun s p h => by simp [(unpause_eq s p).1, h]) _ s (List.mem_range.mpr hm) h
  rw [(unpause_eq s _).1]
  exact List.mem_append.mpr (h.symm.imp List.mem_reverse.mpr id)

/-! ## Requests on a connection (R36, R51) -/

theorem conn_setConn (s : State) (k n : Nat) (c : Conn) : (s.setConn k c).conn n = if n = k then c else s.conn n :=
  tget_tset ..

theorem conn_transmit (s : State) (p k n : Nat) (op : NetOp) (o : NetOwner) :
    ((transmit s p k op o).conn n).entry = (s.conn n).entry ∧ ((transmit s p k op o).conn n).waiting = (s.conn n).waiting := by
  unfold transmit State.conn
  rw [send_conns, ← State.conn, conn_setConn]
  split
  · subst_vars; exact ⟨rfl, rfl⟩
  · exact ⟨rfl, rfl⟩

theorem transmit_queues (s : State) (p k : Nat) (op : NetOp) (o : NetOwner) : (transmit s p k op o).queues = s.queues := by
  simp [transmit]

@[simp] theorem transmit_pkg (s : State) (p k : Nat) (op : NetOp) (o : NetOwner) : (transmit s p k op o).pkg = s.pkg := by
  simp [transmit]

theorem transmit_leaves (s : State) (p k : Nat) (op : NetOp) (o : NetOwner) :
    ∃ psn, Leaves (.request p k psn op) (transmit s p k op o) := ⟨_, leaves_send_self ..⟩

theorem Leaves.transmit {m : Packet} {s : State} (h : Leaves m s) (p k : Nat) (op : NetOp) (o : NetOwner) :
    Leaves m (transmit s p k op o) := Leaves.send (s := s.setConn _ _) h _

/-- What a request of a queue's completions does: on a connection in the error state it is lost and noted, and otherwise it is
sent or waits. -/
theorem post_completion_cases (s : State) (p k q : Nat) (op : NetOp) :
    let c := s.conn (connKey p k)
    let t := post s p k op (.completion q)
    (c.err = true ∧ t = failOwner s (.completion q) 6) ∨ (c.err = false ∧ t = transmit s p k op (.completion q)) ∨
      (c.err = false ∧ t = s.setConn (connKey p k) { c with waiting := c.waiting ++ [(op, .completion q)] }) := by
  intro c t
  simp only [c, t, post]
  cases hc : (s.conn (connKey p k)).err
  · simp only [Bool.false_eq_true, if_false]
    split
    · exact .inr (.inl ⟨trivial, rfl⟩)
    · exact .inr (.inr ⟨trivial, rfl⟩)
  · exact .inl ⟨rfl, rfl⟩

/-- A request of completions keeps the entries of the connections, and what waits on them. -/
theorem conn_post_completion (s : State) (p k q n : Nat) (op : NetOp) :
    ((post s p k op (.completion q)).conn n).entry = (s.conn n).entry ∧
    ∀ w ∈ (s.conn n).waiting, w ∈ ((post s p k op (.completion q)).conn n).waiting := by
  obtain ⟨-, h⟩ | ⟨-, h⟩ | ⟨-, h⟩ := post_completion_cases s p k q op <;> rw [h]
  · exact ⟨rfl, fun _ hw => hw⟩
  · obtain ⟨he, hw⟩ := conn_transmit s p k n op (.completion q)
    exact ⟨he, fun w h => hw ▸ h⟩
  · rw [conn_setConn]
    split
    · subst_vars; exact ⟨rfl, fun w h => List.mem_append_left _ h⟩
    · exact ⟨rfl, fun _ hw => hw⟩

theorem Leaves.post_completion {m : Packet} {s : State} (h : Leaves m s) (p k q : Nat) (op : NetOp) :
    Leaves m (post s p k op (.completion q)) := by
  obtain ⟨-, he⟩ | ⟨-, he⟩ | ⟨-, he⟩ := post_completion_cases s p k q op <;> rw [he]
  · exact h
  · exact h.transmit ..
  · exact h

/-- A lost completion is noted in its own queue only. -/
theorem queue_failOwner_completion (s : State) {q r : Nat} (kind : Nat) (h : r ≠ q) :
    (failOwner s (.completion q) kind).queue r = s.queue r := by
  let g : Nat → Queue → Queue := fun k x => if k = q then { x with clost := true } else x
  have hmap : (failOwner s (.completion q) kind).queues = s.queues.map fun p => (p.1, g p.1 p.2) := by
    refine List.map_congr_left fun p _ => ?_
    simp only [g]; split <;> simp_all
  have hg : g r = id := by funext x; simp [g, h]
  simp [State.queue, tget, hmap, tfind_map, hg]

theorem post_completion_pkg (s : State) (p k q : Nat) (op : NetOp) : (post s p k op (.completion q)).pkg = s.pkg := by
  obtain ⟨-, he⟩ | ⟨-, he⟩ | ⟨-, he⟩ := post_completion_cases s p k q op <;> rw [he]
  · rfl
  · exact transmit_pkg ..
  · rfl

theorem queue_post_completion (s : State) (p k : Nat) {q r : Nat} (op : NetOp) (h : r ≠ q) :
    (post s p k op (.completion q)).queue r = s.queue r := by
  obtain ⟨-, he⟩ | ⟨-, he⟩ | ⟨-, he⟩ := post_completion_cases s p k q op <;> rw [he]
  · exact queue_failOwner_completion s 6 h
  · simp [State.queue, transmit_queues]
  · rfl

/-! ## Completion words (R55, R68, R69) -/

/-- The write of a completion word with a status, to the place that the queue's descriptor names. -/
def Queue.completionWrite (x : Queue) (st : Nat) : NetOp :=
  .write (bits x.desc 128 64) (x.desc.extractLsb' 224 32) (bytesOf 8 (x.ridx.toNat + st * 2 ^ 32 + (if x.cont then 2 ^ 40 else 0))) none

/-- A word leaves the machine, or waits on its connection. -/
def Posted (p k q : Nat) (op : NetOp) (s : State) : Prop :=
  (∃ psn, Leaves (.request p k psn op) s) ∨ (op, .completion q) ∈ (s.conn (connKey p k)).waiting ∧ (s.conn (connKey p k)).valid = true

theorem queue_setQueue (s : State) (k n : Nat) (x : Queue) : (s.setQueue k x).queue n = if n = k then x else s.queue n :=
  tget_tset ..

theorem postHost_cases (s : State) (q : Nat) (op : NetOp) :
    (∃ p k, p = bits (s.queue q).desc 192 3 ∧ k = bits (s.queue q).desc 196 12 ∧ postHost s q op = post s p k op (.completion q)) ∨
    ∃ f, postHost s q op = s.modQueue q f := by
  by_cases hv : (s.conn (connKey (bits (s.queue q).desc 192 3) (bits (s.queue q).desc 196 12))).valid = true
  · exact .inl ⟨_, _, rfl, rfl, if_pos hv⟩
  · exact .inr ⟨_, if_neg hv⟩

/-- A word without a SEND, of a queue that is not halted. -/
theorem writeWord_eq (s : State) (q : Nat) (st : Byte) : writeWord s q st false = if (s.queue q).halt then s else
    postHost (s.setQueue q { s.queue q with cont := false }) q ((s.queue q).completionWrite st.toNat) := rfl

theorem queue_writeWord (s : State) {q r : Nat} (st : Byte) (h : r ≠ q) : (writeWord s q st false).queue r = s.queue r := by
  rw [writeWord_eq]
  split
  · rfl
  · obtain ⟨p, k, -, -, he⟩ | ⟨f, he⟩ := postHost_cases (s.setQueue q { s.queue q with cont := false }) q _ <;> rw [he]
    · rw [queue_post_completion _ _ _ _ h, queue_setQueue, if_neg h]
    · rw [State.modQueue, queue_setQueue, if_neg h, queue_setQueue, if_neg h]

theorem conn_writeWord (s : State) (q n : Nat) (st : Byte) : ((writeWord s q st false).conn n).entry = (s.conn n).entry ∧
    ∀ w ∈ (s.conn n).waiting, w ∈ ((writeWord s q st false).conn n).waiting := by
  rw [writeWord_eq]
  split
  · exact ⟨rfl, fun _ h => h⟩
  · obtain ⟨p, k, -, -, he⟩ | ⟨f, he⟩ := postHost_cases (s.setQueue q { s.queue q with cont := false }) q _ <;> rw [he]
    · exact conn_post_completion (s.setQueue q _) ..
    · exact ⟨rfl, fun _ h => h⟩

theorem writeWord_pkg (s : State) (q : Nat) (st : Byte) : (writeWord s q st false).pkg = s.pkg := by
  rw [writeWord_eq]
  split
  · rfl
  · obtain ⟨p, k, -, -, he⟩ | ⟨f, he⟩ := postHost_cases (s.setQueue q { s.queue q with cont := false }) q _ <;> rw [he]
    · exact post_completion_pkg ..
    · rfl

theorem Leaves.writeWord {m : Packet} {s : State} (h : Leaves m s) (q : Nat) (st : Byte) : Leaves m (writeWord s q st false) := by
  rw [writeWord_eq]
  split
  · exact h
  · obtain ⟨p, k, -, -, he⟩ | ⟨f, he⟩ := postHost_cases (s.setQueue q { s.queue q with cont := false }) q _ <;> rw [he]
    · exact Leaves.post_completion (s := s.setQueue q _) h ..
    · exact h

theorem Posted.writeWord {p k q : Nat} {op : NetOp} {s : State} (h : Posted p k q op s) (r : Nat) (st : Byte) :
    Posted p k q op (writeWord s r st false) := by
  obtain ⟨psn, h⟩ | ⟨hw, hv⟩ := h
  · exact .inl ⟨psn, h.writeWord r st⟩
  · obtain ⟨he, hkeep⟩ := conn_writeWord s r (connKey p k) st
    exact .inr ⟨hkeep _ hw, by rwa [Conn.valid, he]⟩

/-- A queue whose completion connection can take a word. -/
def Reaches (q : Nat) (x : Queue) (s : State) : Prop :=
  s.queue q = x ∧
    let c := s.conn (connKey (bits x.desc 192 3) (bits x.desc 196 12))
    c.valid = true ∧ c.err = false

theorem Reaches.writeWord_other {q r : Nat} {x : Queue} {s : State} (h : Reaches q x s) (st : Byte) (hr : q ≠ r) :
    Reaches q x (writeWord s r st false) := by
  obtain ⟨hx, hv, he⟩ := h
  have hc := (conn_writeWord s r (connKey (bits x.desc 192 3) (bits x.desc 196 12)) st).1
  exact ⟨by rw [queue_writeWord s st hr, hx], by rwa [Conn.valid, hc], by rwa [Conn.err, hc]⟩

theorem Reaches.posted {q : Nat} {x : Queue} {s : State} (h : Reaches q x s) (st : Byte) (hh : x.halt = false) :
    Posted (bits x.desc 192 3) (bits x.desc 196 12) q (x.completionWrite st.toNat) (writeWord s q st false) := by
  obtain ⟨rfl, hv, he⟩ := h
  let s1 := s.setQueue q { s.queue q with cont := false }
  have hq : (s1.queue q).desc = (s.queue q).desc := by rw [queue_setQueue, if_pos rfl]
  have hpost : postHost s1 q ((s.queue q).completionWrite st.toNat) =
      post s1 (bits (s.queue q).desc 192 3) (bits (s.queue q).desc 196 12) ((s.queue q).completionWrite st.toNat) (.completion q) := by
    rw [postHost, hq]; exact if_pos hv
  rw [writeWord_eq, if_neg (by simp [hh]), hpost]
  obtain ⟨herr, -⟩ | ⟨-, ht⟩ | ⟨-, ht⟩ := post_completion_cases s1 (bits (s.queue q).desc 192 3) (bits (s.queue q).desc 196 12) q
    ((s.queue q).completionWrite st.toNat)
  · exact absurd (herr.symm.trans he) Bool.noConfusion
  · rw [ht]; exact .inl (transmit_leaves ..)
  · rw [ht]; exact .inr (by rw [conn_setConn, if_pos rfl]; exact ⟨by simp, hv⟩)

/-! ## Sending what waits (R20) -/

/-- The completion word that THERMAL_HALT writes for one queue, with its free error status. -/
def haltWord (s : State) (q : Nat) : State :=
  writeWord (s.draw 8).2 q (BitVec.ofNat 8 (1 + (s.draw 8).1.toNat % 255)) false

/-- The words of the queues: each leaves or waits, with an error status. -/
theorem haltWords_posted {q : Nat} {x : Queue} (hh : x.halt = false) {l : List Nat} {s : State} (hq : q ∈ l) (h : Reaches q x s) :
    ∃ st, 1 ≤ st ∧ st < 256 ∧ Posted (bits x.desc 192 3) (bits x.desc 196 12) q (x.completionWrite st) (l.foldl haltWord s) := by
  let Q : State → Prop := fun s =>
    ∃ st, 1 ≤ st ∧ st < 256 ∧ Posted (bits x.desc 192 3) (bits x.desc 196 12) q (x.completionWrite st) s
  have hit : ∀ s, Reaches q x s → Q (haltWord s q) := fun s h => by
    have hst : (BitVec.ofNat 8 (1 + (s.draw 8).1.toNat % 255)).toNat = 1 + (s.draw 8).1.toNat % 255 := by
      rw [BitVec.toNat_ofNat]; omega
    refine ⟨_, ?_, BitVec.isLt _, Reaches.posted (s := (s.draw 8).2) h _ hh⟩
    omega
  refine foldl_reaches (P := Reaches q x) (Q := Q) (a := q) (fun s r h => ?_) hit (fun s r h => ?_) l s hq h
  · by_cases hr : q = r
    · exact .inr (hr ▸ hit s h)
    · exact .inl (Reaches.writeWord_other (s := (s.draw 8).2) h _ hr)
  · obtain ⟨st, h1, h2, hp⟩ := h
    exact ⟨st, h1, h2, Posted.writeWord (s := (s.draw 8).2) hp ..⟩

theorem sendWords_keeps {P : State → Prop} (h : ∀ s p k op o, P s → P (transmit s p k op o)) {s : State} (key : Nat) (hs : P s) :
    P (sendWords s key) :=
  List.foldlRecOn _ _ hs fun s hs _ _ => h s _ _ _ _ hs

/-- The connection on which a word waits sends it. -/
theorem sendWords_leaves {p k q : Nat} {op : NetOp} {s : State} (hk : k < 4096)
    (h : (op, NetOwner.completion q) ∈ (s.conn (connKey p k)).waiting) :
    ∃ psn, Leaves (.request p k psn op) (sendWords s (connKey p k)) := by
  have hp : connKey p k / 4096 = p := by unfold connKey; omega
  have hc : connKey p k % 4096 = k := by unfold connKey; omega
  refine foldl_reaches (P := fun _ => True) (Q := fun s => ∃ psn, Leaves (.request p k psn op) s) (a := (op, .completion q))
    (fun _ _ _ => .inl trivial) (fun s _ => ?_) (fun s _ ⟨psn, h⟩ => ⟨psn, h.transmit ..⟩) _ s (by simp [h]) trivial
  rw [hp, hc]
  exact transmit_leaves ..

/-- What waits on a connection leaves once every connection has sent its words. -/
theorem Posted.leaves {p k q : Nat} {op : NetOp} {s : State} (hk : k < 4096) (h : Posted p k q op s) :
    ∃ psn, Leaves (.request p k psn op) (s.conns.foldl (fun s c => sendWords s c.1) s) := by
  let Q : State → Prop := fun s => ∃ psn, Leaves (.request p k psn op) s
  have keeps : ∀ s n, Q s → Q (sendWords s n) := fun s n h =>
    sendWords_keeps (P := Q) (fun s _ _ _ _ ⟨psn, h⟩ => ⟨psn, h.transmit ..⟩) n h
  obtain h | ⟨hw, hv⟩ := h
  · exact List.foldlRecOn (motive := Q) _ _ h fun s h c _ => keeps s c.1 h
  · obtain ⟨c, hc⟩ : ∃ c, tfind s.conns (connKey p k) = some c := by
      cases hf : tfind s.conns (connKey p k) with
      | some c => exact ⟨c, rfl⟩
      | none => simp [State.conn, tget, hf, Conn.valid, Conn.reset] at hv
    refine foldl_reaches (P := fun s => (op, NetOwner.completion q) ∈ (s.conn (connKey p k)).waiting) (Q := Q)
      (a := (connKey p k, c)) (fun s n h => .inl ?_) (fun s h => sendWords_leaves hk h) (fun s n => keeps s n.1) _ s (mem_of_tfind hc) hw
    exact sendWords_keeps (P := fun s => (op, NetOwner.completion q) ∈ (s.conn (connKey p k)).waiting)
      (fun _ _ _ _ _ h => by rwa [(conn_transmit ..).2]) n.1 h

/-! ## THERMAL_HALT (R20) -/

/-- The state that THERMAL_HALT leaves once the words have been sent and the pauses have ended. -/
def haltSent (s : State) : State :=
  let s1 := (runningQueues s).foldl haltWord s
  (List.range 8).foldl unpause (s1.conns.foldl (fun s c => sendWords s c.1) s1)

theorem haltSent_pkg (s : State) : (haltSent s).pkg = s.pkg := by
  have words : ∀ (l : List Nat) (s : State), (l.foldl haltWord s).pkg = s.pkg :=
    foldl_keeps State.pkg haltWord fun s q => writeWord_pkg (s.draw 8).2 ..
  have waits : ∀ (l : Table Conn) (s : State), (l.foldl (fun s c => sendWords s c.1) s).pkg = s.pkg :=
    foldl_keeps State.pkg _ fun s c => foldl_keeps State.pkg _ (fun s _ => transmit_pkg s ..) ..
  have pauses : ∀ (l : List Nat) (s : State), (l.foldl unpause s).pkg = s.pkg :=
    foldl_keeps State.pkg unpause fun s p => (unpause_eq s p).2.2
  rw [haltSent, pauses, waits, words]

theorem haltSent_wire {s : State} {q : Nat} {x : Queue} (hm : (q, x) ∈ s.queues) (hrun : ∃ e ∈ x.window, e.st = .started)
    (hkeys : s.queues.Pairwise fun a b => a.1 ≠ b.1) (hh : x.halt = false)
    (hv : (s.conn (connKey (bits x.desc 192 3) (bits x.desc 196 12))).valid = true)
    (he : (s.conn (connKey (bits x.desc 192 3) (bits x.desc 196 12))).err = false) :
    ∃ st psn, 1 ≤ st ∧ st < 256 ∧
      Packet.request (bits x.desc 192 3) (bits x.desc 196 12) psn (x.completionWrite st) ∈ (haltSent s).wire := by
  have hq : q ∈ runningQueues s := by
    obtain ⟨e, hew, hst⟩ := hrun
    exact List.mem_map.mpr ⟨(q, x), List.mem_filter.mpr ⟨hm, List.any_eq_true.mpr ⟨e, hew, decide_eq_true hst⟩⟩, rfl⟩
  have hx : s.queue q = x := by simp [State.queue, tget, tfind_of_mem hm hkeys]
  obtain ⟨st, h1, h2, hp⟩ := haltWords_posted hh hq ⟨hx, hv, he⟩
  obtain ⟨psn, hl⟩ := hp.leaves (BitVec.isLt _)
  exact ⟨st, psn, h1, h2, hl.wire_unpaused (BitVec.isLt _)⟩

/-- The off state after a halt. -/
theorem powerLoss_halted (s : State) :
    let t := powerLoss (s.alert fun a => { a with thermal := true }) .halted true
    t.pkg.power = .off ∧ t.pkg.boot = .halted ∧ t.pkg.alerts.thermal = true ∧ t.pkg.i3c = s.pkg.i3c ∧ t.wire = s.wire ∧
      t.teams = [] ∧ t.contexts = [] ∧ t.mem.hbm = [] :=
  ⟨rfl, rfl, rfl, rfl, rfl, rfl, rfl, rfl⟩

/-- THERMAL_HALT (R20): what is sent, and then the off state. -/
theorem thermalHalt_next (sensor temp : Nat) (s : State) :
    let y := { s.die (sensor / 8) with temps := (s.die (sensor / 8)).temps.set (sensor % 8) temp }
    exec (.thermalHalt sensor temp) s = .next (if temp < 110 ∨ s.pkg.power = .off then s
      else powerLoss ((haltSent (s.setDie (sensor / 8) y)).alert fun a => { a with thermal := true }) .halted true) := by
  intro y
  show Host.Outcome.next (if (decide (temp < 110) || decide (s.pkg.power = .off)) = true then s else _) = _
  simp only [Bool.or_eq_true, decide_eq_true_eq]
  rfl

end Sys2Proof.Machine
end

section

open Sys2Proof Sys2Proof.Machine

/-- Settles O42: every event is one equation of the package's dies and alerts, or a loss of power; the words of THERMAL_HALT are
followed from their queues to the wire. -/
theorem powerAndClocks : Obligations.PowerAndClocks := by
  unfold Obligations.PowerAndClocks
  intro s d hdies hd x steps slower
  have hd' : d < s.pkg.dies.length := hdies ▸ hd
  refine ⟨fun i hi => ?loss, inputPowerReturn_next s, ⟨_, rfl, rfl, rfl⟩, fun i hi => ?low, rfl, fun w => ?cap,
    fun k temp hk => ?crossed, ⟨_, rfl, ?drop⟩, ?climb, fun k temp hk => ⟨_, thermalHalt_next .., ?halt⟩⟩
  case loss =>
    have next : exec i s = .next (powerLoss s .inReset false) := by
      obtain rfl | rfl : i = .inputOvervoltageDisconnect ∨ i = .inputDropoutExpiry := by simpa using hi
      · rfl
      · rfl
    exact ⟨_, next, powerLost_powerLoss ..⟩
  case low =>
    have next : exec i s = .next (inputLow s) := by
      obtain rfl | rfl : i = .inputVoltageLowBand ∨ i = .inputDropout := by simpa using hi
      · rfl
      · rfl
    exact ⟨_, next, inputLow_keeps hdies⟩
  case cap =>
    exact powerCapCheck_next w hd'
  case crossed =>
    refine ⟨_, thermalThresholdCrossed_next temp hd' hk, ?_, fun hcool => ?_, fun hhot hx => ?_, fun hhot hx => ?_⟩
    · split
      · split
        · rfl
        · rfl
      · rfl
    · rw [if_neg (Nat.not_le.mpr hcool)]
    · rw [if_pos hhot, if_pos hx]
    · rw [if_pos hhot, if_neg (by simp [x] at hx; simp [hx])]
      rfl
  case drop =>
    by_cases h : x.hot = true ∧ 95 ≤ hottest x
    · rw [if_pos h, if_pos (by simpa using h)]
      rfl
    · rw [if_neg h, if_neg (by simpa using h)]
  case climb =>
    show Host.Outcome.next (if _ then s else _) = _
    simp only [Bool.or_eq_true, decide_eq_true_eq]
    rfl
  case halt =>
    by_cases h : temp < 110 ∨ s.pkg.power = .off
    · rw [if_pos h, if_pos h]
    · rw [if_neg h, if_neg h]
      obtain ⟨hpower, hboot, halert, hi3c, hwire, hteams, hctx, hhbm⟩ := powerLoss_halted (haltSent (s.setDie _ _))
      refine ⟨hpower, hboot, halert, hi3c.trans (by rw [haltSent_pkg]; rfl), hteams, hctx, hhbm,
        fun q x hm hrun hkeys hh c hc hv he => ?_⟩
      rw [hwire]
      subst hc
      exact haltSent_wire (s := s.setDie _ _) hm hrun hkeys hh hv he

end

section
/-! PROOFS. The POWER request for Retention (R15, R42), on a line that the memory-side cache holds with uncorrectable data (R30). -/

namespace Sys2Proof.Machine

theorem mgmtStore_pkg (s : State) (o : Nat) (bs : Bytes) : (mgmtStore s o bs).pkg = s.pkg := rfl

theorem withMgmt_pkg (s : State) (m : Mgmt) : ({ s with mgmt := m } : State).pkg = s.pkg := rfl

/-- An answer without a SEND is written in the management region alone. -/
theorem answerReq_pkg {s : State} {r : MgmtReq} (st : Byte) (body : Bytes) (h : r.sendr = false) :
    (answerReq s r st body).pkg = s.pkg := by
  rw [answerReq, h, if_neg Bool.false_ne_true, withMgmt_pkg, mgmtStore_pkg, mgmtStore_pkg]

/-- POWER_RETENTION (R15) of a module without resident teams. -/
theorem powerRetention_next {s : State} {r : MgmtReq} (hr : nextReq s = some r) (hopc : r.opc = 25) (hindex : r.index = 2)
    (hres : r.reserved = false) (hlen : r.len ≤ 4032) (hteams : (takeReq s r).residents = []) :
    let s1 := emptyCaches (takeReq s r)
    exec .powerRetention s = .next (answerReq { s1 with pkg := { s1.pkg with power := .retention } } r 0 []) := by
  show execPowerRetention s = _
  unfold execPowerRetention serve
  simp [hr, hopc, hindex, hres, Nat.not_lt.mpr hlen, hteams]

/-- A POWER request for Retention, taken and not yet answered (R42: operation code 0x19, INDEX 2). -/
def retentionReq : MgmtReq := ⟨0, 0, 1, BitVec.ofNat 512 (0x19 + 2 * 2 ^ 64), [], 0⟩

/-- A module without teams, whose memory-side cache holds line 5 clean and valid, with data that are uncorrectable (R30, log 91),
as it takes the request. -/
def staleAtRetention : State :=
  { State.reset with
    pkg := { State.reset.pkg with badMsc := [5] }
    mem := { State.reset.mem with msc := [(5, { (default : MscLine) with valid := 0xF })] }
    mgmt := { State.reset.mgmt with current := some retentionReq } }

theorem staleAtRetention_next : nextReq staleAtRetention = some retentionReq := rfl

theorem staleAtRetention_taken : takeReq staleAtRetention retentionReq = staleAtRetention := rfl

/-- The line leaves the cache for Retention, and with it what marked its data as uncorrectable. -/
theorem emptyCaches_staleAtRetention : (emptyCaches staleAtRetention).pkg.badMsc = [] := by decide +kernel

end Sys2Proof.Machine
end

section

open Sys2Proof Sys2Proof.Machine

/-- Refutes O49: the request for Retention is said to leave all of the package but its power state as it was where no line of a
cache is dirty. A clean line with uncorrectable data leaves the memory-side cache too, and its mark (R30) goes with it. -/
theorem not_managementOfMachine : ¬ Obligations.ManagementOfMachine := by
  unfold Obligations.ManagementOfMachine
  intro h
  obtain ⟨-, -, -, -, -, hpower, -⟩ := h staleAtRetention retentionReq staleAtRetention_next
  have hopc : retentionReq.opc = 25 := by decide +kernel
  have hindex : retentionReq.index = 2 := by decide +kernel
  have hlive : retentionReq.reserved = false ∧ retentionReq.len ≤ 4032 := by decide +kernel
  obtain ⟨-, -, -, -, hretention, -⟩ := hpower hopc hlive
  rw [staleAtRetention_taken] at hretention
  obtain ⟨u, hu, -, -, -, -, hsame⟩ := hretention hindex rfl
  have hpkg : u.pkg.badMsc = [] := by
    rw [powerRetention_next staleAtRetention_next hopc hindex hlive.1 hlive.2 rfl, Host.Outcome.next.injEq] at hu
    have hsent : retentionReq.sendr = false := by decide +kernel
    rw [← answerReq_pkg (s := u) 0 [] hsent, ← hu, answerReq_pkg _ _ hsent]
    exact emptyCaches_staleAtRetention
  rw [hsame (fun _ => rfl) rfl (by decide)] at hpkg
  exact absurd hpkg (by decide)

end
